-- ==== Sys2Proof/Word.lean ====
section
/-! DEFINITION. The word types of the DZ1's fields. Every multi-byte field is little-endian and bit 0 is the least significant (R3). -/

namespace Sys2Proof

/-- One byte. -/
abbrev Byte := BitVec 8

abbrev W16 := BitVec 16
abbrev W32 := BitVec 32

/-- The count of a post has 48 bits (R223). -/
abbrev W48 := BitVec 48
abbrev W64 := BitVec 64

/-- A sparse table: its entries by ascending number. What an unlisted number holds is said where the table is read. -/
abbrev Tbl (α : Type) := List (Nat × α)

end Sys2Proof
end

