-- ==== Sys2Proof/Syntax.lean ====
section
/-! DEFINITION. The commands of the DZ1: one constructor of Instr for each row of the opcode table, with the operands the spec gives the row. -/

namespace Sys2Proof

/-! ## Operands that name a unit -/

/-- A PCIe function: the physical function of a host port (vf = 0) or one of its 31 virtual functions (R421, R555). -/
structure Func where
  port : Fin 2
  vf   : Fin 32
  deriving DecidableEq, Repr

/-- Who reads or writes a register: a function of a host port, or the sideband (R347, R560, R561). -/
inductive Accessor where
  | func (f : Func)
  | sideband
  deriving DecidableEq, Repr

/-- The caches of a core that a parity error can meet (R123). -/
inductive CoreCache where
  | l1 | constant | descriptor | instruction
  deriving DecidableEq, Repr

/-- What the reads of a core's register file, local store and caches find during an instruction (R123). -/
inductive SramResult where
  | clean | corrected | uncorrectable
  /-- a parity error in the L1, the constant, descriptor or instruction cache, in the line-th of the lines it holds -/
  | parity (cache : CoreCache) (line : Nat)
  deriving DecidableEq, Repr

/-- The issuing team of an instruction: a logical core N (R23), a resident block of it and a team of that block.
The issuing group is the current group of the team's ring (R84). -/
structure Issue where
  core : Fin 1024
  slot : Fin 16
  team : Fin 16
  sram : SramResult
  deriving DecidableEq, Repr

/-- The fields of a 128-bit instruction word but FAM and OP, which the command's own row names (R95). -/
structure IWord where
  /-- bits 127:125 and 123:120, which must be zero -/
  rsv   : BitVec 7
  yield : Bool
  ext   : BitVec 24
  imm   : W32
  pen   : Bool
  pdst  : BitVec 3
  mod   : BitVec 3
  fmt   : BitVec 5
  srcC  : BitVec 9
  srcB  : BitVec 9
  srcA  : BitVec 9
  dst   : BitVec 9
  gneg  : Bool
  gpred : BitVec 3
  deriving DecidableEq, Repr

/-- A direction of a wire: toward higher or lower coordinates, or east to west and west to east of a seam group. -/
inductive WireUnit where
  /-- mesh link by its UINDEX of R461 -/
  | mesh (link : Fin 2048)
  /-- die-edge group: edge of R461 and its group (24, or 8 toward an I/O die: R456) -/
  | edge (edge : Fin 12) (group : Fin 24)
  /-- seam group -/
  | seam (group : Fin 16)
  deriving DecidableEq, Repr

/-! ## Tyest packets (R356, R361) -/

/-- The header of a packet as its ring delivers it: the ring in sweep order (0 and 1 the managers of P0 and P1, 2 + p paddock p),
TAG, PADDOCK, IRQ, FENCE, and with ATBEAT the beat that parameter bytes 0 to 7 name. -/
structure CmdHdr where
  ring    : Fin 34
  tag     : W32
  paddock : Byte
  irq     : Bool
  fence   : Bool
  atBeat  : Option W64
  deriving DecidableEq, Repr

/-- Extent descriptor of EXT.MAP (R278). PBASE is ignored in EXT.MAP. -/
structure ExtDesc where
  index  : BitVec 12
  space  : Bool
  half   : Bool
  shared : Bool
  backed : Bool
  conf   : Bool
  hint   : BitVec 2
  migr   : Bool
  tag    : BitVec 10
  bkidx  : BitVec 12
  vbase  : W64
  len    : W32
  hbase  : W64
  raddr  : W64
  deriving DecidableEq, Repr

/-- An extent named by TAG and INDEX, with granules FIRST and COUNT where the command takes them (R374). -/
structure ExtRange where
  tag   : BitVec 10
  index : BitVec 12
  first : W32
  count : W32
  deriving DecidableEq, Repr

/-- Parameters of EXT.SHARE (R374). -/
structure ShareParams where
  spad   : BitVec 5
  stag   : BitVec 10
  sindex : BitVec 12
  ttag   : BitVec 10
  tindex : BitVec 12
  tvbase : W64
  deriving DecidableEq, Repr

/-- A dray descriptor by its fields (R204); dchkOk says that DCHK matches, rsv that a reserved field is nonzero. -/
structure DrayDesc where
  op      : BitVec 4
  dspace  : BitVec 3
  sspace  : BitVec 3
  hint    : BitVec 2
  crypt   : BitVec 2
  chk     : BitVec 4
  wait    : Bool
  dcore   : BitVec 10
  score   : BitVec 10
  daddr   : W64
  saddr   : W64
  len     : W32
  rows    : W16
  sstride : W32
  dstride : W32
  dpost   : W32
  wpost   : W32
  wtarget : W48
  tag     : W32
  rsv     : Bool
  dchkOk  : Bool
  deriving DecidableEq, Repr

/-- Parameters of COPY (R374). -/
structure CopyParams where
  iodie : Byte
  tag   : BitVec 10
  desc  : DrayDesc
  deriving DecidableEq, Repr

/-- A dray queue record (R201). -/
structure QueueRec where
  dray     : BitVec 5
  die      : BitVec 4
  queue    : BitVec 2
  log2size : BitVec 4
  rspace   : Bool
  kick     : W32
  cpost    : W32
  aspace   : BitVec 10
  rbase    : W64
  deriving DecidableEq, Repr

/-- One bucket word of PAD.CREATE: RATE in GB/s and DEPTH in KiB (R392). -/
structure Bucket where
  rate  : W16
  depth : W16
  deriving DecidableEq, Repr

/-- The parameters of PAD.CREATE (R392). posts holds byte d for die d, buckets the four bucket words. -/
structure PadParams where
  port      : Bool
  lc        : Bool
  autores   : Bool
  serve     : BitVec 2
  cring     : BitVec 5
  sring     : BitVec 5
  qmask     : W32
  cache     : W32
  commons   : W32
  taglo     : BitVec 10
  ntag      : BitVec 11
  winlo     : Byte
  nwin      : BitVec 9
  posts     : Vector Byte 8
  stacke    : W32
  stackw    : W32
  barne     : W32
  barnw     : W32
  spille    : BitVec 9
  spillw    : BitVec 9
  tokbudget : W16
  chunk     : W16
  kvtag     : BitVec 10
  maxseq    : BitVec 10
  kvtok     : W32
  kvgrow    : BitVec 11
  nbuf      : BitVec 7
  boff      : W32
  spost     : BitVec 15
  buckets   : Vector Bucket 4
  queues    : List QueueRec
  deriving DecidableEq, Repr

/-- Parameters of JOB.LAUNCH (R380). -/
structure LaunchParams where
  prog    : W64
  arg     : W64
  shape   : W32
  blocks  : W32
  tag     : BitVec 10
  sw      : BitVec 4
  sh      : BitVec 4
  limitAc : W32
  seed    : W64
  px      : BitVec 6
  py      : BitVec 4
  pw      : BitVec 6
  ph      : BitVec 4
  dpost   : W32
  deriving DecidableEq, Repr

/-- Parameters of PIPE.START (R380). -/
structure StartParams where
  b0    : W64
  seed  : W64
  count : W32
  epost : W32
  deriving DecidableEq, Repr

/-- Parameters of PIPE.MOVE (R380). -/
structure MoveParams where
  stage : BitVec 6
  px    : BitVec 6
  py    : BitVec 4
  deriving DecidableEq, Repr

/-- Parameters of BATCH.SUBMIT (R413). -/
structure BatchParams where
  addr  : W64
  len   : W32
  dpost : W32
  deriving DecidableEq, Repr

/-- Parameters of SEQ.JOIN (R411). -/
structure JoinParams where
  plen   : W32
  maxtok : W32
  prompt : W64
  user   : W64
  deriving DecidableEq, Repr

/-- Group record of SYNC.GROUP (R342), ACTION apart. -/
structure GroupRec where
  gid     : W16
  self    : BitVec 12
  nmemb   : BitVec 13
  policy  : BitVec 2
  lead    : Byte
  lendW   : W16
  ttl     : BitVec 4
  capstep : W16
  ports   : BitVec 36
  deriving DecidableEq, Repr

/-- Window entry of WIN.OPEN (R293); WGEN is ignored in WIN.OPEN. -/
structure WinEntry where
  win   : Byte
  rd    : Bool
  wr    : Bool
  add   : Bool
  tag   : BitVec 10
  post0 : BitVec 15
  npost : W16
  vbase : W64
  len   : W32
  deriving DecidableEq, Repr

/-- Parameters of SNAP.STREAM (R387). -/
structure StreamParams where
  gen    : Byte
  target : BitVec 4
  unit   : BitVec 4
  cont   : Bool
  offset : W64
  limit  : W64
  deriving DecidableEq, Repr

/-- Parameters of BEAT.SET (R390). -/
structure BeatSetParams where
  t0     : W64
  n0     : W64
  period : W32
  source : Byte
  deriving DecidableEq, Repr

/-- Parameters of CONF.ENTER (R390). -/
structure ConfParams where
  session : W32
  bounce  : W64
  pages   : W32
  deriving DecidableEq, Repr

/-! ## What the outside or a measurement supplies -/

/-- The straps of one die as read at power-on (R18). -/
structure Strap where
  half   : Bool
  slot   : BitVec 3
  mirror : Bool
  deriving DecidableEq, Repr, Inhabited

/-- What the checks of R516 on an image alone find: the first that fails, if one does. -/
inductive ImageCheck where
  | ok
  | header
  | signature
  | readFailed
  deriving DecidableEq, Repr, Inhabited

/-- A firmware image as it is read (R515, R516): the 256 bytes of its header, the hashes of its programs, and what the hash of FWKEY and the verification of
SIG come to (both uninterpreted, log 12). -/
structure Image where
  readable : Bool
  header   : List Byte
  /-- the measurements of the Yardmaster, Lodge and Weathervane programs -/
  meas     : Vector (BitVec 256) 3
  /-- SHA-256 of FWKEY is the fused hash, and SIG verifies with FWKEY -/
  signed   : Bool
  deriving DecidableEq, Repr, Inhabited

/-- What the self-test and the trainings of a cold start find (R536, R540, R542): parts that fail, by number. -/
structure ColdInputs where
  straps      : Vector Strap 12
  /-- halves whose seam and die-edge training succeeds at full or half width -/
  trained     : Vector Bool 2
  /-- physical core sites P that fail -/
  badSites    : List Nat
  /-- physical slices that fail: 34 × die + slice -/
  badSlices   : List Nat
  /-- active lanes whose die side fails: 72 × die + lane -/
  badLanes    : List Nat
  /-- data and check wires that fail: the link or group, its direction, the wire (R542) -/
  badWires    : List (WireUnit × Bool × Fin 1056)
  /-- stacks that fail their training -/
  badStacks   : List Nat
  /-- pseudo-channels whose interface fails its training: 64 × stack + pseudo-channel (R323) -/
  badPcs      : List Nat
  /-- the flash image as the boot ROM finds it -/
  flash       : Image
  /-- duration in ms, as TEST_START.MS reports it -/
  ms          : W16
  deriving DecidableEq, Repr, Inhabited

/-- What the Weathervane measures in the last beat and predicts at a beat boundary: the base in W, P48V in mV, the draw of each die in W, of each stage
(paddock, stage number) and of each launch (paddock, 64 + launch number) in W, and the invocations it predicts late: paddock, stage, whether it is the next
invocation and not the running one, SLIP (R343, R499, R501). -/
structure BoundaryInputs where
  base      : Nat
  millivolt : Nat
  dies      : List (Fin 8 × Nat)
  draws     : List (Fin 32 × Nat × Nat)
  late      : List (Fin 32 × Fin 64 × Bool × Byte)
  deriving DecidableEq, Repr

/-- A flit as the receiver finds it after FEC: its sequence number, whether the CRC holds, the acknowledgement its header carries,
and the FEC's report (R429, R430). -/
structure Flit where
  seq     : Nat
  crcOk   : Bool
  ack     : Option Nat
  fecCorr : Nat
  fecUnc  : Nat
  deriving DecidableEq, Repr

/-- A BEAT_REF frame as it came (R329): the high time of each of its cycles in ns, and how far its frequency lies from 10 MHz, in ppm (R337). -/
structure RefFrame where
  highs : List Nat
  ppm   : Nat
  deriving DecidableEq, Repr

/-- A PTP Sync message: its domain, the time it gives, its offset in ns, and the servo step it causes in ns (R328, R330, R337, R339). -/
structure SyncMsg where
  domain : Byte
  time   : W64
  offset : Nat
  step   : Nat
  deriving DecidableEq, Repr

/-- Why the reference is lost (R337). -/
inductive LossCause where
  | noEdge | invalidCycle | noFrameStart | frameNumber | frequency | port0 | noSync | servoStep
  deriving DecidableEq, Repr

/-- A LATE packet (R437). -/
structure LatePkt where
  gid    : W16
  origin : BitVec 12
  seq    : W16
  d      : W64
  apply  : W64
  slip   : Byte
  ttl    : BitVec 4
  short  : Bool
  deriving DecidableEq, Repr

/-- Header fields of a transaction packet (R433), TYPE apart, which the command's row names. -/
structure TxHdr where
  last   : Bool
  win    : Byte
  wgen   : Byte
  rpost  : BitVec 12
  anchor : BitVec 10
  offset : W64
  len    : W32
  rtag   : W32
  deriving DecidableEq, Repr

/-- A received Ethernet frame by the protocol that claims it (R444, R445). -/
inductive EthFrame where
  /-- RoCE v2 of a target's queue pair; ecn is the IP ECN mark -/
  | roce (target : Fin 16) (ecn : Bool)
  | arp
  | neighbour
  /-- IEEE 1588 message -/
  | ptp
  | other
  deriving DecidableEq, Repr

/-- One request through BAR2 (R297). -/
inductive ApReq where
  | read (len : Nat)
  | write (bytes : List Byte)
  deriving DecidableEq, Repr

/-- What a read by a stack controller finds in a 64 B (R308, R309). -/
inductive EccResult where
  | clean | corrected | uncorrectable
  deriving DecidableEq, Repr, Inhabited

/-- The end of a packet's way: of a path's packet, or of an access's packet, by its number. bad: a router where its HCHK fails (R162). -/
structure Arrival where
  id  : Nat
  bad : Option (Fin 1024)
  deriving DecidableEq, Repr

/-- A string-shared access at a local store, and what its read of the store finds (R123). -/
structure LocalArrival where
  id    : Nat
  found : EccResult
  bad   : Option (Fin 1024)
  deriving DecidableEq, Repr

/-- A stack whose stand-in's copy ends, and the 64 B, by number, whose reads found errors (R324). -/
structure StandinCopy where
  stack : Fin 16
  found : List (Nat × EccResult)
  deriving DecidableEq, Repr

/-- What the path monitors of a quadrant report (R509, R510). -/
inductive Slack where
  /-- below the guard -/
  | low
  /-- at or above the guard -/
  | ok
  /-- above twice the guard for 24 h -/
  | ample
  deriving DecidableEq, Repr

/-- A scan of the test chain (R550, R551). -/
inductive ChainOp where
  /-- TRST_N: reset of the TAP controllers -/
  | reset
  /-- access to an IEEE 1687 instrument of die i of the chain that can read or change device state -/
  | instrument (die : Fin 12)
  /-- soft repair of a row through a held stack's IEEE 1500 port -/
  | softRepair (stack : Fin 16) (pc : Fin 64) (bank : Fin 64) (row : Fin 24576)
  /-- read of spare-row counts and repair state through that port -/
  | readRepair (stack : Fin 16)
  deriving DecidableEq, Repr

/-- An MCTP endpoint: a function of a host port, or the sideband (R522). -/
abbrev Endpoint := Accessor

/-- A pair of registers that follow the LO and HI rule of R347. -/
inductive Pair where
  | beatNow
  | beatRt
  | cntLive (i : Fin 4096)
  | cntSnap (k : Fin 4) (i : Fin 4096)
  | chkBytes (d : Fin 2) (u : Fin 8)
  | chkValue (d : Fin 2) (u : Fin 8)
  deriving DecidableEq, Repr

/-- A command of the DZ1, one constructor for each row of spec/opcode_table.json, in its order. -/
inductive Instr where
  /-- PWR_EN_RISE: A rising edge of PWR_EN begins a cold start, which sequences the rails, reads the straps and runs the steps of R536. (R538) -/
  | pwrEnRise (c : ColdInputs)
  /-- INPUT_RANGE: P48V stays out of range for 100 µs, so all clocks stop, the dies power down and all jobs are lost. (R29) -/
  | inputRange
  /-- BUTTON_PRESS: A debounced press starts hold timing; in STABLED it starts an exit instead. (R31) -/
  | buttonPress
  /-- BUTTON_HOLD_2S: The hold reaches 2 s and the fault LED flashes once. (R31) -/
  | buttonHold2s
  /-- BUTTON_HOLD_10S: The hold reaches 10 s and the identify LED flashes once. (R31) -/
  | buttonHold10s
  /-- BUTTON_RELEASE: At a debounced release, the DZ1 acts by hold time: it toggles identify, requests a drain, or does nothing. (R31) -/
  | buttonRelease
  /-- IDENTIFY_TIMEOUT: Identify turns off 30 minutes after it was last turned on. (R33) -/
  | identifyTimeout
  /-- CAGE_LED_STREAM: Every 10 ms the 72-bit cage LED stream is shifted out and latched. (R37) -/
  | cageLedStream
  /-- CAGE_PRES_EDGE: A change of CAGE_PRES_N starts or restarts the 100 ms presence debounce. (R39) -/
  | cagePresEdge (port : Fin 36) (low : Bool)
  /-- CONFIRMED_INSERTION: CAGE_PRES_N has been low for 100 ms; a LINK entry is written and training starts. (R40) -/
  | confirmedInsertion (port : Fin 36)
  /-- CONFIRMED_REMOVAL: CAGE_PRES_N has been high for 100 ms; a LINK entry is written, training stops and the port discards its flits. (R40) -/
  | confirmedRemoval (port : Fin 36)
  /-- RECEIVED_SIGNAL_LOST: A port loses its received signal, goes down, writes DOWN and starts a recovery retrain. (R40) -/
  | receivedSignalLost (port : Fin 36)
  /-- TRAINING_COMPLETE: Link training succeeds, the port comes up and a LINK entry gives the trained width. (R426) -/
  | trainingComplete (port : Fin 36) (width : Fin 5) (peer : BitVec 48) (peerPort : BitVec 6)
  /-- TRAINING_FAILED: An initial training attempt fails within 2,000 ms and writes one LINK entry. (R426) -/
  | trainingFailed (port : Fin 36)
  /-- TRAINING_RETRY: Every 10 s after a failure, while the cable stays present and the port enabled, training is tried again. (R426) -/
  | trainingRetry (port : Fin 36)
  /-- RECOVERED: A recovery retrain comes up within 100 ms with the same peer, and the sender resumes from the peer's next expected flit. (R431) -/
  | recovered (port : Fin 36) (width : Fin 5) (peer : BitVec 48) (peerPort : BitVec 6) (expected : Nat)
  /-- RECOVERY_WINDOW_EXPIRY: 100 ms pass without recovery, so the port discards its unacknowledged flits and queued packets. (R431) -/
  | recoveryWindowExpiry (port : Fin 36)
  /-- FLIT_RECEIVED: A flit is checked after FEC, then acknowledged, or answered with a NAK, or discarded as a duplicate. (R430) -/
  | flitReceived (port : Fin 36) (flit : Flit)
  /-- NAK_RECEIVED: The sender resends from the NAKed flit, and the 16th resend takes the port down. (R430) -/
  | nakReceived (port : Fin 36) (seq : Nat)
  /-- ACK_TIMEOUT: 1 ms passes without any acknowledgement and the port goes down. (R430) -/
  | ackTimeout (port : Fin 36)
  /-- LANE_FAILED: A lane is judged failed and a near-end loopback test is started. (R427) -/
  | laneFailed (die : Fin 2) (lane : Fin 72)
  /-- LOOPBACK_TEST_DONE: The loopback result brings in a spare lane, or the port narrows or goes down. (R427) -/
  | loopbackTestDone (die : Fin 2) (lane : Fin 72) (dieSide : Bool)
  /-- WIRE_FAILED: A failed wire is replaced by a spare, or its link or group drops to half width and the budgets are checked again. (R457) -/
  | wireFailed (u : WireUnit) (toHigh : Bool) (wire : Fin 1056)
  /-- HALF_LOSS: A half is lost: its rails go off, HALF_LOST is written, paddocks are removed or re-placed, and jobs are lost. (R484) -/
  | halfLoss (west : Bool)
  /-- PERST_ASSERT: PERST of a host port is asserted, and its rings are skipped. (R422) -/
  | perstAssert (port : Fin 2)
  /-- PERST_DEASSERT: PERST is deasserted; after a long assertion this exits STABLED, and before step 9 the port is held in Detect. (R496) -/
  | perstDeassert (port : Fin 2) (long : Bool)
  /-- HOST_LINK_DOWN: A host port's link goes down; its rings are skipped and COPY commands on it stop. (R422) -/
  | hostLinkDown (port : Fin 2)
  /-- HOST_LINK_UP: After link-up and functional reset, sweeping resumes and stopped COPY commands complete. (R422) -/
  | hostLinkUp (port : Fin 2)
  /-- D3HOT_ENTRY: A function enters D3hot; its ring is skipped and its entries are discarded or counted. (R423) -/
  | d3hotEntry (f : Func)
  /-- D0_RETURN: A function returns to D0 with its setup intact, and sweeping of its ring resumes. (R423) -/
  | d0Return (f : Func)
  /-- SRIOV_ENABLE: The manager's SR-IOV enable makes the virtual functions of existing paddocks reappear. (R422) -/
  | sriovEnable (port : Fin 2) (numVf : Fin 32)
  /-- APERTURE_REQUEST: A BAR2 request is translated in the function's aperture address space and checked at memory. (R297) -/
  | apertureRequest (f : Func) (addr : W64) (req : ApReq)
  /-- SWEEP: A sweep visits the rings in sweep order, reads CPROD and SCONS, takes up to 64 packets and writes CCONS. (R354) -/
  | sweep
  /-- BEAT_BOUNDARY: At a beat boundary, the events due act in order: latch, beat-class writes, caps, at-beat commands, releases and deadlines. (R335) -/
  | beatBoundary (m : BoundaryInputs)
  /-- REFERENCE_LOST: The beat reference is lost, the count freezes, scheduled events wait and one BEAT entry is written. (R338) -/
  | referenceLost (cause : LossCause)
  /-- BEAT_REF_FRAME: A decoded BEAT_REF frame counts toward regaining the reference, or resets the count. (R339) -/
  | beatRefFrame (frame : RefFrame)
  /-- PTP_SYNC_MESSAGE: A PTP Sync message on port 0 updates RT and counts toward regaining the reference. (R330) -/
  | ptpSyncMessage (msg : SyncMsg)
  /-- REFERENCE_REGAINED: The reference is regained and the DZ1 computes the beat to resume at. (R339) -/
  | referenceRegained
  /-- LATE: A received LATE packet is recorded, forwarded, or dropped as a duplicate. (R344) -/
  | lateReceived (port : Fin 36) (pkt : LatePkt)
  /-- DEV_INFO: Returns the firmware version, cores, halves, paddocks and free granules. (R370) -/
  | devInfo (h : CmdHdr)
  /-- DEV_WARM: Performs a warm start, with an optional restore. (R371) -/
  | devWarm (h : CmdHdr) (restore : Bool)
  /-- DEV_HALFLOSS: Declares a named half lost. (R372) -/
  | devHalfloss (h : CmdHdr) (half : Byte)
  /-- EXT_MAP: Places a new or replacing extent. (R279) -/
  | extMap (h : CmdHdr) (d : ExtDesc)
  /-- EXT_UNMAP: Removes an extent or share entry through the epoch change of R291. (R375) -/
  | extUnmap (h : CmdHdr) (tag : BitVec 10) (index : BitVec 12)
  /-- EXT_ADVISE_HINT: Sets an extent's default hint and bumps the epoch. (R298) -/
  | extAdviseHint (h : CmdHdr) (tag : BitVec 10) (index : BitVec 12) (hint : BitVec 2)
  /-- EXT_ADVISE_HOST: Moves granules of a MIGR extent to the host buffer. (R299) -/
  | extAdviseHost (h : CmdHdr) (r : ExtRange)
  /-- EXT_ADVISE_APERTURE: Selects the aperture address space of the issuing function. (R297) -/
  | extAdviseAperture (h : CmdHdr) (tag : BitVec 10)
  /-- EXT_ADVISE_MIGMODE: Sets a tag's migration mode and HOTCOUNT. (R298) -/
  | extAdviseMigmode (h : CmdHdr) (tag : BitVec 10) (mode : BitVec 2) (hotcount : W16)
  /-- EXT_PREFETCH: Moves granules of a MIGR extent to DEV. (R299) -/
  | extPrefetch (h : CmdHdr) (r : ExtRange)
  /-- COPY: Runs one dray descriptor on queue 3 of an I/O die in the paddock's context. (R376) -/
  | copy (h : CmdHdr) (p : CopyParams)
  /-- EXT_SHARE: Adds a read-only share entry of a source extent to a target address space. (R285) -/
  | extShare (h : CmdHdr) (p : ShareParams)
  /-- PAD_CREATE: Creates a paddock from the pool. (R392) -/
  | padCreate (h : CmdHdr) (p : PadParams)
  /-- PAD_DESTROY: Drains or squashes a paddock, then returns its resources. (R417) -/
  | padDestroy (h : CmdHdr) (mode : Byte)
  /-- PAD_RESET: Drains or squashes a paddock's work and keeps its setup. (R415) -/
  | padReset (h : CmdHdr) (mode : Byte)
  /-- PAD_QUERY: Returns the paddock's job counts, state and class. (R379) -/
  | padQuery (h : CmdHdr)
  /-- JOB_LAUNCH: Runs a launch of blocks on a rectangle. (R381) -/
  | jobLaunch (h : CmdHdr) (p : LaunchParams)
  /-- PIPE_LOAD: Reads a pipeline table and admits it. (R186) -/
  | pipeLoad (h : CmdHdr) (table : W64) (tag : BitVec 10)
  /-- PIPE_START: Starts the loaded pipeline at beat b0. (R382) -/
  | pipeStart (h : CmdHdr) (p : StartParams)
  /-- PIPE_MOVE: Admits a move of one stage to a new plot. (R190) -/
  | pipeMove (h : CmdHdr) (p : MoveParams)
  /-- BATCH_SUBMIT: Queues a host-formed step record on a fixed-batch channel. (R413) -/
  | batchSubmit (h : CmdHdr) (p : BatchParams)
  /-- SEQ_JOIN: Queues a new sequence on an ordinary channel. (R411) -/
  | seqJoin (h : CmdHdr) (p : JoinParams)
  /-- SEQ_LEAVE: Asks for a sequence to be removed at the next step formation. (R411) -/
  | seqLeave (h : CmdHdr) (seqid : W32)
  /-- POST_SET: The command sets a paddock post. (R383) -/
  | postSet (h : CmdHdr) (post : BitVec 15) (value : W48)
  /-- POST_WAIT: The command registers a wait on a post, with an optional timeout. (R384) -/
  | postWait (h : CmdHdr) (post : BitVec 15) (target : W48) (timeout : W32)
  /-- POST_WAIT_TIMEOUT: A POST.WAIT reaches its timeout and writes TIMED_OUT. (R384) -/
  | postWaitTimeout (seq : Nat)
  /-- SYNC_GROUP_JOIN: Joins or replaces a synchronous group. (R342) -/
  | syncGroupJoin (h : CmdHdr) (g : GroupRec)
  /-- SYNC_GROUP_LEAVE: Leaves a synchronous group. (R342) -/
  | syncGroupLeave (h : CmdHdr) (g : GroupRec)
  /-- WIN_OPEN: Opens a window and bumps its WGEN. (R294) -/
  | winOpen (h : CmdHdr) (w : WinEntry)
  /-- WIN_CLOSE: Closes a window at once and waits for operations in flight. (R296) -/
  | winClose (h : CmdHdr) (win : Byte)
  /-- WINDOW_DRAINED: The last operation through a closed window completes, and the WIN.CLOSE status is written. (R296) -/
  | windowDrained (win : Fin 256)
  /-- LINK_STATE_QUERY: Returns a port's state, width, mode and cable presence. (R386) -/
  | linkStateQuery (h : CmdHdr) (port : BitVec 6)
  /-- LINK_STATE_ENABLE: Enables a port and starts training if a cable is present. (R425) -/
  | linkStateEnable (h : CmdHdr) (port : BitVec 6)
  /-- LINK_STATE_DISABLE: Takes a port down at once, and both ports of a 1.6TbE pair. (R425) -/
  | linkStateDisable (h : CmdHdr) (port : BitVec 6)
  /-- LINK_STATE_SET: Sets a port's mode and width and retrains it. (R425) -/
  | linkStateSet (h : CmdHdr) (port : BitVec 6) (mode : BitVec 2) (width : BitVec 3)
  /-- CHECK_SETUP_ARM: Arms a check unit with a polynomial and clears its value. (R452) -/
  | checkSetupArm (h : CmdHdr) (west : Bool) (unit : BitVec 4) (poly : BitVec 2)
  /-- CHECK_SETUP_READ: Reads a check unit's value over completed descriptors. (R452) -/
  | checkSetupRead (h : CmdHdr) (west : Bool) (unit : BitVec 4)
  /-- SNAP_MARK: Starts baling of the non-current generation at its boundary. (R475) -/
  | snapMark (h : CmdHdr) (full : Bool)
  /-- MARK_COPY_DONE: Every pending granule is copied, so the generation becomes current and DONE is written. (R475) -/
  | markCopyDone
  /-- HELD_WRITE_RELEASE: A write held on a pending granule is performed once the copy has read that granule. (R476) -/
  | heldWriteRelease (half : Fin 2) (granule : Fin 393216)
  /-- SNAP_RESTORE: Copies the qualifying granules of a generation back to the Stack. (R479) -/
  | snapRestore (h : CmdHdr) (gen : Byte)
  /-- FAULT_ACK: Acknowledges a NEEDACK fault entry so that its record can close. (R462) -/
  | faultAck (h : CmdHdr) (seq : W64)
  /-- SNAP_STREAM: Streams a generation image to a storage target, once or continuously. (R481) -/
  | snapStream (h : CmdHdr) (p : StreamParams)
  /-- STREAM_IMAGE_DONE: The header of an image is written last, completing the image. (R481) -/
  | streamImageDone (gen : Fin 2)
  /-- PWR_CAP: Sets the device cap or a paddock's share. (R500) -/
  | pwrCap (h : CmdHdr) (watts : W16)
  /-- PWR_STATE: Moves the device to a named power state. (R494) -/
  | pwrState (h : CmdHdr) (state : BitVec 3) (keep : BitVec 9)
  /-- PWR_FIXED: Enables or disables fixed-frequency mode. (R506) -/
  | pwrFixed (h : CmdHdr) (enable : Bool) (mhz : W16)
  /-- ATT_REPORT: Writes a signed attestation report to host memory. (R391) -/
  | attReport (h : CmdHdr) (dest : W64) (size : W32) (nonce : BitVec 256)
  /-- CONF_ENTER: Makes a paddock confidential and derives its bounce keys. (R526) -/
  | confEnter (h : CmdHdr) (p : ConfParams)
  /-- CNT_SNAP: Schedules a counter latch into a slot at a beat. (R340) -/
  | cntSnap (h : CmdHdr) (beat : W64) (slot : BitVec 2)
  /-- BEAT_SET: Sets the beat source, start time, start beat and period. (R332) -/
  | beatSet (h : CmdHdr) (p : BeatSetParams)
  /-- TEST_SELF: Runs the core-site test on a free quadrant. (R553) -/
  | testSelf (h : CmdHdr) (quad : BitVec 5) (bad : List (Fin 36))
  /-- TEST_COLD: Begins a cold start, or a kept cold start when KEEP is set. (R535) -/
  | testCold (h : CmdHdr) (keep : Bool) (c : ColdInputs)
  /-- TAG_DRAIN_DONE: No old-phase transfer of a tag remains, so the freed granules are cleared and the status is written. (R291) -/
  | tagDrainDone (tag : Fin 1024)
  /-- PAD_DRAIN_STEP_DONE: A waiting step of a reset or destroy finishes, and the next step runs. (R415) -/
  | padDrainStepDone (pad : Fin 32)
  /-- DEMAND_FETCH_DONE: A granule fetched from the host buffer is DEV, and the waiting accesses proceed. (R300) -/
  | demandFetchDone (tag : Fin 1024) (index : Fin 4096) (granule : Nat)
  /-- MIGRATION_SAMPLE_PERIOD: At the end of a sampling period, hot unused granules move to HOST and the counts restart. (R302) -/
  | migrationSamplePeriod
  /-- MIGRATION_MOVE_DONE: A granule move completes and its residence byte is written. (R299) -/
  | migrationMoveDone (tag : Fin 1024) (index : Fin 4096) (granule : Nat)
  /-- SWAP_OUT_DONE: A swapped sequence's copy to the Barn completes and its Stack granules return. (R412) -/
  | swapOutDone (pad : Fin 32) (slot : Fin 1024)
  /-- SWAP_IN_DONE: A swapped sequence's memory is copied back, and it runs from the next step formed. (R410) -/
  | swapInDone (pad : Fin 32) (slot : Fin 1024)
  /-- INVOCATION_END: Every block of an invocation has exited and its sends are read, so tiles commit and the next invocation may start. (R174) -/
  | invocationEnd (pad : Fin 32) (stage : Fin 64)
  /-- MOVE_REPLAYS_LANDED: Every replay has landed and the restarted blocks have started, so the PIPE.MOVE status is written. (R195) -/
  | moveReplaysLanded (pad : Fin 32) (stage : Fin 64)
  /-- BLOCK_START: A block, or a whole string, becomes resident and its teams are placed on schedulers. (R91) -/
  | blockStart (pad : Fin 32) (core : Fin 1024)
  /-- QUANTUM_EXPIRY: A group has issued 16 instructions and the scheduler moves to the next ready group. (R84) -/
  | quantumExpiry (i : Issue)
  /-- WATCHDOG: A block's ac count passes its bound and it raises a WATCHDOG job fault. (R122) -/
  | watchdog (core : Fin 1024) (slot : Fin 16)
  /-- COMPUTE_RESTART_END: The compute dies are re-placed, the restart ends, and auto-resume begins. (R469) -/
  | computeRestartEnd (us : W32)
  /-- AUTO_RESUME: A paddock's granules are restored and its pipeline is reloaded from the resume record. (R471) -/
  | autoResume (pad : Fin 32)
  /-- SCRUB_READ: The patrol scrubber reads a 64 B of its stack, correcting or poisoning it. (R310) -/
  | scrubRead (stack : Fin 16) (pc : Fin 64) (bank : Fin 64) (row : Fin 24576) (sub : Fin 16) (found : EccResult)
  /-- STANDIN_INSTALL_DONE: A stand-in's copy ends, the table switches, and the held accesses resume. (R324) -/
  | standinInstallDone (stack : StandinCopy)
  /-- REFETCH_DONE: A poisoned granule is rewritten from its second copy, and the held accesses resume. (R467) -/
  | refetchDone (half : Fin 2) (granule : Fin 393216)
  /-- STACK_TEMP_READ: Every 1 ms a stack temperature read sets its refresh rate and throttle. (R315) -/
  | stackTempRead (stack : Fin 16) (temp : Option Byte)
  /-- DIE_TEMP_READ: Every 100 µs a die junction reading starts or ends a thermal action. (R507) -/
  | dieTempRead (die : Fin 8) (temp : Byte) (held1ms : Bool)
  /-- MARGIN_CHECK: Every 10 ms path monitors trim the rails, or lower the die ceiling. (R510) -/
  | marginCheck (die : Fin 8) (quad : Fin 4) (slack : Slack)
  /-- VOLTAGE_DROOP: A detected droop stretches a region's cycles. (R508) -/
  | voltageDroop (die : Fin 8) (region : Fin 5)
  /-- DROOP_RECOVERED: The supply recovers and cycles return to normal length. (R508) -/
  | droopRecovered (die : Fin 8) (region : Fin 5) (fc : W32)
  /-- TROT_ENTRY: 1 µs after the last work ends, the device enters TROT. (R493) -/
  | trotEntry
  /-- GALLOP_EXIT_DONE: An exit to GALLOP completes, and the waiting commands and requests proceed. (R495) -/
  | gallopExitDone
  /-- SLICE_RETIREMENT_DONE: A slice's retirement copy ends, the map switches, and the waiting requests resume. (R273) -/
  | sliceRetirementDone
  /-- DRAY_DESCRIPTOR_READ: A dray reads the next descriptor once KICK allows, and starts it or skips it. (R202) -/
  | drayDescriptorRead (die : Fin 10) (dray : Fin 16) (queue : Fin 3)
  /-- DRAY_PART_LANDED: A part of a dray transfer lands and its bytes are added to DPOST. (R207) -/
  | drayPartLanded (xfer : Nat) (bytes : Nat) (ecc : EccResult)
  /-- COPY_PART_LANDED: Bytes of a cp land and are added to its post. (R119) -/
  | copyPartLanded (copy : Nat) (bytes : Nat) (ecc : EccResult)
  /-- SEND_DESCRIPTOR_READ: A send queue reads and starts a send descriptor, or fails it. (R439) -/
  | sendDescriptorRead (queue : Fin 64)
  /-- LINK_ACK: A peer acknowledgement adds payload bytes to LPOST. (R442) -/
  | linkAck (op : Nat) (bytes : Nat)
  /-- STORE_COMMAND_COMPLETE: A storage target completes a command, LPOST is counted, or STORE_ERR fails it. (R442) -/
  | storeCommandComplete (op : Nat) (ok : Bool) (data : List Byte)
  /-- TARGET_CONNECT_DONE: A storage target connection becomes ready or fails. (R446) -/
  | targetConnectDone (target : Fin 16) (ok : Bool)
  /-- WRITE: A remote WRITE is checked at its window and performed as a STACK write. (R295) -/
  | remoteWrite (port : Fin 36) (t : TxHdr) (data : List Byte)
  /-- READ_REQ: A remote read is checked at its window, performed, and answered by READ_RSP. (R295) -/
  | readReq (port : Fin 36) (t : TxHdr)
  /-- READ_RSP: Read data lands at the requester and counts in LPOST. (R442) -/
  | readRsp (port : Fin 36) (t : TxHdr) (data : List Byte)
  /-- ADD_F32: A remote FP32 add is performed as add-to-line. (R259) -/
  | addF32 (port : Fin 36) (t : TxHdr) (vals : List W32)
  /-- ADD_ANCH_VAL: A remote anchored add of values is performed at its line. (R261) -/
  | addAnchVal (port : Fin 36) (t : TxHdr) (vals : List W32)
  /-- ADD_ANCH_LONG: A remote anchored add of long forms is performed at its line. (R261) -/
  | addAnchLong (port : Fin 36) (t : TxHdr) (longs : List (BitVec 192))
  /-- LINK_POST_ADD: A remote POST_ADD adds LEN to a window post. (R434) -/
  | linkPostAdd (port : Fin 36) (t : TxHdr)
  /-- ETHERNET_FRAME: A received Ethernet frame is handled by its protocol, or dropped and counted. (R445) -/
  | ethernetFrame (port : Fin 36) (frame : EthFrame)
  /-- ADD_TO_LINE: An add request at a home slice is performed on an ordinary, open or spilled line. (R261) -/
  | addToLine (req : Nat)
  /-- SPILL_DONE: A pinned line's long forms reach their spill slot and its frames are freed. (R266) -/
  | spillDone (req : Nat)
  /-- RELOAD_DONE: A spilled line is reloaded into a pin and the add is combined. (R266) -/
  | reloadDone (req : Nat)
  /-- POST_UPDATE: An add or set reaches a post's home and completes any waits it satisfies. (R223) -/
  | postUpdate (upd : Nat)
  /-- WAIT_POLL: A wait without an entry polls its post every 256 fc. (R231) -/
  | waitPoll (wait : Nat)
  /-- PATH_DATA: A path packet lands in its slot and adds to its post. (R180) -/
  | pathData (pkt : Arrival)
  /-- CREDIT: A CREDIT packet returns slots to a producer and frees waiting sends. (R184) -/
  | credit (pkt : Arrival)
  /-- RED: A reduction contribution arrives; at full fan-in the router combines and forwards. (R167) -/
  | red (pkt : Arrival)
  /-- LOCAL_REQ: A string-shared access is performed at another member's local store. (R94) -/
  | localReq (acc : LocalArrival)
  /-- LOCAL_RSP: The reply to a string-shared access returns to the requester. (R94) -/
  | localRsp (acc : Arrival)
  /-- LOFT_REQ: A core's Loft or Stack access travels to its edge port and slice. (R156) -/
  | loftReq (acc : Arrival) (ecc : EccResult)
  /-- LOFT_RSP: The reply of a Loft access returns to the core. (R156) -/
  | loftRsp (acc : Arrival)
  /-- HARNESS_GRANT: A waiting harness.open is granted its tiles in issue order. (R126) -/
  | harnessGrant (core : Fin 1024)
  /-- MMA_COMPLETE: A matrix instruction completes and its flags land in the team's flags. (R141) -/
  | mmaComplete (core : Fin 1024)
  /-- BARRIER_RELEASE: Every team has arrived at a block barrier, so the barrier releases. (R109) -/
  | barrierRelease (core : Fin 1024) (slot : Fin 16) (barrier : Fin 16)
  /-- DOZE_EXPIRY: A dozing thread's IMM ac have passed. (R108) -/
  | dozeExpiry (i : Issue) (lane : Fin 32)
  /-- INT_ADD: Integer add, wrapping or saturated. (R101) -/
  | intAdd (i : Issue) (w : IWord)
  /-- INT_SUB: Integer subtract. (R101) -/
  | intSub (i : Issue) (w : IWord)
  /-- INT_MULL: Low half of a product. (R101) -/
  | intMull (i : Issue) (w : IWord)
  /-- INT_MULH: High half of a product. (R101) -/
  | intMulh (i : Issue) (w : IWord)
  /-- INT_MULADD: Low half of a product plus c. (R101) -/
  | intMuladd (i : Issue) (w : IWord)
  /-- INT_MIN: Smaller of two integers. (R101) -/
  | intMin (i : Issue) (w : IWord)
  /-- INT_MAX: Larger of two integers. (R101) -/
  | intMax (i : Issue) (w : IWord)
  /-- INT_ABS: Signed absolute value. (R101) -/
  | intAbs (i : Issue) (w : IWord)
  /-- INT_AND: Bitwise and. (R101) -/
  | intAnd (i : Issue) (w : IWord)
  /-- INT_OR: Bitwise or. (R101) -/
  | intOr (i : Issue) (w : IWord)
  /-- INT_XOR: Bitwise xor. (R101) -/
  | intXor (i : Issue) (w : IWord)
  /-- INT_NOT: Bitwise not. (R101) -/
  | intNot (i : Issue) (w : IWord)
  /-- INT_SHL: Shift left. (R101) -/
  | intShl (i : Issue) (w : IWord)
  /-- INT_SHR: Logical shift right. (R101) -/
  | intShr (i : Issue) (w : IWord)
  /-- INT_SAR: Arithmetic shift right. (R101) -/
  | intSar (i : Issue) (w : IWord)
  /-- INT_ONES: Count of ones. (R101) -/
  | intOnes (i : Issue) (w : IWord)
  /-- INT_LZC: Count of leading zeros. (R101) -/
  | intLzc (i : Issue) (w : IWord)
  /-- INT_BITREV: Bit reversal. (R101) -/
  | intBitrev (i : Issue) (w : IWord)
  /-- INT_FGET: Extracts a bit field. (R101) -/
  | intFget (i : Issue) (w : IWord)
  /-- INT_FPUT: Inserts a bit field. (R101) -/
  | intFput (i : Issue) (w : IWord)
  /-- INT_PICK: Selects a or b by a predicate. (R101) -/
  | intPick (i : Issue) (w : IWord)
  /-- INT_CMP: Integer compare into PDST. (R103) -/
  | intCmp (i : Issue) (w : IWord)
  /-- INT_MOV: Moves a value. (R101) -/
  | intMov (i : Issue) (w : IWord)
  /-- LANE_GET: Reads a value from another lane of the group. (R101) -/
  | laneGet (i : Issue) (w : IWord)
  /-- LANE_MASK: Forms a mask of the group's true predicates. (R101) -/
  | laneMask (i : Issue) (w : IWord)
  /-- FLT_ADD: Floating-point add. (R102) -/
  | fltAdd (i : Issue) (w : IWord)
  /-- FLT_SUB: Floating-point subtract. (R102) -/
  | fltSub (i : Issue) (w : IWord)
  /-- FLT_MUL: Floating-point multiply. (R102) -/
  | fltMul (i : Issue) (w : IWord)
  /-- FLT_FMA: Fused multiply-add with one rounding. (R102) -/
  | fltFma (i : Issue) (w : IWord)
  /-- FLT_DIV: Correctly rounded division. (R102) -/
  | fltDiv (i : Issue) (w : IWord)
  /-- FLT_SQRT: Correctly rounded square root. (R102) -/
  | fltSqrt (i : Issue) (w : IWord)
  /-- FLT_MIN: minimumNumber. (R102) -/
  | fltMin (i : Issue) (w : IWord)
  /-- FLT_MAX: maximumNumber. (R102) -/
  | fltMax (i : Issue) (w : IWord)
  /-- FLT_ABS: Clears the sign. (R102) -/
  | fltAbs (i : Issue) (w : IWord)
  /-- FLT_NEG: Flips the sign. (R102) -/
  | fltNeg (i : Issue) (w : IWord)
  /-- FLT_CMP: Quiet floating-point compare into PDST. (R103) -/
  | fltCmp (i : Issue) (w : IWord)
  /-- EXP2_EST: Estimate of 2^a. (R102) -/
  | exp2Est (i : Issue) (w : IWord)
  /-- LOG2_EST: Estimate of log2 a. (R102) -/
  | log2Est (i : Issue) (w : IWord)
  /-- RSQ_EST: Estimate of the reciprocal square root. (R102) -/
  | rsqEst (i : Issue) (w : IWord)
  /-- CVT: Converts between element formats. (R106) -/
  | cvt (i : Issue) (w : IWord)
  /-- CVT_F2I: Converts a float to an integer. (R105) -/
  | cvtF2i (i : Issue) (w : IWord)
  /-- CVT_I2F: Converts an integer to a float. (R105) -/
  | cvtI2f (i : Issue) (w : IWord)
  /-- CVT_BLK: Converts lanes to an MX block or a KX4 tile. (R107) -/
  | cvtBlk (i : Issue) (w : IWord)
  /-- JMP: Relative branch. (R108) -/
  | jmp (i : Issue) (w : IWord)
  /-- JMPI: Indirect branch. (R108) -/
  | jmpi (i : Issue) (w : IWord)
  /-- CALL: Call with a push onto the call stack. (R110) -/
  | call (i : Issue) (w : IWord)
  /-- RET: Return from the call stack. (R108) -/
  | ret (i : Issue) (w : IWord)
  /-- END: The thread ends; a block ends when all its threads have ended. (R108) -/
  | endThread (i : Issue) (w : IWord)
  /-- TEAM_JOIN: The thread waits for the named threads of its team. (R109) -/
  | teamJoin (i : Issue) (w : IWord)
  /-- BLOCK_WAIT: The team arrives at a block barrier. (R109) -/
  | blockWait (i : Issue) (w : IWord)
  /-- DOZE: The thread waits IMM ac. (R108) -/
  | doze (i : Issue) (w : IWord)
  /-- TRAP: Raises the TRAP job fault. (R108) -/
  | trap (i : Issue) (w : IWord)
  /-- NOP: Does nothing. (R108) -/
  | nop (i : Issue) (w : IWord)
  /-- SREG: Reads a special register. (R111) -/
  | sreg (i : Issue) (w : IWord)
  /-- FLAGS_RD: Reads the team's flags. (R111) -/
  | flagsRd (i : Issue) (w : IWord)
  /-- FLAGS_CLR: Clears the team's flags. (R113) -/
  | flagsClr (i : Issue) (w : IWord)
  /-- INVAL_CONST: Invalidates the constant cache. (R253) -/
  | invalConst (i : Issue) (w : IWord)
  /-- INVAL_DESC: Invalidates the descriptor cache. (R253) -/
  | invalDesc (i : Issue) (w : IWord)
  /-- LD: Loads from LOCAL, LOFT or STACK. (R114) -/
  | ld (i : Issue) (w : IWord)
  /-- ST: Stores to LOCAL, LOFT or STACK. (R114) -/
  | st (i : Issue) (w : IWord)
  /-- ATOM: Atomic with return, in ascending lane order. (R117) -/
  | atom (i : Issue) (w : IWord)
  /-- MEM_RED: Atomic without return. (R117) -/
  | memRed (i : Issue) (w : IWord)
  /-- CP: Starts a contiguous copy. (R119) -/
  | cp (i : Issue) (w : IWord)
  /-- CP_ROWS: Starts a row copy. (R119) -/
  | cpRows (i : Issue) (w : IWord)
  /-- HARNESS_OPEN: Opens a harness region and requests accumulator tiles. (R126) -/
  | harnessOpen (i : Issue) (w : IWord)
  /-- HARNESS_CLOSE: Closes the region once earlier MMA work has completed. (R127) -/
  | harnessClose (i : Issue) (w : IWord)
  /-- MMA: Tile ACC += A × Bᵀ in chunk order. (R137) -/
  | mmaTile (i : Issue) (w : IWord)
  /-- ACC_ZERO: Zeroes a tile. (R131) -/
  | accZero (i : Issue) (w : IWord)
  /-- ACC_LD: Loads a tile from the local store. (R131) -/
  | accLd (i : Issue) (w : IWord)
  /-- ACC_ST: Stores a tile, converted. (R133) -/
  | accSt (i : Issue) (w : IWord)
  /-- ACC_RD: Reads a tile row into registers. (R131) -/
  | accRd (i : Issue) (w : IWord)
  /-- ANCH_ZERO: Zeroes an anchored group. (R144) -/
  | anchZero (i : Issue) (w : IWord)
  /-- ANCH_ADD: Enters a value into a long form. (R144) -/
  | anchAdd (i : Issue) (w : IWord)
  /-- ANCH_MERGE: Combines two long forms. (R145) -/
  | anchMerge (i : Issue) (w : IWord)
  /-- ANCH_CLOSE: Closes a long form to FP32 or BF16. (R146) -/
  | anchClose (i : Issue) (w : IWord)
  /-- ANCH_TRED: Combines the long forms of the group's threads. (R144) -/
  | anchTred (i : Issue) (w : IWord)
  /-- ANCH_PROBE: Updates a probe maximum. (R144) -/
  | anchProbe (i : Issue) (w : IWord)
  /-- ANCH_PMAX: Takes the maximum of probes across the group. (R144) -/
  | anchPmax (i : Issue) (w : IWord)
  /-- POST_ADD: The instruction adds to a post, with release effect. (R227) -/
  | postAdd (i : Issue) (w : IWord)
  /-- POST_WAIT_INSTR: The group waits for a post target, with acquire effect. (R228) -/
  | postWaitInstr (i : Issue) (w : IWord)
  /-- POST_RD: Reads a post's count. (R225) -/
  | postRd (i : Issue) (w : IWord)
  /-- POST_SET_INSTR: The instruction sets a post. (R227) -/
  | postSetInstr (i : Issue) (w : IWord)
  /-- PATH_SEND: Sends the core's next tile on a path. (R182) -/
  | pathSend (i : Issue) (w : IWord)
  /-- PATH_INV: Reads the running invocation number. (R181) -/
  | pathInv (i : Issue) (w : IWord)
  /-- GET_VERSION: SPDM version request. (R522) -/
  | getVersion (e : Endpoint)
  /-- GET_CAPABILITIES: SPDM capabilities request. (R522) -/
  | getCapabilities (e : Endpoint)
  /-- NEGOTIATE_ALGORITHMS: SPDM algorithm negotiation. (R522) -/
  | negotiateAlgorithms (e : Endpoint) (agreed : Bool)
  /-- GET_DIGESTS: SPDM certificate digests request. (R522) -/
  | getDigests (e : Endpoint)
  /-- GET_CERTIFICATE: Returns the certificate chain of slot 0. (R514) -/
  | getCertificate (e : Endpoint) (slot : Byte) (offset : W16) (length : W16)
  /-- CHALLENGE: SPDM challenge signed by the alias key. (R522) -/
  | challenge (e : Endpoint) (slot : Byte) (nonce : BitVec 256)
  /-- GET_MEASUREMENTS: Returns the measurement indices. (R523) -/
  | getMeasurements (e : Endpoint) (index : Byte) (signed : Bool) (nonce : BitVec 256)
  /-- KEY_EXCHANGE: Opens an SPDM session, or answers Busy. (R522) -/
  | keyExchange (e : Endpoint) (reqId : W16) (exchange : BitVec 512)
  /-- FINISH: Completes the session handshake. (R522) -/
  | spdmFinish (e : Endpoint) (session : W32) (macOk : Bool)
  /-- HEARTBEAT: Keeps a session alive. (R522) -/
  | heartbeat (e : Endpoint) (session : W32)
  /-- KEY_UPDATE: Updates the session keys. (R522) -/
  | keyUpdate (e : Endpoint) (session : W32)
  /-- END_SESSION: Ends an SPDM session. (R522) -/
  | endSession (e : Endpoint) (session : W32)
  /-- SESSION_HEARTBEAT_EXPIRY: A session with no message for twice its heartbeat period ends. (R522) -/
  | sessionHeartbeatExpiry (session : W32)
  /-- DEBUG_TOKEN: A presented debug token opens debug, or is refused. (R520) -/
  | debugToken (valid : Bool)
  /-- MCTP_MESSAGE: An MCTP transfer on the sideband. (R561) -/
  | mctpMessage (pecOk : Bool) (bytes : List Byte)
  /-- REG_READ: A sideband 32-bit register read. (R561) -/
  | regRead (pecOk : Bool) (offset : W32) (reached : Bool)
  /-- REG_WRITE: A sideband 32-bit register write. (R561) -/
  | regWrite (pecOk : Bool) (offset : W32) (value : W32) (reached : Bool)
  /-- SB_STATUS: Returns the sideband status word. (R561) -/
  | sbStatus
  /-- ALERT_RESPONSE: The Lodge answers the SMBus Alert Response Address while SB_ALERT_N is low. (R562) -/
  | alertResponse
  /-- LOFT_RETIRE_GO: Starts retirement of a named logical slice. (R273) -/
  | loftRetireGo (die : BitVec 3) (slice : BitVec 5)
  /-- STK_REPAIR_REQ_GO: Makes a named row a repair candidate. (R311) -/
  | stkRepairReqGo (stack : BitVec 4) (pc : BitVec 6) (bank : BitVec 6) (row : BitVec 15)
  /-- STK_HOLD_WRITE: Holds a stack for the test chain while no paddock exists. (R314) -/
  | stkHoldWrite (hold : W16)
  /-- RES_RETIRE_GO: Judges a named core failed. (R460) -/
  | resRetireGo (core : BitVec 10)
  /-- SEC_IMG_GO: Reads and checks an image, writing it to flash or booting from it. (R518) -/
  | secImgGo (port : Fin 2) (persist : Bool) (addr : W64) (len : W32) (img : Image)
  /-- SEC_IMG_RAISE: Raises the fused minimum SVN. (R518) -/
  | secImgRaise
  /-- PWR_WAKE: Starts an exit to GALLOP. (R496) -/
  | pwrWake (a : Accessor)
  /-- SVC_DRAIN_CLEAR: Clears the drain-request bit. (R34) -/
  | svcDrainClear
  /-- SVC_IDENT_WRITE: Turns identify on or off. (R33) -/
  | svcIdentWrite (on : Bool)
  /-- LINK_TGT_CONNECT: Reads a target record and connects to the target. (R446) -/
  | linkTgtConnect (port : Fin 2) (target : Fin 16)
  /-- LINK_TGT_DISCONNECT: Disconnects a target after the commands in progress. (R446) -/
  | linkTgtDisconnect (target : Fin 16)
  /-- LINK_SQ_ENABLE: Starts or stops a send queue. (R453) -/
  | linkSqEnable (queue : Fin 64) (enable : Bool)
  /-- FQ_ENABLE: Enables a fault queue, zeroes its indices and delivers held entries. (R567) -/
  | fqEnable (port : Fin 2) (enable : Bool)
  /-- YM_RING_ENABLE: Enables or stops a ring, and the indices are taken at the next sweep. (R566) -/
  | ymRingEnable (f : Func) (enable : Bool)
  /-- PAIR_LO_READ: A LO read latches the HI value for that accessor. (R347) -/
  | pairLoRead (a : Accessor) (p : Pair)
  /-- PAIR_HI_READ: A HI read returns and consumes the latch. (R347) -/
  | pairHiRead (a : Accessor) (p : Pair)
  /-- REGISTER_WRITE: A write to a register without its own row is applied by field class. (R9) -/
  | registerWrite (a : Accessor) (offset : W32) (value : W32)
  /-- ILLEGAL_INSTR: A group issues an instruction word whose family, operation or other field is refused, and the word raises the ILLEGAL_INSTR job fault. (R99) -/
  | illegalInstr (i : Issue) (word : BitVec 128)
  /-- BAD_TRANSACTION_PACKET: A Kilalmir transaction packet arrives with TYPE 0x0 or 0x9 to 0xF, a failed HCHK or a nonzero reserved field, and it is dropped and counted. (R434) -/
  | badTransactionPacket (port : Fin 36)
  /-- BEAT_SET_T0_REACHED: RT reaches T0 of a pending BEAT.SET while no boundary falls there, the new BEAT.SET comes into force and PENDSET clears. (R332) -/
  | beatSetT0Reached
  /-- BACKGROUND_ZEROING_DONE: A granule that is being zeroed in the background finishes zeroing, and an EXT.MAP or mixer run waiting for it proceeds. (R545) -/
  | backgroundZeroingDone (half : Fin 2) (granule : Fin 1048576)
  /-- STACK_INTERFACE_FAILURE: A stack or pseudo-channel interface fails while the device runs, and a stand-in from the snapshot or backing copy begins. (R323) -/
  | stackInterfaceFailure (stack : Fin 16) (pc : Option (Fin 64))
  /-- P48V_IN_RANGE: P48V comes into the range of R29, which powers the Lodge, Gatehouse and Weathervane domains and starts the Lodge whatever PWR_EN reads. (R538) -/
  | p48vInRange
  /-- TEST_CHAIN_ACCESS: A scan on the JTAG pins (TCK, TMS, TDI, TRST_N) operates the die wrappers and IEEE 1687 instruments, and may reach a held stack's IEEE 1500 port for a soft repair. (R550) -/
  | testChainAccess (op : ChainOp)
  /-- ECN_RATE_RECOVERY: Every 55 µs a queue pair whose rate an ECN mark halved recovers its rate by 5 percent. (R444) -/
  | ecnRateRecovery (target : Fin 16)
  deriving DecidableEq, Repr

end Sys2Proof
end

