-- ==== Sys2Proof/Config.lean ====
section
/-! DEFINITION. What a particular DZ1 fixes, and the values the spec leaves open: constants without a body, so that nothing can be proved of them.
Those that take a Nat are applied to the counter free of State; the others to the operands they depend on. -/

namespace Sys2Proof.Config

/-- DESIGN CHOICE, safe: the nanoseconds the Lodge's free-running counter has advanced since it was last read (R487; log 10). -/
opaque elapsedNs : Nat → W64

/-- DESIGN CHOICE, safe: the ac a block's clock has advanced since it was last read (R111, R122; log 10). -/
opaque elapsedAc : Nat → W64

/-- DESIGN CHOICE, safe: a choice among the ways the spec allows (log 2). -/
opaque freeChoice : Nat → Nat

/-- DESIGN CHOICE, safe: what the read of a 64 B finds that a soft repair makes on its own (R312; log 2). -/
opaque freeEcc : Nat → EccResult

/-- DESIGN CHOICE, safe: the candidate estimates of exp2.est, log2.est and rsq.est by input bits; the meanings keep them within the bound of R102 (log 11). -/
opaque exp2Est : W32 → W32
opaque log2Est : W32 → W32
opaque rsqEst : W32 → W32

/-- The 48-bit device identifier in fuses (R514, R534). DESIGN CHOICE, safe (log 4). -/
opaque deviceId : BitVec 48

/-- Silicon revision in fuses (DEV_ID.REV). DESIGN CHOICE, safe (log 4). -/
opaque revision : Byte

/-- The unique device secret in fuses (R513), read by no meaning's result but the key derivations below. -/
opaque deviceSecret : BitVec 256

/-- Measurement 0, of the boot ROM (R516). -/
opaque romMeasurement : BitVec 256

/-- DESIGN CHOICE, safe: what a cold start, a self-test or an image check finds where the command that causes it comes as a ring packet or a plain register
write, which carries no measured input (log 2). -/
opaque freeCold : Nat → ColdInputs
opaque freeSelf : Nat → List (Fin 36)
opaque freeImage : Nat → Image

/-- SHA-256, ECDSA P-256 key derivation and signing, ECDH and HKDF, AES-256-GCM: named by the spec, defined outside it (R513 to R531).
UNVERIFIED, safe: uninterpreted (log 12). -/
opaque sha256 : List Byte → BitVec 256
opaque deriveIdentityKey : BitVec 256 → BitVec 256
opaque deriveAliasKey : BitVec 256 → List (BitVec 256) → W16 → BitVec 256
opaque publicKey : BitVec 256 → BitVec 512
opaque ecdsaSign : BitVec 256 → BitVec 256 → BitVec 512
opaque sessionSecret : W32 → BitVec 512 → BitVec 256
opaque hkdfExpand : BitVec 256 → List Byte → BitVec 256
opaque gcmCipher : BitVec 256 → BitVec 96 → List Byte → List Byte → List Byte
opaque gcmTag : BitVec 256 → BitVec 96 → List Byte → List Byte → BitVec 128
opaque gcmPlain : BitVec 256 → BitVec 96 → List Byte → List Byte → List Byte

/-- The certificates held in flash, in DER form (R514): 2 the intermediate, 3 the device certificate. -/
opaque certificate : Nat → List Byte

/-- The alias certificate that the identity key signs over the alias public key and the measurements (R514). -/
opaque aliasCertificate : BitVec 512 → List (BitVec 256) → BitVec 256 → List Byte

end Sys2Proof.Config
end

