-- ==== Sys2Proof/Machine/State.lean ====
section
/-! DEFINITION. The state of the DZ1 as plain data, its reset, and the reasons a step can stop. -/

namespace Sys2Proof.Machine

/-- A memory: (address, byte) pairs by strictly rising address, none of them zero. An unlisted byte reads zero. -/
abbrev Mem := List Host.Cell

/-! ## Pins, panel, hosts -/

/-- Pins of the module (R27, R28, R39). Sets of cages are bit masks by port. -/
structure Pins where
  p48vOk   : Bool
  pwrEn    : Bool
  pwrOk    : Bool
  perst    : BitVec 2
  sbAddr   : BitVec 2
  /-- CAGE_PRES_N low -/
  cageLow  : BitVec 36
  /-- the 100 ms presence debounce runs -/
  cageDeb  : BitVec 36
  deriving DecidableEq, Repr

/-- The service panel (R31 to R38). stage: 0 shorter than 2 s, 1 the hold has reached 2 s, 2 it has reached 10 s. -/
structure Panel where
  held       : Bool
  ignored    : Bool
  stage      : Fin 3
  ident      : Bool
  drain      : Bool
  faultFlash : Nat
  identFlash : Nat
  cageLeds   : BitVec 72
  deriving DecidableEq, Repr

/-- One host port (R421 to R423). d3: functions in D3hot, bit 0 the physical one. mem is the host's memory behind the port, msix the messages sent
to it (function number, vector), the latest first. -/
structure HostPort where
  up    : Bool
  d3    : W32
  numVf : Nat
  /-- the link is held in Detect, or answers configuration requests with Request Retry Status (R539) -/
  hold  : Bool
  mem   : Mem
  msix  : List (Nat × Nat)
  /-- the model's own: what aperture reads that waited returned, latest first, by the number of the held request -/
  answers : List (Nat × List Byte) := []
  deriving DecidableEq, Repr

/-! ## Rings, commands, faults -/

/-- The YM registers and running indices of one ring (R349 to R354, R566). -/
structure Ring where
  enable   : Bool
  fresh    : Bool
  csize    : BitVec 5
  ssize    : BitVec 5
  vec      : BitVec 2
  cring    : W64
  sring    : W64
  rcb      : W64
  refused  : W32
  ccons    : W64
  sprod    : W64
  scons    : W64
  reserved : Nat
  deriving DecidableEq, Repr

def Ring.reset : Ring :=
  { enable := false, fresh := false, csize := 0x0C, ssize := 0x06, vec := 0, cring := 0, sring := 0, rcb := 0, refused := 0,
    ccons := 0, sprod := 0, scons := 0, reserved := 0 }

/-- A Tyest command by its opcode and parameters (R368). -/
inductive Body where
  | devInfo
  | devWarm (restore : Bool)
  | devHalfloss (half : Byte)
  | extMap (d : ExtDesc)
  | extUnmap (tag : BitVec 10) (index : BitVec 12)
  | adviseHint (tag : BitVec 10) (index : BitVec 12) (hint : BitVec 2)
  | adviseHost (r : ExtRange)
  | adviseAperture (tag : BitVec 10)
  | adviseMigmode (tag : BitVec 10) (mode : BitVec 2) (hotcount : W16)
  | prefetch (r : ExtRange)
  | copy (p : CopyParams)
  | extShare (p : ShareParams)
  | padCreate (p : PadParams)
  | padDestroy (mode : Byte)
  | padReset (mode : Byte)
  | padQuery
  | jobLaunch (p : LaunchParams)
  | pipeLoad (table : W64) (tag : BitVec 10)
  | pipeStart (p : StartParams)
  | pipeMove (p : MoveParams)
  | batchSubmit (p : BatchParams)
  | seqJoin (p : JoinParams)
  | seqLeave (seqid : W32)
  | postSet (post : BitVec 15) (value : W48)
  | postWait (post : BitVec 15) (target : W48) (timeout : W32)
  | groupJoin (g : GroupRec)
  | groupLeave (g : GroupRec)
  | winOpen (w : WinEntry)
  | winClose (win : Byte)
  | linkQuery (port : BitVec 6)
  | linkEnable (port : BitVec 6)
  | linkDisable (port : BitVec 6)
  | linkSet (port : BitVec 6) (mode : BitVec 2) (width : BitVec 3)
  | checkArm (west : Bool) (unit : BitVec 4) (poly : BitVec 2)
  | checkRead (west : Bool) (unit : BitVec 4)
  | snapMark (full : Bool)
  | snapRestore (gen : Byte)
  | faultAck (seq : W64)
  | snapStream (p : StreamParams)
  | pwrCap (watts : W16)
  | pwrState (state : BitVec 3) (keep : BitVec 9)
  | pwrFixed (enable : Bool) (mhz : W16)
  | attReport (dest : W64) (size : W32) (nonce : BitVec 256)
  | confEnter (p : ConfParams)
  | cntSnap (beat : W64) (slot : BitVec 2)
  | beatSet (p : BeatSetParams)
  | testSelf (quad : BitVec 5) (bad : List (Fin 36))
  | testCold (keep : Bool) (c : ColdInputs)
  deriving DecidableEq, Repr

/-- A command taken from a ring whose status entry is not yet written. seq is its place in acceptance order (R355); began says that it has begun, due that
the boundary of its ATBEAT has come (R336, R362). -/
structure Cmd where
  seq   : Nat
  hdr   : CmdHdr
  body  : Body
  began : Bool
  due   : Bool
  deriving DecidableEq, Repr

/-- The Yardmaster's acceptance order, the commands in flight and the sweep control (R354, R355). -/
structure Yard where
  seq    : Nat
  cmds   : List Cmd
  mode   : BitVec 2
  period : BitVec 20
  deriving DecidableEq, Repr

/-- A fault entry (R487). detail holds DETAIL, byte 36 in bits 7:0. -/
structure FaultEntry where
  seq     : W64
  beat    : W64
  time    : W64
  cls     : BitVec 4
  code    : Byte
  sev     : BitVec 2
  close   : Bool
  preempt : Bool
  needack : Bool
  pad     : Byte
  utype   : Byte
  uindex  : W16
  count   : W32
  detail  : BitVec 224
  deriving DecidableEq, Repr

/-- An open error record of a unit (R461 to R464): handlings counts the handlings it holds that have not completed. -/
structure ErrRecord where
  utype     : Byte
  uindex    : W16
  cls       : BitVec 4
  code      : Byte
  sev       : BitVec 2
  pad       : Byte
  seq       : W64
  multi     : Bool
  count     : W32
  needack   : Bool
  handlings : Nat
  deriving DecidableEq, Repr

/-- One fault queue (R486, R490, R567). lost holds the seven counts of entries not written, for the classes JOB to SEC in order. -/
structure FaultQueue where
  enable   : Bool
  setUp    : Bool
  overflow : Bool
  log2n    : BitVec 4
  vec      : BitVec 2
  base     : W64
  prod     : W32
  cons     : W32
  lost     : Vector W32 7
  lastLost : W64
  deriving DecidableEq, Repr

def FaultQueue.reset : FaultQueue :=
  { enable := false, setUp := false, overflow := false, log2n := 0xA, vec := 1, base := 0, prod := 0, cons := 0,
    lost := Vector.replicate 7 0, lastLost := 0 }

/-- Fault reporting (R461 to R464, R486 to R490, R544). -/
structure Faults where
  seq      : W64
  held     : List FaultEntry
  /-- entries raised before the first setup beyond those held, per class (R544), and the SEQ of the last of them -/
  heldOver : Vector W32 7
  heldLast : W64
  records  : List ErrRecord
  queues   : Vector FaultQueue 2
  /-- the Lodge's free-running counter -/
  lodgeNs  : W64
  deriving DecidableEq, Repr

/-! ## Beat and counters -/

/-- One synchronous group (R342 to R345) with its BEAT_LATE words. seen: the notices already met (origin, sequence); sent: its own sequence number.
lend: the notices the member lends for (from beat APPLY, to beat d + SLIP + 1, whether it is the late chip). -/
structure Group where
  cfg     : GroupRec
  drops   : W16
  origin  : BitVec 12
  slip    : Byte
  short   : Bool
  dbeat   : W32
  notices : W32
  seen    : List (BitVec 12 × W16)
  sent    : W16
  lend    : List (W64 × W64 × Bool)
  deriving DecidableEq, Repr

/-- The BEAT.SET in force or pending (R331, R332): cmd is the command that waits for it. -/
structure BeatSet where
  t0     : W64
  n0     : W64
  period : W32
  source : Byte
  cmd    : Option Nat
  deriving DecidableEq, Repr

/-- The beat (R328 to R347). next is the number that the next boundary moves the count to. -/
structure Beat where
  count     : W64
  reached0  : Bool
  next      : W64
  rt        : W64
  locked    : Bool
  source    : Byte
  force     : BeatSet
  pend      : Option BeatSet
  /-- after a regain, the boundary that is due gives a BEAT REGAINED entry -/
  regained  : Bool
  good      : Nat
  sync      : Nat
  lastFrame : Option W64
  ptpdom    : Byte
  losses    : W16
  skipped   : W16
  /-- beats skipped at the last regain, as its entry gives them (R339) -/
  gap       : W64 := 0
  groups    : List Group
  deriving DecidableEq, Repr

/-- A counter snapshot slot (R340, R341): pend is the beat of a latch that has not yet been made and its command. -/
structure SnapSlot where
  valid : Bool
  pend  : Option (W64 × Nat)
  beat  : W64
  vals  : Tbl W64
  /-- what the views of confidential paddocks show where they kept an earlier latch (R341) -/
  view  : Tbl W64
  deriving DecidableEq, Repr

def SnapSlot.reset : SnapSlot := { valid := false, pend := none, beat := 0, vals := [], view := [] }

/-- The counters (R348, R491). -/
structure Counters where
  live  : Tbl W64
  slots : Vector SnapSlot 4
  deriving DecidableEq, Repr

/-! ## Memory, Loft, translation -/

/-- Granules of a space and half that are not yet zeroed (R498, R545). -/
structure ZeroRun where
  barn  : Bool
  half  : Bool
  first : Nat
  len   : Nat
  deriving DecidableEq, Repr

/-- The memories behind the Loft (R280, R305, R317), LOFT commons by unit (R241: byte p of unit U at U × 2^26 + p), the poisoned 64 B of each half
(R309: half, whether in the Barn, byte address ÷ 64) and the dirty bits D0, D1 of each Stack granule (R474: key half × 2^19 + granule). -/
structure Memory where
  stack   : Vector Mem 2
  barn    : Vector Mem 2
  /-- what the stand-in reserve of each half's Barn holds for the lines that it serves, by the Stack address of their bytes (R323, R325): where in the reserve
  a line lies is not stated and shows nowhere -/
  reserve : Vector Mem 2
  commons : Mem
  /-- poisoned 64 B of commons, by byte ÷ 64 (R271) -/
  cpoison : List Nat
  poison  : List (Bool × Bool × Nat)
  /-- 64 B of failed scopes (Stacks.lost) that a whole write or a copy has made good: half, byte address ÷ 64 (R309, R324, R326) -/
  cured   : List (Bool × Nat)
  dirty   : Tbl (BitVec 2)
  /-- granules that wait for zeroing after STABLED, or for the background zeroing (R498, R545) -/
  tozero  : List ZeroRun
  deriving DecidableEq, Repr

/-- Class of a Stack line in the Loft (R246). -/
inductive LineClass where
  | keep | normal | evictFirst
  deriving DecidableEq, Repr

/-- Directory entry of a frame (R249): up to four cores, or the quadrants that may hold a copy. -/
inductive Dir where
  | pointers (cores : List (Fin 1024))
  | coarse (quads : W32)
  deriving DecidableEq, Repr

/-- A frame that holds a Stack line (R240 to R250): its unit, class and age of last use; valid and dirty sectors; the bytes of its valid sectors by
offset; its poisoned 64 B; its directory entry. -/
structure Frame where
  unit   : Nat
  cls    : LineClass
  age    : Nat
  valid  : BitVec 4
  dirty  : BitVec 4
  data   : Mem
  poison : List Nat
  dir    : Dir
  deriving DecidableEq, Repr

/-- An anchored long form with the two status bits that go with it (R67, R143). -/
structure LongForm where
  bits   : BitVec 192
  ovf    : Bool
  oppinf : Bool
  deriving DecidableEq, Repr

/-- Where an open anchored line is: pinned, on its way to a slot, or in a slot of the spill area (R265, R266). -/
inductive LinePlace where
  | pinned
  | spilling (slot : Nat)
  | slot (slot : Nat)
  deriving DecidableEq, Repr

/-- An open anchored line (R260 to R266): longs by element (unlisted: zero). -/
structure OpenLine where
  pad      : Nat
  anchor   : BitVec 10
  longs    : Tbl (BitVec 192)
  ovf      : Bool
  oppinf   : Bool
  mismatch : Bool
  spilled  : Bool
  place    : LinePlace
  pinAge   : Nat
  /-- poisoned 64 B of the line as it was opened -/
  poison   : List Nat
  deriving DecidableEq, Repr

/-- Who waits on an add-to-line request: an access of a core, or a window, under a WGEN, whose post counts bytes (R264, R295). -/
inductive AddFrom where
  | access (id : Nat)
  | window (win : Nat) (post : Option Nat) (bytes : Nat) (wgen : Byte)
  deriving DecidableEq, Repr

/-- An add-to-line request at its home slice (R258): values or long forms by element of the line. -/
structure AddReq where
  id     : Nat
  pad    : Nat
  half   : Bool
  line   : Nat
  anchor : Option (BitVec 10)
  vals   : List (Nat × W32)
  longs  : List (Nat × BitVec 192)
  /-- the class that its access's hint gives the line (R246) -/
  cls    : LineClass
  src    : AddFrom
  /-- a spill that must finish first, or a reload that runs for it -/
  waits  : Bool
  deriving DecidableEq, Repr

/-- One logical slice of a die (R275). -/
structure SliceMap where
  valid  : Bool
  pdie   : BitVec 4
  pslice : BitVec 6
  cerr   : W16
  deriving DecidableEq, Repr

/-- The Loft (R236 to R275). frames: key half × 2^30 + line. map: key 32 × die + slice, unlisted slice s of die d on physical slice s of die d.
free: physical spares left, per die. clock orders uses of lines and pins. -/
structure Loft where
  frames    : Tbl Frame
  /-- directory entries of commons frames (R247), key 65,536 × unit + frame of the unit -/
  cdir      : Tbl Dir
  openLines : Tbl OpenLine
  adds      : List AddReq
  nextAdd   : Nat
  map       : Tbl SliceMap
  free      : Vector (BitVec 2) 8
  retire    : Option (BitVec 3 × BitVec 5)
  /-- slices judged failed that wait for the retirement in progress -/
  retireDue : List (Nat × Nat)
  regDie    : BitVec 3
  regSlice  : BitVec 5
  keepmax   : BitVec 4
  clock     : Nat
  deriving DecidableEq, Repr

/-- An extent as its address space's table holds it (R278, R285, R396, R408): share names the source (tag, index) of a share entry; mixer and spill
mark the extents that the mixer and PAD.CREATE map. -/
structure Extent where
  index  : Nat
  barn   : Bool
  half   : Bool
  shared : Bool
  backed : Bool
  conf   : Bool
  hint   : BitVec 2
  migr   : Bool
  bkidx  : Nat
  vbase  : Nat
  len    : Nat
  pbase  : Nat
  hbase  : W64
  raddr  : W64
  owner  : BitVec 15
  share  : Option (Nat × Nat)
  mixer  : Bool
  spill  : Bool
  deriving DecidableEq, Repr

/-- A run of granules that are mapped or draining, with the granule record of R283. -/
structure GranRun where
  barn  : Bool
  half  : Bool
  first : Nat
  len   : Nat
  ctx   : BitVec 15
  share : W32
  conf  : Bool
  deriving DecidableEq, Repr

/-- A change of a tag's table that is at step 4 of R291: its command, the runs it frees, the runs that a removed share entry reached with the paddock
whose share-mask bit goes, the extent indices whose MIGR records go, and for an EXT.MAP what its entry returns of INDEX and PBASE. -/
structure Change where
  cmd     : Option Nat
  freed   : List GranRun
  unshare : List (Nat × GranRun)
  indices : List Nat
  mapped  : Option (Nat × Nat)
  deriving DecidableEq, Repr

/-- A change that waits for its turn (R292): a command's, or the removal of the share entries of a source extent (tag, index) (R285). -/
inductive TagChange where
  | cmd (seq : Nat)
  | unshare (tag index : Nat)
  deriving DecidableEq, Repr

/-- One address space (R276, R277, R291): prev holds the tables of older epochs that unfinished transfers translate from. -/
structure AddrSpace where
  valid    : Bool
  pad      : Nat
  mig      : BitVec 2
  hot      : W16
  epoch    : W16
  table    : List Extent
  prev     : List (W16 × List Extent)
  draining : Option Change
  waiting  : List TagChange
  deriving DecidableEq, Repr

def AddrSpace.reset : AddrSpace :=
  { valid := false, pad := 0, mig := 0, hot := 0, epoch := 0, table := [], prev := [], draining := none, waiting := [] }

/-- One window (R293 to R296, R304). inflight: operations that passed the window and have not completed. closing: the WIN.CLOSE command that waits. -/
structure Window where
  given    : Bool
  pad      : Nat
  isOpen   : Bool
  closing  : Option Nat
  entry    : WinEntry
  wgen     : Byte
  drops    : W32
  inflight : Nat
  /-- earlier openings whose operations have not all completed: WGEN, how many, and the WIN.CLOSE command that waits -/
  old      : List (Byte × Nat × Option Nat) := []
  deriving DecidableEq, Repr

/-- A remote operation at a window (R295): a write of bytes, a read, or an add of FP32 values or long forms. -/
inductive RemoteOp where
  | write (bs : List Byte)
  | read
  | add (anchor : Option (BitVec 10)) (vals : List W32) (longs : List (BitVec 192))
  deriving DecidableEq, Repr

/-- What a held request is: an aperture request of a function, a remote operation at a port, or bytes that land at offset off of a send operation. -/
inductive HeldFrom where
  | aperture (f : Func) (va : Nat) (req : ApReq)
  | remote (port : Fin 36) (t : TxHdr) (op : RemoteOp)
  | landing (op off : Nat) (bs : List Byte)
  deriving DecidableEq, Repr

/-- A request that waits at memory for a granule, a line or an exit (R273, R300, R314, R467, R476, R495). began: the tag and epoch of its first translation
(R290). -/
structure HeldReq where
  id    : Nat
  src   : HeldFrom
  began : Option (Nat × W16)
  deriving DecidableEq, Repr

/-- Residence of a granule of a MIGR extent (R299). -/
inductive Residence where
  | dev | host | movingOut | movingIn
  deriving DecidableEq, Repr

/-- A MIGR granule whose state is not plain DEV: its half and Stack granule, which tell an extent from a later one of the same index, its residence, aperture
count, whether an engine touched it in the period (R302), the command that moves it, and moves asked for while it moves (to DEV or not, command). -/
structure MigGran where
  tag     : Nat
  index   : Nat
  granule : Nat
  half    : Bool
  place   : Nat
  res     : Residence
  count   : Nat
  touched : Bool
  cmd     : Option Nat
  asked   : List (Bool × Nat) := []
  deriving DecidableEq, Repr

/-- One lookaside entry (R286): a whole extent or share entry, its tag and the epoch under which it was read. -/
structure LookEntry where
  tag   : Nat
  epoch : W16
  ext   : Extent
  deriving DecidableEq, Repr

/-- Translation (R276 to R304). apert: the aperture selection of each function, key 32 × port + function. look: the lookasides, the entry used last
first: of core n at key n, of dray r of die d at 1024 + 16 d + r, of the window unit of I/O die d at 1200 + d, of its aperture unit at 1210 + d. -/
structure Xlt where
  spaces    : Tbl AddrSpace
  look      : Tbl (List LookEntry)
  granules  : List GranRun
  wins      : Tbl Window
  apert     : Tbl Nat
  migPeriod : BitVec 14
  mig       : List MigGran
  /-- requests that wait at memory, in the order of their arrival -/
  held      : List HeldReq
  nextHeld  : Nat
  deriving DecidableEq, Repr

/-- A stood-in range of a stack (R323): pc = none for the whole stack, span = none for a whole pseudo-channel. failed: the interface of the range has
failed (R324). -/
structure StandIn where
  stack  : Fin 16
  pc     : Option (Fin 64)
  span   : Option Nat
  failed : Bool
  deriving DecidableEq, Repr

/-- What a stack controller records of a row (R308, R311). -/
structure RowRec where
  pc   : Nat
  bank : Nat
  row  : Nat
  errs : Nat
  told : Bool
  deriving DecidableEq, Repr

/-- One stack (R305 to R316, R327). spares: spare rows left in a bank (key 64 × pc + bank, unlisted: 1, DESIGN CHOICE, log 13). -/
structure Stack where
  present  : Bool
  standin  : BitVec 2
  throttle : BitVec 2
  refresh  : BitVec 2
  temp     : Byte
  failed   : Nat
  uncorr   : W16
  corr     : W16
  soft     : W16
  hard     : W16
  dry      : BitVec 13
  pcLo     : W32
  pcHi     : W32
  rows     : List RowRec
  spares   : Tbl Nat
  repairs  : List (Nat × Nat × Nat)
  deriving DecidableEq, Repr

def Stack.reset : Stack :=
  { present := true, standin := 0, throttle := 0, refresh := 0, temp := 0, failed := 0, uncorr := 0, corr := 0, soft := 0, hard := 0, dry := 0,
    pcLo := 0, pcHi := 0, rows := [], spares := [], repairs := [] }

/-- One Barn channel (R317, R318, R327). -/
structure Barn where
  /-- rows whose first corrected error has been reported (R308, R318) -/
  told   : List Nat
  usedup : Bool
  temp   : Byte
  uncorr : W16
  corr   : W16
  bad    : List Nat
  deriving DecidableEq, Repr

def Barn.reset : Barn := { told := [], usedup := false, temp := 0, uncorr := 0, corr := 0, bad := [] }

/-- Stack and Barn controllers and their registers (R327). standing: stand-ins in force; installing: those whose copy runs; refetch: granules that
are being rewritten from their second copy (half, granule, LOSTW, from a generation). -/
structure Stacks where
  stk        : Vector Stack 16
  barn       : Vector Barn 16
  hold       : W16
  rowthr     : BitVec 4
  period     : Byte
  reqBusy    : Bool
  reqStack   : BitVec 4
  reqPc      : BitVec 6
  reqBank    : BitVec 6
  reqRow     : BitVec 15
  /-- the row that the requested repair in progress names (R311): stack, pseudo-channel, row -/
  reqScope   : Nat × Nat × Nat
  standing   : List StandIn
  installing : List StandIn
  /-- failed scopes whose lines no copy has replaced: poisoned but for Memory.cured (R324, R326) -/
  lost       : List StandIn
  refetch    : List (Bool × Nat × Bool × Bool)
  standinNext : Vector (BitVec 9) 2
  standinCur  : Vector (BitVec 9) 2
  deriving DecidableEq, Repr

/-! ## Posts -/

/-- Who waits on a post (R224, R231): a group of a team, a dray descriptor, or a Yardmaster command. -/
inductive Waiter where
  | group (core slot team : Nat) (born : Nat)
  | xfer (id : Nat)
  | cmd (seq : Nat)
  deriving DecidableEq, Repr

/-- A registered wait; post = none where the handle names no post (R222). die: the die whose post block handles it, the home of the post or the engine's
own (R222; 8 and 9, the I/O dies, have no block). entry: it holds one of the die's 1,024 entries (R231). -/
structure PostWait where
  id     : Nat
  who    : Waiter
  post   : Option Nat
  die    : Nat
  target : W48
  entry  : Bool
  deriving DecidableEq, Repr

/-- An add or set on its way to the home of device post post, held until the accesses and the source reads of the copies named in after are performed,
and those of the path.send instructions that groups (core, slot, team, group) wait in (R223, R227). -/
structure PostUpd where
  id    : Nat
  post  : Nat
  isSet : Bool
  value : Nat
  pad   : Option Nat
  after : List Nat
  sends : List (Nat × Nat × Nat × Nat)
  /-- core, slot and team whose POST instruction sent it -/
  team  : Option (Nat × Nat × Nat) := none
  /-- the number of the first access issued after it -/
  since : Nat := 0
  /-- the path whose packet landed and made it (R180, R192) -/
  path  : Option Byte := none
  deriving DecidableEq, Repr

/-- Posts (R221 to R232). cnt: device post number, unlisted zero. -/
structure Posts where
  cnt    : Tbl W48
  waits  : List PostWait
  upds   : List PostUpd
  nextId : Nat
  deriving DecidableEq, Repr

/-! ## Cores -/

/-- The arithmetic flags of a team (R56). -/
structure Flags where
  nv : Bool
  of : Bool
  uf : Bool
  deriving DecidableEq, Repr

/-- A wait that holds a group (R84). -/
inductive GWait where
  /-- a post.wait: with `.ro` or not, and the number of the first access issued after it -/
  | post (ro : Bool) (since : Nat)
  /-- the mask of R108 of each thread of the group that executed the join, by lane; threads whose guard was false have none -/
  | join (masks : List (Nat × W32))
  | barrier (n : Fin 16)
  | doze
  | harness (tiles : Nat)
  /-- a path.send that waits for its credit or its tokens: path, LOCAL address, length, post handle, consumer core index, the number of the first access
  issued after it, and the bytes of its replay slot that tokens have been drawn for (R182, R399) -/
  | send (path addr len : Nat) (post : W32) (cons since got : Nat)
  /-- an access of the group, by its number, held at its engine by a bucket (R399) or at a slice (R268) -/
  | access (id : Nat)
  deriving DecidableEq, Repr

/-- A group of a team (R83, R84): its threads, the PC at which they stand, what holds it, instructions left of its 16, and its age. -/
structure TGroup where
  mask  : W32
  pc    : W64
  wait  : Option GWait
  left  : Nat
  born  : Nat
  deriving DecidableEq, Repr

/-- A thread (R81): general registers by number (unlisted: zero), predicates p0 to p6, call stack, latest return address first. -/
structure Thread where
  regs  : Tbl W32
  preds : BitVec 7
  stack : List W64
  deriving DecidableEq, Repr

def Thread.reset : Thread := { regs := [], preds := 0, stack := [] }

/-- A team (R81 to R87). live: threads that have not ended; ring: its groups, the current one first. harness: the accumulator tiles granted. -/
structure Team where
  sched   : Fin 4
  uregs   : Tbl W32
  flags   : Flags
  icnt    : BitVec 48
  live    : W32
  threads : Tbl Thread
  ring    : List TGroup
  harness : Option (List (Fin 8))
  born    : Nat
  deriving DecidableEq, Repr

/-- Whose block it is: a launch by its number, or a stage's invocation. -/
inductive BlockOf where
  | launch (id : Nat)
  | stage (stage : Nat) (inv : Nat)
  deriving DecidableEq, Repr

/-- A resident block (R77 to R94, R122). -/
structure Block where
  pad    : Nat
  tag    : Nat
  src    : BlockOf
  block  : W32
  member : Nat
  /-- the logical cores and slots of the members of its string, in member order (itself alone when STRING is 0) -/
  string : List (Nat × Nat)
  shape  : W32
  bound  : W32
  seed   : W64
  plotIdx : Nat
  loc    : Mem
  teams  : Tbl Team
  nteams : Nat
  ac     : W64
  exited : Bool
  deriving DecidableEq, Repr

/-- A constant-cache or descriptor-cache line (R252): the Stack memory it came from (half, address ÷ 128) and its 128 bytes. -/
structure RoLine where
  half : Bool
  line : Nat
  data : Mem
  deriving DecidableEq, Repr

/-- A 256 B sector in an L1 (R251): of commons by unit × 2^18 + sector of the unit, or of the Stack by 4 × line key + sector of the line. -/
structure L1Sector where
  commons : Bool
  sector  : Nat
  data    : Mem
  deriving DecidableEq, Repr

/-- An issued matrix instruction that has not completed (R139): its team and the flags that land when it completes (R138). -/
structure MmaEntry where
  slot    : Nat
  team    : Nat
  flags   : Flags
  /-- it reads or writes the local store (R140) -/
  store   : Bool
  /-- ac for which it occupies the unit, and ac from its start to its completion (R141) -/
  busy    : Nat
  done    : Nat
  /-- the unit has started it (R139); the oldest entry has always started -/
  started : Bool
  /-- its team still runs: its flags land in it (R138) -/
  own     : Bool
  /-- the tiles of an ended team's region, freed when it completes (R127) -/
  frees   : List (Fin 8)
  deriving DecidableEq, Repr

/-- A logical core (R75, R126, R139, R459, R460). site: physical core site of its quadrant; tiles: element 64 i + j of accumulator tile t at
key 4096 t + 64 i + j, as FP32. -/
structure Core where
  out      : Bool
  site     : Nat
  retire   : Bool
  blocks   : Tbl Block
  tiles    : Tbl W32
  tileUsed : BitVec 8
  harnessQ : List (Nat × Nat × Nat)
  mmaQ     : List MmaEntry
  /-- latest fill first (R251) -/
  l1       : List L1Sector
  constant : List RoLine
  desc     : List RoLine
  errs     : Nat
  deriving DecidableEq, Repr

/-- The levels of R400, the highest first. -/
inductive Level where
  | critical | funded | unfunded
  deriving DecidableEq, Repr

/-- Kinds of MEM access (R114). -/
inductive MemKind where
  | ld | st | atom | red
  deriving DecidableEq, Repr

/-- One lane of an access (R114): the lane, its address, its store or atomic operand, the cas operand, and once performed what it read. -/
structure LaneAcc where
  lane : Nat
  addr : Nat
  data : Nat
  cmp  : Nat
  got  : Nat
  deriving DecidableEq, Repr

/-- An access of a team in flight (R114 to R117, R158): string-shared LOCAL, LOFT or STACK (space 0, 1, 2). tag and epoch: the mapping under which
its transfer began (R290). -/
structure Access where
  id        : Nat
  core      : Nat
  slot      : Nat
  team      : Nat
  pc        : W64
  kind      : MemKind
  space     : Fin 3
  bytes     : Nat
  lanes     : List LaneAcc
  dst       : BitVec 9
  aop       : BitVec 4
  signed    : Bool
  ro        : Bool
  last      : Bool
  hint      : BitVec 2
  pad       : Nat
  tag       : Nat
  epoch     : W16
  /-- the paddock was compact when it was issued (R213) -/
  compact   : Bool
  performed : Bool
  /-- its adds to lines are on their way (R258) -/
  adding    : Bool
  /-- the level at which it has left its engine for its slices (R399, R400); none while it stands at its engine -/
  level     : Option Level
  /-- BLOCK, and STAGE or 0xFF, of a JOB entry -/
  block     : W32
  stage     : Nat
  /-- an invalidation of the constant cache came after the request: the fill is not kept (R253) -/
  nokeep    : Bool
  /-- a mesh packet of it was dropped (R162): it is never performed, or never returns -/
  lost      : Bool := false
  deriving DecidableEq, Repr

/-- A copy started by cp or cp.rows (R118, R119). done: bytes landed; read: bytes whose source has been read, which stand in buf by their offset in the
copy; psn: the poisoned 16 B among them. -/
structure CopyRun where
  id      : Nat
  core    : Nat
  slot    : Nat
  team    : Nat
  pad     : Nat
  tag     : Nat
  epoch   : W16
  dspace  : Fin 3
  daddr   : Nat
  sspace  : Fin 3
  saddr   : Nat
  rowLen  : Nat
  rows    : Nat
  sstride : Nat
  dstride : Nat
  handle  : W32
  done    : Nat
  read    : Nat
  buf     : Mem
  psn     : List Nat
  /-- a refusal of R282 or R284 has been counted for it -/
  refused : Bool
  /-- the paddock was compact when it was issued (R213) -/
  compact : Bool
  block   : W32
  pc      : W64
  stage   : Nat
  deriving DecidableEq, Repr

/-! ## Pipelines and mesh -/

/-- A stage record of the pipeline table (R177). -/
structure StageRec where
  stage   : BitVec 6
  depth   : BitVec 6
  px      : BitVec 6
  py      : BitVec 4
  pw      : BitVec 6
  ph      : BitVec 4
  sw      : BitVec 4
  sh      : BitVec 4
  shape   : W32
  prog    : W64
  arg     : W64
  boundAc : W32
  boundFc : W32
  deriving DecidableEq, Repr

/-- A path record of the pipeline table (R178); extra holds the stages of EXTRA that are not 0xFF. -/
structure PathRec where
  path     : Byte
  from_    : BitVec 6
  to_       : BitVec 6
  dist     : BitVec 3
  postmode : Bool
  rform    : BitVec 2
  cidx     : W16
  anchor   : BitVec 10
  tile     : W32
  slots    : Nat
  tpi      : Nat
  sbase    : W32
  dpost    : BitVec 15
  extra    : List Nat
  deriving DecidableEq, Repr

/-- A pair of producer core and consumer core (or the group of consumers that one tile goes to) of a path (R182, R184, R193): the next sequence
number, the lowest one not suppressed at the source after a move (R194), credits by receiving core (stage position m and core index i at 1024 m + i), and
the tiles in replay slots with their lengths; their bytes stand in LOFT commons. -/
structure PairRt where
  nextSeq  : Nat
  sentTo   : Nat
  credits  : Tbl Nat
  replay   : List (Nat × Nat)
  deriving DecidableEq, Repr

/-- A running path (R180, R184): pairs by key 1024 × producer index + consumer index (consumer 0 where one tile serves all). commits: how many consumer stages of
a BCAST path have committed up to which tile. -/
structure PathRt where
  cfg     : PathRec
  gen     : Byte
  pairs   : Tbl PairRt
  commits : Tbl Nat
  deriving DecidableEq, Repr

/-- A running stage (R173, R174): the invocation that runs or comes next, whether it runs, the first invocation whose deadline has not been judged, and the local
stores that persist between invocations (R172), by plot index. -/
structure StageRt where
  cfg      : StageRec
  inv      : Nat
  running  : Bool
  told     : Nat
  locals   : Tbl Mem
  /-- the clock step of the plot in MHz (R503) -/
  mhz      : Nat
  deriving DecidableEq, Repr

/-- A PIPE.MOVE that waits for its boundary, or whose replays have not all landed (R190, R195). -/
structure MoveRt where
  cmd    : Option Nat
  stage  : Nat
  px     : Nat
  py     : Nat
  took   : Bool
  /-- the number of the restarted invocation -/
  inv    : Nat
  deriving DecidableEq, Repr

/-- PIPE.START in force (R189, R382): release of invocation first at depth 0 (0, or R of a resume record: R471). accepted: its ACCEPTED entry has been
written; ended: the pipeline has ended. -/
structure StartRt where
  b0       : W64
  first    : Nat
  seed     : W64
  count    : W32
  epost    : W32
  accepted : Bool
  ended    : Bool
  cmd      : Option Nat
  deriving DecidableEq, Repr

/-- The loaded pipeline of a paddock (R171 to R195). -/
structure Pipe where
  tableAt : W64
  tag     : Nat
  period  : Nat
  stages  : List StageRt
  paths   : List PathRt
  start   : Option StartRt
  moves   : List MoveRt
  deriving DecidableEq, Repr

/-- A mesh packet on its way (R158, R159), kinds PATH_DATA, CREDIT and RED. dest: its destination core N, or for RED the router it is bound for next. -/
structure Pkt where
  id      : Nat
  kind    : BitVec 4
  last    : Bool
  replay  : Bool
  dest    : Nat
  src     : Nat
  pad     : Nat
  path    : Byte
  gen     : Byte
  seq     : Nat
  offset  : Nat
  anchor  : BitVec 10
  rform   : BitVec 2
  enter   : Bool
  ovf     : Bool
  oppinf  : Bool
  /-- the input port of the router it arrives at: 0 own core, 1 north, 2 east, 3 south, 4 west (R167) -/
  input   : Fin 5
  /-- consumer stage position m of R180, and producer rank -/
  m       : Nat
  rank    : Nat
  /-- CREDIT: the pair (producer index, consumer index) and tiles freed -/
  count   : Nat
  payload : List Byte
  /-- CAST and DEST2; the reserved bits of R158 in the order of its table, zero as a router forms a packet; and HCHK -/
  cast    : BitVec 2 := 0
  dest2   : BitVec 16 := 0
  rsv     : BitVec 73 := 0
  hchk    : W32 := 0
  deriving DecidableEq, Repr

/-- A reduction entry of a router (R167). -/
structure RedEntry where
  router : Nat
  pad    : Nat
  path   : Byte
  gen    : Byte
  seq    : Nat
  offset : Nat
  got    : List Pkt
  deriving DecidableEq, Repr

/-- The wires of one direction of a mesh link, edge group or seam group (R455 to R458): data wires that a spare replaces (wire, spare), data wires
failed without a spare, spares failed or used, and half width. -/
structure WireSt where
  unit    : WireUnit
  toHigh  : Bool
  spared  : List (Nat × Nat)
  dead    : List Nat
  used    : Nat
  half    : Bool
  deriving DecidableEq, Repr

/-- Mesh, die edges and seam (R148 to R170, R457). -/
structure Mesh where
  pkts   : List Pkt
  red    : List RedEntry
  wires  : List WireSt
  nextId : Nat
  deriving DecidableEq, Repr

/-! ## Drays, check units -/

/-- Why a dray skips a descriptor: the cases of R206, in its order. -/
inductive SkipReason where
  | dchk | field | alignment | queue3 | hostDie | checkDie | core | range | post
  deriving DecidableEq, Repr

/-- A dray queue given to a paddock (R201, R202, R206): next is the index of the next descriptor; skip the skip record: TAG, reason and slot. -/
structure DrayQ where
  pad  : Nat
  cfg  : QueueRec
  next : Nat
  skip : Option (W32 × SkipReason × Nat)
  deriving DecidableEq, Repr

/-- What runs a dray transfer: a paddock queue (die, dray, queue) or a COPY command. -/
inductive XferOf where
  | queue (die dray queue : Nat)
  | copy (seq : Nat) (port : Fin 2)
  deriving DecidableEq, Repr

/-- A descriptor that has been read and has not completed (R202 to R209): whether its wait is over, whether it has started, the bytes landed, whether its
LOCAL and LOFT parts are dropped since a compute restart (R469), whether its port or function is down (R422, R423), and whether the stage block of its LOCAL
destination or source has gone away (R206). -/
structure Xfer where
  id      : Nat
  src     : XferOf
  pad     : Nat
  tag     : Nat
  epoch   : W16
  desc    : DrayDesc
  die     : Nat
  landed  : Nat
  waited  : Bool
  started : Bool
  dropped : Bool
  stopped : Bool
  dgone   : Bool
  sgone   : Bool
  /-- a refusal of R282 or R284 has been counted for it -/
  refused : Bool
  /-- the slot of its ring that it was read from -/
  slot    : Nat := 0
  deriving DecidableEq, Repr

/-- Dray queues by key 128 × die + 4 × dray + queue, and transfers (R200). turns: by dray, at 16 × die + dray, the queue that had the last turn and the bytes
left of it (R209). -/
structure Drays where
  queues : Tbl DrayQ
  xfers  : List Xfer
  nextId : Nat
  turns  : Tbl (Nat × Nat)
  deriving DecidableEq, Repr

/-- A check unit (R449 to R454). acc holds the finished value over completed descriptors; run the bytes taken of the descriptor that uses it;
arms the arms that wait for the unit, with their polynomials: of a CHECK.SETUP its command, of a SNAP.STREAM none. -/
structure CheckUnit where
  armed : Bool
  poly  : BitVec 2
  bytes : W64
  value : W64
  user  : Option Nat
  run   : List Byte
  arms  : List (Option Nat × BitVec 2)
  deriving DecidableEq, Repr

def CheckUnit.reset : CheckUnit := { armed := false, poly := 0, bytes := 0, value := 0, user := none, run := [], arms := [] }

/-! ## Links -/

/-- State of a port (LINK_PORT.STATE of R453). -/
inductive PortState where
  | noCable | disabled | training | up | failed
  deriving DecidableEq, Repr

/-- One link port (R424 to R431, R453). txNext: next flit to send; txAcked: flits acknowledged so far; resends: how often an unacknowledged flit has been
resent; rxNext: next flit expected. retried: the failed attempt has written its entry. quiet: STABLED took the link down, and its coming up is not told. -/
structure Port where
  present  : Bool
  enabled  : Bool
  state    : PortState
  mode     : BitVec 2
  width    : BitVec 3
  cfgw     : BitVec 3
  pfcpri   : BitVec 3
  feccorr  : W32
  retries  : W16
  fecunc   : W16
  peerPort : BitVec 6
  peerId   : BitVec 48
  recovering : Bool
  retried  : Bool
  quiet    : Bool
  txNext   : Nat
  txAcked  : Nat
  resends  : Tbl Nat
  rxNext   : Nat
  traffic  : Nat
  deriving DecidableEq, Repr

def Port.reset : Port :=
  { present := false, enabled := true, state := .noCable, mode := 0, width := 0, cfgw := 4, pfcpri := 3, feccorr := 0, retries := 0, fecunc := 0,
    peerPort := 0, peerId := 0, recovering := false, retried := false, quiet := false, txNext := 0, txAcked := 0, resends := [], rxNext := 0, traffic := 0 }

/-- Lanes of one I/O die (R427, R453): the active lane each spare serves, lanes whose die side failed with no spare, lanes
that failed outside the die, lanes under a loopback test. -/
structure Lanes where
  spare   : Vector (BitVec 7) 4
  failed  : List Nat
  outside : List Nat
  testing : List Nat
  deriving DecidableEq, Repr

def Lanes.reset : Lanes := { spare := Vector.replicate 4 0x7F, failed := [], outside := [], testing := [] }

/-- A send descriptor by its fields (R440). -/
structure SendDesc where
  op     : BitVec 4
  port   : BitVec 6
  win    : Byte
  wgen   : Byte
  rpost  : BitVec 12
  anchor : BitVec 10
  roff   : W64
  laddr  : W64
  len    : W32
  lpost  : W32
  tag    : W32
  rsv    : Bool
  dchkOk : Bool
  deriving DecidableEq, Repr

/-- A send queue: the fields of LINK_SQ and its next descriptor (R439, R453). -/
structure SendQ where
  enable   : Bool
  pad      : BitVec 5
  log2size : BitVec 4
  aspace   : BitVec 10
  rbase    : W32
  kick     : W32
  cpost    : W32
  ports    : BitVec 18
  targets  : W16
  ftag     : W32
  reason   : Byte
  slot     : BitVec 12
  fails    : BitVec 12
  next     : Nat
  /-- bytes of the next descriptor that tokens of link egress have been drawn for (R399) -/
  drawn    : Nat := 0
  deriving DecidableEq, Repr

def SendQ.reset : SendQ :=
  { enable := false, pad := 0, log2size := 4, aspace := 0, rbase := 0, kick := 0, cpost := 0, ports := 0, targets := 0, ftag := 0, reason := 0,
    slot := 0, fails := 0, next := 0 }

/-- What the DZ1 sends toward a link port: a transaction packet, a LATE packet, a NAK of a flit, or a Write or Read command to a storage target, with the
bytes that the target takes. -/
inductive OutMsg where
  | packet (port type : Nat) (hdr : TxHdr) (payload : List Byte)
  | late (port : Nat) (pkt : LatePkt)
  | nak (port flit : Nat)
  | store (target : Nat) (write : Bool) (offset len : Nat) (bytes : List Byte)
  deriving DecidableEq, Repr

/-- A started send descriptor (R442): done counts the bytes acknowledged, landed or reported; landed the packets of a READ whose data have landed. -/
structure SendOp where
  id    : Nat
  queue : Nat
  slot  : Nat
  pad   : Nat
  tag   : Nat
  epoch : W16
  desc  : SendDesc
  done  : Nat
  landed : List Nat
  /-- a refusal of R282 or R284 has been counted for it -/
  refused : Bool
  deriving DecidableEq, Repr

/-- A storage target (R446, R453). rate: per mille of the queue pairs' full rate (R444). -/
structure Target where
  connect : Bool
  state   : BitVec 3
  port    : BitVec 6
  haddr   : W64
  nsid    : W32
  record  : Mem
  rate    : Nat
  halved  : Bool
  deriving DecidableEq, Repr

def Target.reset : Target :=
  { connect := false, state := 0, port := 0, haddr := 0, nsid := 0, record := [], rate := 1000, halved := false }

/-- The I/O rings (R419 to R454). out: what has been sent, the latest first. -/
structure Links where
  ports  : Vector Port 36
  lanes  : Vector Lanes 2
  sqs    : Tbl SendQ
  tgts   : Tbl Target
  ops    : List SendOp
  nextId : Nat
  out    : List OutMsg
  checks : Tbl CheckUnit
  deriving DecidableEq, Repr

/-! ## Paddocks -/

/-- A running JOB.LAUNCH (R381). -/
structure Launch where
  id    : Nat
  cmd   : Option Nat
  p     : LaunchParams
  next  : Nat
  ended : Nat
  first : Option W64
  mhz   : Nat
  deriving DecidableEq, Repr

/-- Where a sequence stands (R410, R412). -/
inductive SeqState where
  | pending | copyIn | prompt | decode | swapped | swapping
  deriving DecidableEq, Repr

/-- A sequence of a serving paddock (R408 to R412), in arrival order of its SEQ.JOIN. uncommitted is the step it takes part in that has not committed,
with its tokens; runs are the extents that hold its key/value memory, by ascending address; swap the Barn runs that hold it; order its place among the
swapped; leave: a SEQ.LEAVE applied again by a resume (R471); counted: it has been counted completed before such a resume. -/
structure Seq where
  id     : W32
  join   : JoinParams
  state  : SeqState
  slot   : Option Nat
  half   : Bool
  pos    : Nat
  uncommitted : Option (Nat × Nat)
  runs   : List Extent
  swap   : List GranRun
  order  : Nat
  leave  : Bool
  counted : Bool
  deriving DecidableEq, Repr

/-- A batch queued on a fixed-batch channel, or the step it became (R413, R414). counted: its step has committed before a resume. -/
structure Batch where
  hdrTag : W32
  p      : BatchParams
  step   : Option Nat
  counted : Bool
  deriving DecidableEq, Repr

/-- A reset or destroy in progress (R415 to R417): the commands that wait for it, in order; step is the step it stands in, 7 while a destroy waits for
other tags to drain. -/
structure Drain where
  squash   : Bool
  resets   : List Nat
  destroys : List Nat
  step    : Nat
  deriving DecidableEq, Repr

/-- Confidential mode of a paddock (R526 to R531, R534). -/
structure Conf where
  session  : W32
  bounce   : W64
  pages    : W32
  keyH2d   : BitVec 256
  keyD2h   : BitVec 256
  ctrD2h   : W64
  ctrH2d   : W64
  authfail : W32
  /-- RT of the last latch that its CNT view took (R341) -/
  viewed   : Option W64
  deriving DecidableEq, Repr

/-- A paddock (R392 to R417). vf: its virtual function; posts: the device posts that its paddock posts map to (R395). budgets: STACKE, STACKW, BARNE,
BARNW in force; quads, cache and commons: as re-placement may have changed them (R485). buckets: KiB × 1024 tokens left. -/
structure Pad where
  p        : PadParams
  vf       : Nat
  posts    : List Nat
  quads    : W32
  cache    : W32
  commons  : W32
  budgets  : Vector Nat 4
  buckets  : Vector Nat 4
  conf     : Option Conf
  accepted : W32
  completed : W32
  lost     : W32
  share    : W16
  drain    : Option Drain
  launches : List Launch
  nextLaunch : Nat
  pipe     : Option Pipe
  seqs     : List Seq
  nextSeq  : W32
  swapClock : Nat
  batches  : List Batch
  /-- steps committed, and the next step to form (R407) -/
  steps    : Nat
  formed   : Nat
  /-- what a compute restart carries on to the paddock's auto-resume: its accepted pipeline, its sequences, its batches (R403, R471) -/
  carryPipe : Bool
  carrySeqs : List W32
  carryBatches : Nat
  spillUsed : List Nat
  /-- Stack granules that earlier sequences of the paddock have freed, and that nothing has been placed on since (R408) -/
  kvFreed  : List ZeroRun
  resuming : Bool
  deriving DecidableEq, Repr

/-! ## Snapshots and faults of parts -/

/-- Resume record of a paddock in a generation (R477). pipe: TABLE, TAG and the PIPE.START parameters with R, if a pipeline was loaded;
log: the sequence and batch commands accepted after the mark, oldest first (R471). -/
structure Resume where
  pad     : Nat
  pipe    : Option (W64 × Nat × Option StartParams × Nat)
  seqs    : List Seq
  batches : List Batch
  nextSeq : W32
  resumes : Nat
  log     : List (CmdHdr × Body)
  deriving DecidableEq, Repr

/-- A registered granule as a mark found it (R479): its context identifier, and whether images leave it out, since it lies in a CONF extent or a spill
area (R482). -/
structure MarkedGran where
  half : Bool
  gran : Nat
  ctx  : BitVec 15
  skip : Bool
  deriving DecidableEq, Repr

/-- A snapshot generation (R475 to R482, R492). placed: granules that an EXT.MAP has placed since its mark. -/
structure Gen where
  current   : Bool
  complete  : Bool
  markbeat  : W64
  gib       : W32
  grans     : List MarkedGran
  placed    : List (Bool × Nat)
  records   : List Resume
  deriving DecidableEq, Repr

def Gen.reset : Gen := { current := false, complete := false, markbeat := 0, gib := 0, grans := [], placed := [], records := [] }

/-- A mark that copies (R475, R476): granules still pending, those that a held write wants next, bytes to copy. -/
structure Mark where
  gen     : Fin 2
  cmd     : Option Nat
  beat    : W64
  pending : List MarkedGran
  wanted  : List (Bool × Nat)
  bytes   : Nat
  deriving DecidableEq, Repr

/-- A stream (R481, R482, R447). active: an image of gen is being written; due: under CONT, a generation became current meanwhile. second: the next image
of a CONT stream goes to OFFSET + LIMIT ÷ 2. -/
structure Stream where
  gen    : Fin 2
  p      : StreamParams
  cmd    : Option Nat
  second : Bool
  active : Bool
  due    : Bool
  deriving DecidableEq, Repr

/-- A compute restart in progress (R469, R470): the JOB entries written and not written. -/
structure Restart where
  number  : W32
  written : Nat
  missed  : W32
  resumed : W32
  notRes  : W32
  toResume : List Nat
  ended   : Bool
  us      : W32
  /-- no compute restart but the auto-resumes of a warm or kept cold start: no RESTART_DONE entry follows -/
  silent  : Bool
  deriving DecidableEq, Repr

/-- Snapshots, restarts, lost halves and the RES block (R455 to R485, R492). -/
structure Snaps where
  gens     : Vector Gen 2
  mark     : Option Mark
  waiting  : List (Nat × Bool)
  streams  : List Stream
  restart  : Option Restart
  restarts : W32
  wirethr  : Byte
  slicethr : BitVec 12
  corethr  : BitVec 12
  retBusy  : Bool
  retCore  : BitVec 10
  /-- halves in service: bit 0 east, bit 1 west -/
  halves   : BitVec 2
  /-- halves whose rails a loss has turned off (R484) -/
  dark     : BitVec 2
  /-- physical core sites failed, 144 a die -/
  badSites : List Nat
  badSlices : List Nat
  /-- halves to be lost by what the present command found (R274, R458): east first -/
  lossDue  : List Bool
  deriving DecidableEq, Repr

/-! ## Power, security, start -/

/-- The power ladder (R493). -/
inductive PwrState where
  | gallop | trot | walk | stand | stabled
  deriving DecidableEq, Repr

/-- Thermal action of a die (R507). -/
inductive Thermal where
  | none | step | stall
  deriving DecidableEq, Repr

/-- Power of one die (R507 to R512): trim in steps of 2.5 mV per quadrant. -/
structure DiePwr where
  ceil    : W16
  mhz     : W16
  watts   : W16
  hot     : Byte
  temp    : Byte
  trim    : Vector Int 4
  pendTrim : Vector Int 4
  stretch : W32
  thermal : Thermal
  droop   : BitVec 5
  deriving DecidableEq, Repr

def DiePwr.reset : DiePwr :=
  { ceil := 1500, mhz := 0, watts := 0, hot := 0, temp := 0, trim := Vector.replicate 4 0, pendTrim := Vector.replicate 4 0, stretch := 0,
    thermal := .none, droop := 0 }

/-- A PWR.CAP of scope D that waits for its beat (R346, R335 row 3). -/
structure CapPend where
  beat  : W64
  watts : W16
  cmd   : Nat
  deriving DecidableEq, Repr

/-- A draw measured over one beat (R502): of a stage, or of launch 64 + its number, at a clock step, in a phase; the latest are first in the history. -/
structure DrawRec where
  pad   : Nat
  unit  : Nat
  mhz   : Nat
  phase : Nat
  watts : Nat
  deriving DecidableEq, Repr

/-- Weathervane (R493 to R512). target: the PWR.STATE that waits for its state. -/
structure Power where
  state    : PwrState
  exiting  : Bool
  target   : Option (PwrState × Nat)
  fixed    : Bool
  fixmhz   : BitVec 11
  binding  : Bool
  devcap   : W16
  inforce  : W16
  watts    : W16
  millivolt : W16
  floor    : BitVec 11
  dies     : Vector DiePwr 8
  draw     : Tbl W16
  portion  : Tbl W16
  stalls   : Tbl W16
  stalled  : List Nat
  history  : List DrawRec
  caps     : List CapPend
  /-- PWR.FIXED commands that have begun and wait for the boundary, in the order in which they began (R363) -/
  fixes    : List Nat := []
  keep     : BitVec 9
  /-- µs since the readings were last updated (R511) -/
  coarse   : Nat
  deriving DecidableEq, Repr

/-- An SPDM session (R522, R524): open once FINISH has completed the handshake. -/
structure Session where
  id     : W32
  ep     : Endpoint
  isOpen : Bool
  secret : BitVec 256
  epoch  : Nat
  deriving DecidableEq, Repr

/-- What an endpoint's SPDM connection has reached (R522). -/
structure SpdmConn where
  ep    : Endpoint
  stage : Nat
  deriving DecidableEq, Repr

/-- Gatehouse (R513 to R534). -/
structure Sec where
  prod     : Bool
  dbgopen  : Bool
  dbgever  : Bool
  hostimg  : Bool
  waiting  : Bool
  version  : W32
  svn      : W16
  fusedSvn : W16
  meas     : Vector (BitVec 256) 4
  aliasKey : BitVec 256
  idKey    : BitVec 256
  persist  : Bool
  busy     : Bool
  result   : BitVec 4
  addr     : W64
  len      : W32
  flashImg : Image
  sessions : List Session
  conns    : List SpdmConn
  nextSess : W32
  /-- debug was opened since the cold start: the alias key takes it in at the next one (R520) -/
  dbgNext  : Bool
  deriving DecidableEq, Repr

/-- Kinds of start (R535). -/
inductive StartKind where
  | cold | keptCold | warm | restart
  deriving DecidableEq, Repr

/-- Start, straps and flash (R18 to R20, R535 to R554). stored: interfaces whose stored training values are kept. -/
structure Start where
  kind     : StartKind
  step     : Nat
  ms       : W16
  straps   : Vector (Option Strap) 12
  seamFull : Byte
  hbmFull  : Byte
  barnFull : Byte
  tapReset : Bool
  /-- parts recorded as retired in flash (R542); hard repairs by stack, pseudo-channel, bank and row (R313) -/
  flashSites  : List Nat
  flashSlices : List Nat
  flashRepairs : List (Nat × Nat × Nat × Nat)
  deriving DecidableEq, Repr

/-- Beat-class writes pending in the shadow (R9 to R13). -/
structure Shadow where
  keepmax  : Option (BitVec 4)
  migPeriod : Option (BitVec 14)
  rowthr   : Option (BitVec 4)
  scrub    : Option Byte
  floor    : Option (BitVec 11)
  wirethr  : Option Byte
  slicethr : Option (BitVec 12)
  corethr  : Option (BitVec 12)
  deriving DecidableEq, Repr

def Shadow.empty : Shadow :=
  { keepmax := none, migPeriod := none, rowthr := none, scrub := none, floor := none, wirethr := none, slicethr := none, corethr := none }

/-! ## The machine -/

/-- The whole state. pads lists the paddocks that exist; rings, cores and drays by number. -/
structure State where
  pending : List Instr
  pins    : Pins
  panel   : Panel
  hosts   : Vector HostPort 2
  rings   : Tbl Ring
  ym      : Yard
  flt     : Faults
  beat    : Beat
  cnt     : Counters
  mem     : Memory
  loft    : Loft
  xlt     : Xlt
  stk     : Stacks
  posts   : Posts
  cores   : Tbl Core
  accs    : List Access
  copies  : List CopyRun
  nextAcc : Nat
  mesh    : Mesh
  drays   : Drays
  links   : Links
  pads    : Tbl Pad
  snaps   : Snaps
  pwr     : Power
  sec     : Sec
  start   : Start
  shadow  : Shadow
  latches : List (Accessor × Pair × W32)
  /-- the model's own: the bytes that the last read from outside returned (aperture, register, sideband, SPDM) -/
  reply   : List Byte
  /-- the model's own: uses of free values so far -/
  free    : Nat
  deriving DecidableEq, Repr

/-- Why the machine stops with a fault. -/
inductive Fault where
  /-- Raised by no command: every job fault and every dropped access of the spec is a next state. Safe. -/
  | neverRaised
  deriving DecidableEq, Repr

/-- Why a command has no meaning here. -/
inductive Refusal where
  /-- Raised by an arm of exec whose row has no meaning yet. Safe. -/
  | notModelled (mnemonic : String)
  /-- Raised by TEST_CHAIN_ACCESS at an IEEE 1687 instrument while debug is open: the spec does not say what its instruments do to the state (R520, R551). Safe. -/
  | instrument
  deriving DecidableEq, Repr

/-! ## Reset: after a cold start in which every part passes (R6, R536, R545; log 4) -/

/-- The straps of die i of DEV_STRAP (R18). -/
def strapOf (i : Nat) : Strap :=
  { half := (4 ≤ i && i < 8) || i == 9 || i == 11, slot := if i < 8 then BitVec.ofNat 3 (i % 4) else if i < 10 then 7 else 6,
    mirror := (4 ≤ i && i < 8) || i == 9 || i == 11 }

def Pins.reset : Pins := { p48vOk := true, pwrEn := true, pwrOk := true, perst := 0, sbAddr := 0, cageLow := 0, cageDeb := 0 }

def Panel.reset : Panel :=
  { held := false, ignored := false, stage := 0, ident := false, drain := false, faultFlash := 0, identFlash := 0, cageLeds := 0 }

def HostPort.reset : HostPort := { up := false, d3 := 0, numVf := 0, hold := false, mem := [], msix := [] }

def Yard.reset : Yard := { seq := 0, cmds := [], mode := 0, period := 0x003E8 }

def Faults.reset : Faults :=
  { seq := 0, held := [], heldOver := Vector.replicate 7 0, heldLast := 0, records := [], queues := Vector.replicate 2 FaultQueue.reset, lodgeNs := 0 }

/-- The beat defaults of R334: the reference is not yet locked and the count is frozen at 0. -/
def Beat.reset : Beat :=
  { count := 0, reached0 := false, next := 0, rt := 0, locked := false, source := 0,
    force := { t0 := 0, n0 := 0, period := 10, source := 0, cmd := none }, pend := none, regained := false, good := 0, sync := 0, lastFrame := none,
    ptpdom := 0, losses := 0, skipped := 0, groups := [] }

def Counters.reset : Counters := { live := [], slots := Vector.replicate 4 SnapSlot.reset }

def Memory.reset : Memory :=
  { stack := Vector.replicate 2 [], barn := Vector.replicate 2 [], reserve := Vector.replicate 2 [], commons := [], cpoison := [], poison := [], cured := [], dirty := [],
    tozero := [⟨true, false, 786496, 262080⟩, ⟨true, true, 786496, 262080⟩] }

def Loft.reset : Loft :=
  { frames := [], cdir := [], openLines := [], adds := [], nextAdd := 0, map := [], free := Vector.replicate 8 2, retire := none, retireDue := [], regDie := 0, regSlice := 0,
    keepmax := 7, clock := 0 }

def Xlt.reset : Xlt := { spaces := [], look := [], granules := [], wins := [], apert := [], migPeriod := 0x03E8, mig := [], held := [], nextHeld := 0 }

def Stacks.reset : Stacks :=
  { stk := Vector.replicate 16 Stack.reset, barn := Vector.replicate 16 Barn.reset, hold := 0, rowthr := 2, period := 0x18, reqBusy := false,
    reqStack := 0, reqPc := 0, reqBank := 0, reqRow := 0, reqScope := (0, 0, 0), standing := [], installing := [], lost := [], refetch := [],
    standinNext := Vector.replicate 2 0x060, standinCur := Vector.replicate 2 0x060 }

def Posts.reset : Posts := { cnt := [], waits := [], upds := [], nextId := 0 }

def Mesh.reset : Mesh := { pkts := [], red := [], wires := [], nextId := 0 }

def Drays.reset : Drays := { queues := [], xfers := [], nextId := 0, turns := [] }

def Links.reset : Links :=
  { ports := Vector.replicate 36 Port.reset, lanes := Vector.replicate 2 Lanes.reset, sqs := [], tgts := [], ops := [], nextId := 0, out := [],
    checks := [] }

def Snaps.reset : Snaps :=
  { gens := Vector.replicate 2 Gen.reset, mark := none, waiting := [], streams := [], restart := none, restarts := 0, wirethr := 0x10,
    slicethr := 0x100, corethr := 0x040, retBusy := false, retCore := 0, halves := 3, dark := 0, badSites := [], badSlices := [], lossDue := [] }

def Power.reset : Power :=
  { state := .gallop, exiting := false, target := none, fixed := false, fixmhz := 0, binding := false, devcap := 0x0ED8, inforce := 0x0ED8, watts := 0,
    millivolt := 0, floor := 0x4B0, dies := Vector.replicate 8 DiePwr.reset, draw := [], portion := [], stalls := [], stalled := [], history := [],
    caps := [], keep := 0, coarse := 0 }

/-- A flash image that passes the checks of R516 (log 4): MAGIC, LENGTH 4,096, and zeros (R515). -/
def blankImage : Image :=
  { readable := true, header := [0x56, 0x51, 0x44, 0x5A, 0x46, 0x57, 0x49, 0x4D] ++ List.replicate 9 0 ++ [0x10] ++ List.replicate 238 0,
    meas := Vector.replicate 3 0, signed := true }

/-- The four measurements of R516 under an image. -/
def measurements (img : Image) : Vector (BitVec 256) 4 := #v[Config.romMeasurement, img.meas[0], img.meas[1], img.meas[2]]

def Sec.reset : Sec :=
  { prod := true, dbgopen := false, dbgever := false, hostimg := false, waiting := false, version := 0, svn := 0, fusedSvn := 0,
    meas := measurements blankImage, aliasKey := Config.deriveAliasKey Config.deviceSecret (measurements blankImage).toList 0,
    idKey := Config.deriveIdentityKey Config.deviceSecret, persist := false, busy := false, result := 0, addr := 0, len := 0, flashImg := blankImage, sessions := [], conns := [], nextSess := 1, dbgNext := false }

def Start.reset : Start :=
  { kind := .cold, step := 11, ms := 0, straps := Vector.ofFn fun i : Fin 12 => some (strapOf i.val), seamFull := 0, hbmFull := 0, barnFull := 0,
    tapReset := true, flashSites := [], flashSlices := [], flashRepairs := [] }

/-- The machine right after a cold start: every register field at its Reset value (R6). -/
def State.reset : State :=
  { pending := [], pins := Pins.reset, panel := Panel.reset, hosts := Vector.replicate 2 HostPort.reset, rings := [], ym := Yard.reset,
    flt := Faults.reset, beat := Beat.reset, cnt := Counters.reset, mem := Memory.reset, loft := Loft.reset, xlt := Xlt.reset, stk := Stacks.reset,
    posts := Posts.reset, cores := [], accs := [], copies := [], nextAcc := 0, mesh := Mesh.reset, drays := Drays.reset, links := Links.reset,
    pads := [], snaps := Snaps.reset, pwr := Power.reset, sec := Sec.reset, start := Start.reset, shadow := Shadow.empty, latches := [], reply := [],
    free := 0 }

end Sys2Proof.Machine
end

