-- ==== Sys2Proof/Machine/Ops.lean ====
section
/-! DEFINITION. The named operations over tables, memories, bytes and the shared parts of the state. -/

namespace Sys2Proof.Machine

/-! ## Tables -/

/-- Entry k of a table, or d where none is listed. -/
def tget {α : Type} (t : Tbl α) (k : Nat) (d : α) : α :=
  match t with
  | [] => d
  | (j, v) :: r => if j = k then v else tget r k d

/-- Entry k of a table, if one is listed. -/
def tfind {α : Type} (t : Tbl α) (k : Nat) : Option α :=
  match t with
  | [] => none
  | (j, v) :: r => if j = k then some v else tfind r k

/-- The table with entry k set to v. -/
def tput {α : Type} (t : Tbl α) (k : Nat) (v : α) : Tbl α :=
  match t with
  | [] => [(k, v)]
  | (j, w) :: r => if k < j then (k, v) :: (j, w) :: r else if j = k then (k, v) :: r else (j, w) :: tput r k v

/-- The table without entry k. -/
def tdel {α : Type} (t : Tbl α) (k : Nat) : Tbl α := t.filter fun e => e.1 != k

/-- The table with entry k changed by f, taken as d where none is listed. -/
def tmod {α : Type} (t : Tbl α) (k : Nat) (d : α) (f : α → α) : Tbl α := tput t k (f (tget t k d))

/-! ## Memories -/

/-- The byte at address a. -/
def mread (m : Mem) (a : Nat) : Byte :=
  match m with
  | [] => 0
  | (j, v) :: r => if j = a then v else mread r a

/-- The memory with the byte at a set to b. A zero is not listed. -/
def mwrite (m : Mem) (a : Nat) (b : Byte) : Mem :=
  match m with
  | [] => if b = 0 then [] else [(a, b)]
  | (j, v) :: r =>
    if a < j then (if b = 0 then (j, v) :: r else (a, b) :: (j, v) :: r)
    else if j = a then (if b = 0 then r else (a, b) :: r)
    else (j, v) :: mwrite r a b

/-- n bytes from address a. -/
def mreads (m : Mem) (a n : Nat) : List Byte := (List.range n).map fun i => mread m (a + i)

/-- The memory with bs written from address a. -/
def mwrites (m : Mem) (a : Nat) (bs : List Byte) : Mem :=
  match bs with
  | [] => m
  | b :: r => mwrites (mwrite m a b) (a + 1) r

/-- The memory with n bytes from a set to zero. -/
def mzero (m : Mem) (a n : Nat) : Mem := m.filter fun c => c.1 < a || a + n ≤ c.1

/-- The form a memory keeps: addresses strictly rising from lo on, no zero byte listed. -/
def memWfFrom (lo : Nat) (m : Mem) : Bool :=
  match m with
  | [] => true
  | (j, v) :: r => decide (lo ≤ j) && decide (v ≠ 0) && memWfFrom (j + 1) r

/-- Memory.wf of the package: the canonical form of a memory. -/
def Memory.wf (m : Mem) : Bool := memWfFrom 0 m

/-! ## Bytes and fields -/

/-- The value of bytes, byte 0 lowest (R3). -/
def leNat (bs : List Byte) : Nat :=
  match bs with
  | [] => 0
  | b :: r => b.toNat + 256 * leNat r

/-- n bytes of a value, byte 0 lowest (R3). -/
def leBytes (n v : Nat) : List Byte :=
  match n with
  | 0 => []
  | k + 1 => BitVec.ofNat 8 v :: leBytes k (v / 256)

/-- Bits hi to lo of a number. -/
def bitsOf (v hi lo : Nat) : Nat := v / 2 ^ lo % 2 ^ (hi + 1 - lo)

/-- Bit i of a number. -/
def bitOf (v i : Nat) : Bool := v / 2 ^ i % 2 == 1

/-- A number as a field at bit lo. -/
def fieldAt (v lo : Nat) : Nat := v * 2 ^ lo

/-- 1 or 0. -/
def b2n (b : Bool) : Nat := if b then 1 else 0

/-- A w-bit number read as two's complement. -/
def toSigned (w v : Nat) : Int := if v < 2 ^ (w - 1) then (v : Int) else (v : Int) - 2 ^ w

/-- An integer as a w-bit two's complement number. -/
def ofSigned (w : Nat) (v : Int) : Nat := (v % 2 ^ w).toNat

/-- The sum, saturating at 2^w − 1. -/
def satAdd (w a b : Nat) : Nat := min (a + b) (2 ^ w - 1)

/-- How many bits of a mask of w bits are set. -/
def popcount (w v : Nat) : Nat := ((List.range w).filter fun i => bitOf v i).length

/-- The numbers of the bits set in a mask of w bits, ascending. -/
def bitList (w v : Nat) : List Nat := (List.range w).filter fun i => bitOf v i

/-- The lowest number below n that satisfies p. -/
def firstBelow (n : Nat) (p : Nat → Bool) : Option Nat := (List.range n).find? p

/-- Integer division rounding up. -/
def ceilDiv (a b : Nat) : Nat := (a + b - 1) / b

/-- Replace each element of a list by f, where p holds. -/
def mapWhere {α : Type} (p : α → Bool) (f : α → α) (l : List α) : List α := l.map fun x => if p x then f x else x

/-! ## Coordinates (R21 to R24) -/

/-- The logical core number of device coordinates (X, Y) (R21, R23). -/
def coreAt (x y : Nat) : Nat :=
  let half := if x < 32 then 1 else 0
  let u := if x < 32 then 31 - x else x - 32
  let slot := 2 * (y / 8) + u / 16
  let lu := u % 16
  let ly := y % 8
  512 * half + 128 * slot + 32 * (2 * (ly / 4) + lu / 8) + 8 * (ly % 4) + lu % 8

/-- Device column X of logical core n (R21, R23). -/
def coreX (n : Nat) : Nat :=
  let u := 16 * (n / 128 % 4 % 2) + 8 * (n / 32 % 4 % 2) + n % 8
  if n < 512 then 32 + u else 31 - u

/-- Device row Y of logical core n. -/
def coreY (n : Nat) : Nat := 8 * (n / 128 % 4 / 2) + 4 * (n / 32 % 4 / 2) + n / 8 % 4

/-- The compute die of a logical core: 0 to 7 for E0 to E3 and W0 to W3. -/
def coreDie (n : Nat) : Nat := n / 128

/-- The device quadrant of a logical core (R249). -/
def coreQuad (n : Nat) : Nat := n / 32

/-- The logical cores of a rectangle in device coordinates, row-major from its north-west corner. -/
def rectCores (px py w h : Nat) : List Nat :=
  (List.range h).flatMap fun r => (List.range w).map fun c => coreAt (px + c) (py + r)

/-! ## Free values, counters, replies -/

/-- The state after one use of a free value. -/
def useFree (s : State) : State := { s with free := s.free + 1 }

/-- Counter i raised by n (R491). -/
def bump (i n : Nat) (s : State) : State :=
  { s with cnt := { s.cnt with live := tmod s.cnt.live i 0 fun c => c + BitVec.ofNat 64 n } }

/-- Counter j of paddock p raised by n (R491). -/
def bumpPad (p j n : Nat) (s : State) : State := bump (2048 + 16 * p + j) n s

/-- The bytes that a read from outside returns. -/
def withReply (bs : List Byte) (s : State) : State := { s with reply := bs }

/-! ## Parts by number -/

def coreReset (n : Nat) : Core :=
  { out := false, site := 576 * (n / 512) + 144 * (n / 128 % 4) + 36 * (n / 32 % 4) + n % 32, retire := false, blocks := [], tiles := [], tileUsed := 0,
    harnessQ := [], mmaQ := [], l1 := [], constant := [], desc := [], errs := 0 }

/-- Logical core n. A core not listed is as the spare map of a cold start with passing sites leaves it (R542). -/
def getCore (s : State) (n : Nat) : Core := tget s.cores n (coreReset n)

def setCore (n : Nat) (c : Core) (s : State) : State := { s with cores := tput s.cores n c }

/-- Ring r in sweep order (R354). -/
def getRing (s : State) (r : Nat) : Ring := tget s.rings r Ring.reset

def setRing (r : Nat) (g : Ring) (s : State) : State := { s with rings := tput s.rings r g }

def getPad (s : State) (p : Nat) : Option Pad := tfind s.pads p

def setPad (p : Nat) (d : Pad) (s : State) : State := { s with pads := tput s.pads p d }

/-- Paddock p changed by f, if it exists. -/
def modPad (p : Nat) (f : Pad → Pad) (s : State) : State :=
  match tfind s.pads p with
  | some d => setPad p (f d) s
  | none => s

def getSpace (s : State) (t : Nat) : AddrSpace := tget s.xlt.spaces t AddrSpace.reset

def setSpace (t : Nat) (a : AddrSpace) (s : State) : State := { s with xlt := { s.xlt with spaces := tput s.xlt.spaces t a } }

def windowReset : Window :=
  { given := false, pad := 0, isOpen := false, closing := none,
    entry := { win := 0, rd := false, wr := false, add := false, tag := 0, post0 := 0, npost := 0, vbase := 0, len := 0 }, wgen := 0, drops := 0,
    inflight := 0 }

def getWin (s : State) (w : Nat) : Window := tget s.xlt.wins w windowReset

def setWin (w : Nat) (x : Window) (s : State) : State := { s with xlt := { s.xlt with wins := tput s.xlt.wins w x } }

def getPort (s : State) (p : Fin 36) : Port := s.links.ports[p]

def setPort (p : Fin 36) (x : Port) (s : State) : State := { s with links := { s.links with ports := s.links.ports.set p x } }

def modPort (p : Fin 36) (f : Port → Port) (s : State) : State := setPort p (f (getPort s p)) s

def getSq (s : State) (q : Nat) : SendQ := tget s.links.sqs q SendQ.reset

def setSq (q : Nat) (x : SendQ) (s : State) : State := { s with links := { s.links with sqs := tput s.links.sqs q x } }

def getTgt (s : State) (t : Nat) : Target := tget s.links.tgts t Target.reset

def setTgt (t : Nat) (x : Target) (s : State) : State := { s with links := { s.links with tgts := tput s.links.tgts t x } }

/-- Check unit u (1 to 8) of I/O die d, by key 8 d + u − 1. -/
def getChk (s : State) (k : Nat) : CheckUnit := tget s.links.checks k CheckUnit.reset

def setChk (k : Nat) (x : CheckUnit) (s : State) : State := { s with links := { s.links with checks := tput s.links.checks k x } }

def getHost (s : State) (h : Fin 2) : HostPort := s.hosts[h]

def setHost (h : Fin 2) (x : HostPort) (s : State) : State := { s with hosts := s.hosts.set h x }

/-- Host memory bytes behind port h, as the DZ1 reads them over the port. -/
def hostReads (s : State) (h : Fin 2) (a n : Nat) : List Byte := mreads s.hosts[h].mem a n

/-- Bytes the DZ1 writes to host memory behind port h. -/
def hostWrites (h : Fin 2) (a : Nat) (bs : List Byte) (s : State) : State :=
  setHost h { s.hosts[h] with mem := mwrites s.hosts[h].mem a bs } s

/-- A function of port h answers memory requests: the link is up, a virtual function is one that SR-IOV enables, and the function is not in D3hot
(R422, R423, R556; log 14). -/
def funcUp (s : State) (h : Fin 2) (fn : Nat) : Bool :=
  s.hosts[h].up && !s.hosts[h].d3.getLsbD fn && (fn == 0 || fn ≤ s.hosts[h].numVf)

/-- An MSI-X message of function fn of port h on vector v (R557). None is sent while the function cannot (R423). -/
def sendMsix (h : Fin 2) (fn v : Nat) (s : State) : State :=
  if funcUp s h fn then setHost h { s.hosts[h] with msix := (fn, v) :: s.hosts[h].msix } s else s

/-- The half holds its place in service (R484, R540): 0 east, 1 west. -/
def halfIn (s : State) (h : Nat) : Bool := s.snaps.halves.getLsbD h

/-- Any confidential paddock exists (R8). -/
def anyConf (s : State) : Bool := s.pads.any fun e => e.2.conf.isSome

/-- Paddock p is confidential. -/
def isConf (s : State) (p : Nat) : Bool := (tfind s.pads p).any fun d => d.conf.isSome

/-- The port and function that ring r belongs to: the managers, then the paddocks' virtual functions (R349, R354). -/
def ringFunc (s : State) (r : Nat) : Option (Fin 2 × Nat) :=
  if r = 0 then some (0, 0)
  else if r = 1 then some (1, 0)
  else match tfind s.pads (r - 2) with
    | some d => some (if d.p.port then 1 else 0, d.vf)
    | none => none

end Sys2Proof.Machine
end

