-- ==== Sys2Proof/Machine/Flags.lean ====
section
/-! DEFINITION. The arithmetic flags of a team (R56): NV, OF and UF, each only ever set by an arithmetic event. -/

namespace Sys2Proof.Machine

def noFlags : Flags := { nv := false, of := false, uf := false }

def flagNv : Flags := { nv := true, of := false, uf := false }

def flagOf : Flags := { nv := false, of := true, uf := false }

/-- An event sets flags and clears none (R56). -/
def Flags.or (a b : Flags) : Flags := { nv := a.nv || b.nv, of := a.of || b.of, uf := a.uf || b.uf }

/-- flags.rd: bit 0 NV, bit 1 OF, bit 2 UF (R111). -/
def flagsWord (f : Flags) : W32 := BitVec.ofNat 32 (b2n f.nv + 2 * b2n f.of + 4 * b2n f.uf)

/-- flags.clr: the flags that are set in IMM[2:0] are cleared (R111). -/
def clearFlags (f : Flags) (imm : W32) : Flags :=
  { nv := f.nv && !imm.getLsbD 0, of := f.of && !imm.getLsbD 1, uf := f.uf && !imm.getLsbD 2 }

/-- Flags of a list of results together. -/
def allFlags (fs : List Flags) : Flags := fs.foldl Flags.or noFlags

end Sys2Proof.Machine
end

