-- ==== Sys2Proof/Machine/Num.lean ====
section
/-! DEFINITION. Number formats, rounding and IEEE 754 arithmetic of chapter 02 (R42 to R59): exact values, one rounding. -/

namespace Sys2Proof.Machine

/-- How a format spends its topmost codes (R43). -/
inductive TopCodes where
  /-- e all ones: infinity at m = 0, NaN otherwise -/
  | ieee
  /-- E4M3: NaN at e and m all ones only -/
  | oneNan
  /-- every code is a finite number -/
  | finite
  deriving DecidableEq, Repr

/-- A floating-point element format (R43). -/
structure Fmt where
  ebits : Nat
  mbits : Nat
  bias  : Int
  top   : TopCodes
  deriving DecidableEq, Repr

def fp64 : Fmt := ⟨11, 52, 1023, .ieee⟩
def fp32 : Fmt := ⟨8, 23, 127, .ieee⟩
def bf16 : Fmt := ⟨8, 7, 127, .ieee⟩
def fp16 : Fmt := ⟨5, 10, 15, .ieee⟩
def e4m3 : Fmt := ⟨4, 3, 7, .oneNan⟩
def e5m2 : Fmt := ⟨5, 2, 15, .ieee⟩
def e3m2 : Fmt := ⟨3, 2, 3, .finite⟩
def e2m3 : Fmt := ⟨2, 3, 1, .finite⟩
def e2m1 : Fmt := ⟨2, 1, 1, .finite⟩

/-- The element format of codes 0x00 to 0x08 (R42). -/
def fmtOf (code : Nat) : Option Fmt :=
  match code with
  | 0 => some fp64
  | 1 => some fp32
  | 2 => some bf16
  | 3 => some fp16
  | 4 => some e4m3
  | 5 => some e5m2
  | 6 => some e3m2
  | 7 => some e2m3
  | 8 => some e2m1
  | _ => none

def Fmt.width (f : Fmt) : Nat := 1 + f.ebits + f.mbits

/-- The magnitude code of the largest finite value (R43). -/
def Fmt.maxCode (f : Fmt) : Nat :=
  match f.top with
  | .ieee => (2 ^ f.ebits - 1) * 2 ^ f.mbits - 1
  | .oneNan => 2 ^ (f.ebits + f.mbits) - 2
  | .finite => 2 ^ (f.ebits + f.mbits) - 1

def Fmt.infCode (f : Fmt) : Nat := (2 ^ f.ebits - 1) * 2 ^ f.mbits

/-- The canonical quiet NaN (R44); +0 where the format has none (R55). -/
def Fmt.nanCode (f : Fmt) : Nat :=
  match f.top with
  | .ieee => f.infCode + 2 ^ (f.mbits - 1)
  | .oneNan => 2 ^ (f.ebits + f.mbits) - 1
  | .finite => 0

/-- An exact value: fin neg m e is (−1)^neg × m × 2^e. -/
inductive FVal where
  | nan (signalling : Bool)
  | inf (neg : Bool)
  | fin (neg : Bool) (m : Nat) (e : Int)
  deriving DecidableEq, Repr

/-- The value of a code (R43, R45). -/
def Fmt.decode (f : Fmt) (code : Nat) : FVal :=
  let neg := bitOf code (f.ebits + f.mbits)
  let e := code / 2 ^ f.mbits % 2 ^ f.ebits
  let m := code % 2 ^ f.mbits
  let fin := if e = 0 then FVal.fin neg m (1 - f.bias - f.mbits) else FVal.fin neg (m + 2 ^ f.mbits) ((e : Int) - f.bias - f.mbits)
  match f.top with
  | .ieee => if e = 2 ^ f.ebits - 1 then (if m = 0 then .inf neg else .nan (!bitOf m (f.mbits - 1))) else fin
  | .oneNan => if code % 2 ^ (f.ebits + f.mbits) = 2 ^ (f.ebits + f.mbits) - 1 then .nan false else fin
  | .finite => fin

/-- Rounding modes (R52): stochastic rounding carries the random word of the element (R59). -/
inductive RMode where
  | rn | rz | ru | rd
  | sr (r : W32)
  deriving DecidableEq, Repr

/-- How many bits a number has. -/
def bitLen (n : Nat) : Nat := if n = 0 then 0 else Nat.log2 n + 1

/-- m × 2^−shift cut to an integer and rounded by the mode; sticky says that nonzero bits lie below m. Returns the integer and whether it is inexact. -/
def roundShift (mode : RMode) (neg : Bool) (m shift : Nat) (sticky : Bool) : Nat × Bool :=
  let t := m / 2 ^ shift
  let rem := m % 2 ^ shift
  let inexact := rem != 0 || sticky
  let twice := 2 * rem
  let up := match mode with
    | .rn => twice > 2 ^ shift || (twice == 2 ^ shift && shift != 0 && (sticky || t % 2 == 1))
    | .rz => false
    | .ru => !neg && inexact
    | .rd => neg && inexact
    | .sr r => r.toNat < rem * 2 ^ 32 / 2 ^ shift
  (if up then t + 1 else t, inexact)

/-- The exact value m × 2^e at quantum exponent q, rounded: an integer multiple of 2^q and whether it is inexact. -/
def roundAt (mode : RMode) (neg : Bool) (m : Nat) (e q : Int) (sticky : Bool) : Nat × Bool :=
  if e ≥ q then (m * 2 ^ (e - q).toNat, sticky) else roundShift mode neg m (q - e).toNat sticky

/-- Sign and magnitude as a code. -/
def Fmt.pack (f : Fmt) (neg : Bool) (mag : Nat) : Nat := (if neg then 2 ^ (f.ebits + f.mbits) else 0) + mag

/-- The result of an overflow (R54; the directed modes as IEEE 754 has them: R57). -/
def Fmt.overflow (f : Fmt) (mode : RMode) (sat neg : Bool) : Nat :=
  if sat || f.top ≠ .ieee then f.maxCode
  else match mode with
    | .rz => f.maxCode
    | .ru => if neg then f.maxCode else f.infCode
    | .rd => if neg then f.infCode else f.maxCode
    | _ => f.infCode

/-- The exact value (−1)^neg × m × 2^e, with nonzero bits below it if sticky, rounded once to the format (R53, R54, R56). -/
def Fmt.round (f : Fmt) (mode : RMode) (sat neg : Bool) (m : Nat) (e : Int) (sticky : Bool) : Nat × Flags :=
  if m = 0 && !sticky then (f.pack neg 0, noFlags)
  else
    let top : Int := e + bitLen m - 1
    let emin : Int := 1 - f.bias
    let q := max top emin - f.mbits
    let (t, inexact) := roundAt mode neg m e q sticky
    let carry := t ≥ 2 ^ (f.mbits + 1)
    let t' := if carry then t / 2 else t
    let q' := if carry then q + 1 else q
    let mag := if t' < 2 ^ f.mbits then t' else (q' + f.mbits + f.bias).toNat * 2 ^ f.mbits + (t' - 2 ^ f.mbits)
    let free := (roundAt mode neg m e (top - f.mbits) sticky).1
    let tiny := top < emin && !(top = emin - 1 && free ≥ 2 ^ (f.mbits + 1))
    if mag > f.maxCode then (f.pack neg (f.overflow mode sat neg), flagOf)
    else (f.pack neg mag, { nv := false, of := false, uf := tiny && inexact })

/-- A NaN result, and NV where the format must deliver +0 (R44, R55). -/
def Fmt.nan (f : Fmt) (nv : Bool) : Nat × Flags := (f.nanCode, { nv := nv || f.top == .finite, of := false, uf := false })

/-- An infinite result (R54): under SAT, or in a format without infinities, the largest finite value with OF. -/
def Fmt.inf (f : Fmt) (sat neg : Bool) : Nat × Flags :=
  if sat || f.top ≠ .ieee then (f.pack neg f.maxCode, flagOf) else (f.pack neg f.infCode, noFlags)

/-- An exact value delivered in a format (R52 to R55). A signalling NaN sets NV (R45). -/
def Fmt.deliver (f : Fmt) (mode : RMode) (sat : Bool) (v : FVal) : Nat × Flags :=
  match v with
  | .nan s => f.nan s
  | .inf neg => f.inf sat neg
  | .fin neg m e => f.round mode sat neg m e false

/-- A conversion to a format uses SAT where the format has no infinities, or under .sat (R54). -/
def Fmt.convert (f : Fmt) (mode : RMode) (sat : Bool) (v : FVal) : Nat × Flags := f.deliver mode (sat || f.top != .ieee) v

/-! ## Exact operations -/

def FVal.signalling (v : FVal) : Bool := match v with | .nan s => s | _ => false

def FVal.isNan (v : FVal) : Bool := match v with | .nan _ => true | _ => false

def FVal.neg (v : FVal) : FVal :=
  match v with
  | .nan s => .nan s
  | .inf n => .inf (!n)
  | .fin n m e => .fin (!n) m e

/-- A finite value as an integer at exponent e0. -/
def finInt (neg : Bool) (m : Nat) (e e0 : Int) : Int := (if neg then -1 else 1) * (m * 2 ^ (e - e0).toNat : Nat)

/-- The exact sum; a sum of exactly zero from unlike signs is −0 only toward −∞ (R57). nv: a NaN made from operands that hold none. -/
def FVal.add (rd : Bool) (a b : FVal) : FVal × Bool :=
  match a, b with
  | .nan s, y => (.nan false, s || y.signalling)
  | x, .nan s => (.nan false, s || x.signalling)
  | .inf n, .inf k => if n = k then (.inf n, false) else (.nan false, true)
  | .inf n, .fin _ _ _ => (.inf n, false)
  | .fin _ _ _, .inf k => (.inf k, false)
  | .fin n m e, .fin k l d =>
    let e0 := min e d
    let v := finInt n m e e0 + finInt k l d e0
    if v = 0 then (.fin (if n = k then n else rd) 0 e0, false) else (.fin (v < 0) v.natAbs e0, false)

/-- The exact product. -/
def FVal.mul (a b : FVal) : FVal × Bool :=
  match a, b with
  | .nan s, y => (.nan false, s || y.signalling)
  | x, .nan s => (.nan false, s || x.signalling)
  | .inf n, .inf k => (.inf (n != k), false)
  | .inf n, .fin k m _ => if m = 0 then (.nan false, true) else (.inf (n != k), false)
  | .fin n m _, .inf k => if m = 0 then (.nan false, true) else (.inf (n != k), false)
  | .fin n m e, .fin k l d => (.fin (n != k) (m * l) (e + d), false)

/-- NV beside the flags of a delivery. -/
def withNv (r : Nat × Flags) (nv : Bool) : Nat × Flags := (r.1, { r.2 with nv := r.2.nv || nv })

def rdOf (mode : RMode) : Bool := match mode with | .rd => true | _ => false

def fAdd (f : Fmt) (mode : RMode) (a b : Nat) : Nat × Flags :=
  let (v, nv) := FVal.add (rdOf mode) (f.decode a) (f.decode b)
  withNv (f.deliver mode false v) nv

def fSub (f : Fmt) (mode : RMode) (a b : Nat) : Nat × Flags :=
  let (v, nv) := FVal.add (rdOf mode) (f.decode a) (f.decode b).neg
  withNv (f.deliver mode false v) nv

def fMul (f : Fmt) (mode : RMode) (a b : Nat) : Nat × Flags :=
  let (v, nv) := FVal.mul (f.decode a) (f.decode b)
  withNv (f.deliver mode false v) nv

/-- Fused multiply-add: one rounding. With a quiet NaN as the addend, NV is set by a signalling operand alone (R56). -/
def fFma (f : Fmt) (mode : RMode) (a b c : Nat) : Nat × Flags :=
  let x := f.decode a
  let y := f.decode b
  let z := f.decode c
  if x.isNan || y.isNan || z.isNan then f.nan (x.signalling || y.signalling || z.signalling)
  else
    let (p, nv1) := FVal.mul x y
    let (v, nv2) := FVal.add (rdOf mode) p z
    withNv (f.deliver mode false v) (nv1 || nv2)

/-- A quotient of naturals with bits to spare, its exponent shift and whether a remainder is left. -/
def quotient (m l extra : Nat) : Nat × Nat × Bool :=
  let k := bitLen l + extra
  (m * 2 ^ k / l, k, m * 2 ^ k % l != 0)

def fDiv (f : Fmt) (mode : RMode) (a b : Nat) : Nat × Flags :=
  match f.decode a, f.decode b with
  | .nan s, y => f.nan (s || y.signalling)
  | x, .nan s => f.nan (s || x.signalling)
  | .inf _, .inf _ => f.nan true
  | .inf n, .fin k _ _ => (f.pack (n != k) f.infCode, noFlags)
  | .fin n _ _, .inf k => (f.pack (n != k) 0, noFlags)
  | .fin n m e, .fin k l d =>
    if l = 0 then (if m = 0 then f.nan true else (f.pack (n != k) f.infCode, noFlags))
    else if m = 0 then (f.pack (n != k) 0, noFlags)
    else
      let (q, s, sticky) := quotient m l (f.mbits + 4)
      f.round mode false (n != k) q (e - d - s) sticky

/-- The integer square root, by its bits from 2^i down. -/
def isqrtFrom (n : Nat) (i r : Nat) : Nat :=
  match i with
  | 0 => if (r + 1) * (r + 1) ≤ n then r + 1 else r
  | k + 1 => isqrtFrom n k (if (r + 2 ^ (k + 1)) * (r + 2 ^ (k + 1)) ≤ n then r + 2 ^ (k + 1) else r)

def isqrt (n : Nat) : Nat := isqrtFrom n (bitLen n / 2) 0

def fSqrt (f : Fmt) (mode : RMode) (a : Nat) : Nat × Flags :=
  match f.decode a with
  | .nan s => f.nan s
  | .inf n => if n then f.nan true else (f.infCode, noFlags)
  | .fin n m e =>
    if m = 0 then (f.pack n 0, noFlags)
    else if n then f.nan true
    else
      let k := 2 * (f.mbits + 4)
      let odd := (e - (k : Int)) % 2 != 0
      let m' := m * 2 ^ (if odd then k + 1 else k)
      let e' : Int := e - k - (if odd then 1 else 0)
      let r := isqrt m'
      f.round mode false false r (e' / 2) (r * r != m')

/-- Order of two numbers: −1, 0 or 1 by sign of the difference; none when a NaN is among them. −0 equals +0. -/
def FVal.cmp (a b : FVal) : Option Int :=
  match a, b with
  | .nan _, _ => none
  | _, .nan _ => none
  | .inf n, .inf k => some (if n = k then 0 else if n then -1 else 1)
  | .inf n, .fin _ _ _ => some (if n then -1 else 1)
  | .fin _ _ _, .inf k => some (if k then 1 else -1)
  | .fin n m e, .fin k l d =>
    let e0 := min e d
    let v := finInt n m e e0 - finInt k l d e0
    some (if v < 0 then -1 else if v = 0 then 0 else 1)

/-- minimumNumber (less) or maximumNumber of IEEE 754-2019; −0 is less than +0 (R102). -/
def fMinMax (f : Fmt) (less : Bool) (a b : Nat) : Nat × Flags :=
  let x := f.decode a
  let y := f.decode b
  let nv := x.signalling || y.signalling
  let val (v : FVal) (code : Nat) := if v.isNan then f.nanCode else code
  if x.isNan then withNv (val y b, noFlags) nv
  else if y.isNan then withNv (a, noFlags) nv
  else
    let aNeg := bitOf a (f.ebits + f.mbits)
    let takeA := match FVal.cmp x y with
      | some c => if c = 0 then aNeg == less else decide (c < 0) == less
      | none => true
    (if takeA then a else b, noFlags)

def fAbs (f : Fmt) (a : Nat) : Nat × Flags :=
  let x := f.decode a
  if x.isNan then f.nan x.signalling else (a % 2 ^ (f.ebits + f.mbits), noFlags)

def fNeg (f : Fmt) (a : Nat) : Nat × Flags :=
  let x := f.decode a
  if x.isNan then f.nan x.signalling
  else (f.pack (!bitOf a (f.ebits + f.mbits)) (a % 2 ^ (f.ebits + f.mbits)), noFlags)

/-- The conditions of R103. -/
def condHolds (c : Nat) (o : Int) : Bool :=
  match c with
  | 0 => o == 0
  | 1 => o != 0
  | 2 => o < 0
  | 3 => o ≤ 0
  | 4 => o > 0
  | _ => o ≥ 0

/-- A quiet comparison: unordered gives onNan; a signalling NaN sets NV (R103). -/
def fCmp (f : Fmt) (cond : Nat) (onNan : Bool) (a b : Nat) : Bool × Flags :=
  let x := f.decode a
  let y := f.decode b
  let r := match FVal.cmp x y with
    | some o => condHolds cond o
    | none => onNan
  (r, { nv := x.signalling || y.signalling, of := false, uf := false })

/-! ## Integers (R105) -/

/-- A float to an integer of w bits, signed or not: rounded, saturated with NV; NaN gives 0 with NV. -/
def fToInt (f : Fmt) (mode : RMode) (signed : Bool) (w : Nat) (a : Nat) : Nat × Flags :=
  let lo : Int := if signed then -(2 ^ (w - 1) : Nat) else 0
  let hi : Int := if signed then (2 ^ (w - 1) - 1 : Nat) else (2 ^ w - 1 : Nat)
  match f.decode a with
  | .nan _ => (0, flagNv)
  | .inf n => (ofSigned w (if n then lo else hi), flagNv)
  | .fin n m e =>
    let t := (roundAt mode n m e 0 false).1
    let v : Int := if n then -(t : Int) else t
    if v < lo then (ofSigned w lo, flagNv) else if v > hi then (ofSigned w hi, flagNv) else (ofSigned w v, noFlags)

/-- An integer to a float. -/
def intToF (f : Fmt) (mode : RMode) (v : Int) : Nat × Flags := f.round mode false (v < 0) v.natAbs 0 false

/-! ## Block scales (R47, R48, R50, R51) -/

/-- E8M0 scale: 2^(e − 127), or NaN at 0xFF (R43, R47). -/
def e8m0 (x : Nat) : FVal := if x = 0xFF then .nan false else .fin false 1 ((x : Int) - 127)

/-- UE4M4 scale of a KX4 block (R50). -/
def ue4m4 (s : Nat) : FVal :=
  if s = 0xFF then .nan false else if s = 0 then .fin false 0 0 else .fin false (16 + s % 16) ((s / 16 : Nat) - 12)

/-- The largest exponent of an MX element format (R48). -/
def emaxOf (f : Fmt) : Int := if f = e4m3 then 8 else if f = e5m2 then 15 else if f = e3m2 then 4 else 2

/-- The larger of two finite magnitudes, as (m, e). -/
def maxMag (a b : Nat × Int) : Nat × Int :=
  let e0 := min a.2 b.2
  if a.1 * 2 ^ (a.2 - e0).toNat < b.1 * 2 ^ (b.2 - e0).toNat then b else a

def FVal.mag (v : FVal) : Nat × Int := match v with | .fin _ m e => (m, e) | _ => (0, 0)

def FVal.isInf (v : FVal) : Bool := match v with | .inf _ => true | _ => false

/-- A block of FP32 values to an MX block (R48): scale code, element codes, flags. modes gives each element's rounding. -/
def toMx (f : Fmt) (vals : List (Nat × RMode)) : Nat × List Nat × Flags :=
  let vs := vals.map fun x => fp32.decode x.1
  let anyNan := vs.any FVal.isNan
  let anyInf := vs.any FVal.isInf
  let nv := vs.any FVal.signalling
  if anyNan || anyInf then (0xFF, vals.map fun _ => 0, { nv := nv || (anyInf && !anyNan), of := false, uf := false })
  else
    let (m, e) := vs.foldl (fun a v => maxMag a v.mag) (0, 0)
    let scale : Int := if m = 0 then -127 else min 127 (max (-127) (e + bitLen m - 1 - emaxOf f))
    let rs := vals.map fun x => match fp32.decode x.1 with
      | .fin n k d => f.round x.2 true n k (d - scale) false
      | _ => (0, noFlags)
    ((scale + 127).toNat, rs.map Prod.fst, allFlags (rs.map Prod.snd))

/-- One block of 16 of a KX4 tile under tile scale T (R51): block scale code, element codes, flags. Where T is not a positive finite value, the NaN scale
comes from operands that may hold no NaN, and NV is set as R56 has it (DEDUCED, log 125). -/
def toKx4 (t : Nat) (vals : List (Nat × RMode)) : Nat × List Nat × Flags :=
  let vs := vals.map fun x => fp32.decode x.1
  let anyNan := vs.any FVal.isNan
  let anyInf := vs.any FVal.isInf
  let nv := vs.any FVal.signalling || (fp32.decode t).signalling
  let bad := (0xFF, vals.map fun _ => 0, { nv := nv || !(anyNan || (fp32.decode t).isNan), of := false, uf := false })
  match fp32.decode t with
  | .fin false tm te =>
    if tm = 0 then bad
    else if anyNan || anyInf then (0xFF, vals.map fun _ => 0, { nv := nv || (anyInf && !anyNan), of := false, uf := false })
    else
      let (m, e) := vs.foldl (fun a v => maxMag a v.mag) (0, 0)
      -- code s holds amax when m × 2^e ≤ 6 × T × S(s)
      let holds (s : Nat) : Bool := match ue4m4 s with
        | .fin _ sm se => match FVal.cmp (.fin false m e) (.fin false (6 * tm * sm) (te + se)) with | some o => o ≤ 0 | none => false
        | _ => false
      let s := if m = 0 then 0 else ((List.range 254).map (· + 1)).find? holds |>.getD 0xFE
      if s = 0 then (0, vals.map fun _ => 0, noFlags)
      else
        let (sm, se) := (ue4m4 s).mag
        let rs := vals.map fun x => match fp32.decode x.1 with
          | .fin n k d =>
            let (q, sh, sticky) := quotient k (tm * sm) 64
            e2m1.round x.2 true n q (d - te - se - sh) sticky
          | _ => (0, noFlags)
        (s, rs.map Prod.fst, allFlags (rs.map Prod.snd))
  | _ => bad

/-! ## Estimates (R102) -/

/-- The square roots of x, each of the one before, n of them, as 192-bit fixed point. -/
def roots : Nat → Nat → List Nat
  | 0, _ => []
  | n + 1, x => let r := isqrt (x * 2 ^ 192); r :: roots n r

/-- 2^x for 0 ≤ x < 1, x = f × 2^−160, as 192-bit fixed point, good to better than 2^−180. -/
def exp2Fix (f : Nat) : Nat :=
  ((roots 160 (2 ^ 193)).zip (List.range 160)).foldl (fun acc ci => if bitOf f (159 - ci.2) then acc * ci.1 / 2 ^ 192 else acc) (2 ^ 192)

/-- Bits of log2 of y, 2^319 ≤ y < 2^320 standing for 1 ≤ y < 2, by n squarings: n bits of fraction. -/
def log2Fix (n y acc : Nat) : Nat :=
  match n with
  | 0 => acc
  | k + 1 =>
    let z := y * y / 2 ^ 319
    if z ≥ 2 ^ 320 then log2Fix k (z / 2) (2 * acc + 1) else log2Fix k z (2 * acc)

/-- |v × 2^e − w × 2^d| < r × 2^k, all naturals. -/
def nearBy (v : Nat) (e : Int) (w : Nat) (d : Int) (r : Nat) (k : Int) : Bool :=
  let e0 := min e (min d k)
  let x : Int := v * 2 ^ (e - e0).toNat
  let y : Int := w * 2 ^ (d - e0).toNat
  (x - y).natAbs < r * 2 ^ (k - e0).toNat

/-- exp2.est: the candidate where it lies within the relative bound of 2^−22, else 2^a rounded to FP32. A subnormal result is that rounding too where no
code of FP32 lies within the bound (DESIGN CHOICE, log 11). UF is set where the result is tiny and is not 2^a itself (R56). -/
def fExp2 (cand : W32 → W32) (a : W32) : Nat × Flags :=
  match fp32.decode a.toNat with
  | .nan s => fp32.nan s
  | .inf n => (if n then 0 else fp32.infCode, noFlags)
  | .fin n m e =>
    if e + bitLen m > 9 then (if n then (0, { nv := false, of := false, uf := true }) else (fp32.infCode, flagOf))
    else
      let fx : Int := (if n then -1 else 1) * ((m * 2 ^ (e + 160).toNat : Nat) : Int)
      let ip := fx / 2 ^ 160
      let fr := (fx % 2 ^ 160).toNat
      let ref := exp2Fix fr
      if ip ≥ 128 then (fp32.infCode, flagOf)
      else if ip < -149 then (0, { nv := false, of := false, uf := true })
      else
        let c := (cand a).toNat
        let rounded := fp32.round .rn false false ref (ip - 192) (fr != 0)
        match fp32.decode c with
        | .fin false k d =>
          if nearBy k d ref (ip - 192) ref (ip - 192 - 22) then
            let exact := fr == 0 && FVal.cmp (.fin false k d) (.fin false 1 ip) == some 0
            (c, { nv := false, of := false, uf := decide (c < 0x00800000) && !exact })
          else rounded
        | _ => rounded

/-- log2.est: as exp2.est, with the absolute bound of 2^−22 from 0.5 to below 2 and the relative bound elsewhere. -/
def fLog2 (cand : W32 → W32) (a : W32) : Nat × Flags :=
  match fp32.decode a.toNat with
  | .nan s => fp32.nan s
  | .inf n => if n then fp32.nan true else (fp32.infCode, noFlags)
  | .fin n m e =>
    if m = 0 then (fp32.pack true fp32.infCode, noFlags)
    else if n then fp32.nan true
    else
      let top := e + bitLen m - 1
      let fr := log2Fix 128 (m * 2 ^ (320 - bitLen m)) 0
      let v : Int := top * 2 ^ 128 + fr
      let tolAbs := top = 0 || top = -1
      let c := (cand a).toNat
      let ok := match fp32.decode c with
        | .fin k l d =>
          (v.natAbs = 0 || k == decide (v < 0) || tolAbs) &&
          (let e0 := min d (-150)
           let x := finInt k l d e0
           let y := v * 2 ^ (-128 - e0).toNat
           let tol : Nat := if tolAbs then 2 ^ (-22 - e0).toNat else v.natAbs * 2 ^ (-150 - e0).toNat
           (x - y).natAbs < tol)
        | _ => false
      if ok then (c, noFlags) else fp32.round .rn false (v < 0) v.natAbs (-128) (v != 0)

/-- rsq.est: the candidate c where |c √a − 1| < 2^−22, which is checked exactly on squares, else 1 ÷ √a rounded. -/
def fRsq (cand : W32 → W32) (a : W32) : Nat × Flags :=
  match fp32.decode a.toNat with
  | .nan s => fp32.nan s
  | .inf n => if n then fp32.nan true else (0, noFlags)
  | .fin n m e =>
    if m = 0 then (fp32.pack n fp32.infCode, noFlags)
    else if n then fp32.nan true
    else
      let c := (cand a).toNat
      let ok := match fp32.decode c with
        | .fin false k d =>
          let x : FVal := .fin false (k * k * m) (2 * d + e)
          FVal.cmp (.fin false ((2 ^ 22 - 1) * (2 ^ 22 - 1)) (-44)) x == some (-1) &&
          FVal.cmp x (.fin false ((2 ^ 22 + 1) * (2 ^ 22 + 1)) (-44)) == some (-1)
        | _ => false
      if ok then (c, noFlags)
      else
        -- 1 ÷ √(m 2^e) with e made even: √(2^(2k) ÷ m) × 2^(−e ÷ 2 − k)
        let odd := e % 2 != 0
        let m' := if odd then 2 * m else m
        let e' : Int := if odd then e - 1 else e
        let k := bitLen m' + 32
        fp32.round .rn false false (isqrt (2 ^ (2 * k) / m')) (-(e' / 2) - k) true

end Sys2Proof.Machine
end

