-- ==== Sys2Proof/Machine/Anchor.lean ====
section
/-! DEFINITION. Anchored sums (R63 to R74) and the stochastic generator (R59, R60). -/

namespace Sys2Proof.Machine

/-! ## The long form -/

/-- 2^191 − 2, the largest number of a long form (R63). -/
def longMax : Int := 2 ^ 191 - 2

def longPosInf : BitVec 192 := BitVec.ofNat 192 (2 ^ 191 - 1)

def longNegInf : BitVec 192 := BitVec.ofNat 192 (2 ^ 191 + 1)

def longNan : BitVec 192 := BitVec.ofNat 192 (2 ^ 191)

/-- What a long form stands for (R63). -/
inductive LVal where
  | num (v : Int)
  | inf (neg : Bool)
  | nan
  deriving DecidableEq, Repr

def LVal.of (l : BitVec 192) : LVal :=
  if l = longNan then .nan else if l = longPosInf then .inf false else if l = longNegInf then .inf true else .num l.toInt

def LVal.bits (v : LVal) : BitVec 192 :=
  match v with
  | .num n => BitVec.ofInt 192 n
  | .inf neg => if neg then longNegInf else longPosInf
  | .nan => longNan

/-- An anchor of ten bits as a signed exponent (R64). -/
def anchorExp (a : BitVec 10) : Int := a.toInt

/-- A number kept within the range: the value and whether it saturated (R66, R67). -/
def longClamp (v : Int) : Int × Bool :=
  if v > longMax then (longMax, true) else if v < -longMax then (-longMax, true) else (v, false)

def LongForm.zero : LongForm := { bits := 0, ovf := false, oppinf := false }

/-- A value entering a long form under an anchor (R66, R67). -/
def longEnter (a : BitVec 10) (v : FVal) : LongForm :=
  match v with
  | .nan _ => { bits := longNan, ovf := false, oppinf := false }
  | .inf neg => { bits := (LVal.inf neg).bits, ovf := false, oppinf := false }
  | .fin neg m e =>
    let t := (roundAt .rn neg m (e + 160 - anchorExp a) 0 false).1
    let r := longClamp (if neg then -(t : Int) else t)
    { bits := (LVal.num r.1).bits, ovf := r.2, oppinf := false }

/-- Two long forms combined (R67). oppinf: opposite infinities produced a NaN (R74). -/
def longCombine (x y : LongForm) : LongForm :=
  let flags (b : BitVec 192) (o p : Bool) : LongForm := { bits := b, ovf := x.ovf || y.ovf || o, oppinf := x.oppinf || y.oppinf || p }
  match LVal.of x.bits, LVal.of y.bits with
  | .nan, _ => flags longNan false false
  | _, .nan => flags longNan false false
  | .inf a, .inf b => if a = b then flags x.bits false false else flags longNan false true
  | .inf _, .num _ => flags x.bits false false
  | .num _, .inf _ => flags y.bits false false
  | .num a, .num b => let r := longClamp (a + b); flags (LVal.num r.1).bits r.2 false

/-- Closing a long form to a format (R69, R74): the code and the flags. -/
def longClose (f : Fmt) (a : BitVec 10) (l : LongForm) : Nat × Flags :=
  match LVal.of l.bits with
  | .nan => (f.nanCode, { nv := l.oppinf, of := false, uf := false })
  | .inf neg => (f.pack neg f.infCode, noFlags)
  | .num v =>
    let r := f.round .rn false (v < 0) v.natAbs (anchorExp a - 160) false
    if v = 0 then (0, noFlags) else (r.1, if l.ovf then noFlags else r.2)

/-- The probe exponent of a value (R71). -/
def probeExp (v : FVal) : Int :=
  match v with
  | .nan _ => -32768
  | .inf _ => 32767
  | .fin _ m e => if m = 0 then -32768 else e + bitLen m - 1

/-! ## Philox4x32-10 -/

/-- The four words of a counter, with the two of the key. -/
structure Philox where
  c0 : Nat
  c1 : Nat
  c2 : Nat
  c3 : Nat
  k0 : Nat
  k1 : Nat
  deriving DecidableEq, Repr

/-- One round of the generator (R60). -/
def Philox.round (p : Philox) : Philox :=
  let p0 := 0xD2511F53 * p.c0
  let p1 := 0xCD9E8D57 * p.c2
  { c0 := ((p1 / 2 ^ 32) ^^^ p.c1) ^^^ p.k0, c1 := p1 % 2 ^ 32, c2 := ((p0 / 2 ^ 32) ^^^ p.c3) ^^^ p.k1, c3 := p0 % 2 ^ 32,
    k0 := (p.k0 + 0x9E3779B9) % 2 ^ 32, k1 := (p.k1 + 0xBB67AE85) % 2 ^ 32 }

def philoxRounds (n : Nat) (p : Philox) : Philox :=
  match n with
  | 0 => p
  | k + 1 => philoxRounds k p.round

/-- What names the elements of an SR instruction (R60). -/
structure SrKey where
  seed  : W64
  icnt  : BitVec 48
  team  : Nat
  block : W32
  pcore : Nat
  stage : Nat
  deriving DecidableEq, Repr

/-- The random word of element e (R60). -/
def srWord (k : SrKey) (e : Nat) : W32 :=
  let p := philoxRounds 10
    { c0 := k.icnt.toNat % 2 ^ 32, c1 := k.icnt.toNat / 2 ^ 32 + 2 ^ 16 * (k.team % 16) + 2 ^ 20 * (e / 4 % 4096), c2 := k.block.toNat,
      c3 := k.pcore % 2 ^ 16 + 2 ^ 16 * (k.stage % 64), k0 := k.seed.toNat % 2 ^ 32, k1 := k.seed.toNat / 2 ^ 32 }
  BitVec.ofNat 32 (match e % 4 with | 0 => p.c0 | 1 => p.c1 | 2 => p.c2 | _ => p.c3)

/-- The rounding of element e under MOD's mode: SR takes its own word (R59). key = none for the modes other than SR. -/
def modeAt (mode : RMode) (key : Option SrKey) (e : Nat) : RMode :=
  match key with
  | some k => .sr (srWord k e)
  | none => mode

end Sys2Proof.Machine
end

