-- ==== Sys2Proof/Machine/Report.lean ====
section
/-! DEFINITION. Fault entries, error records, fault queues (R461 to R464, R486 to R490, R544) and status entries (R352, R353, R364 to R366). -/

namespace Sys2Proof.Machine

/-! ## Fault entries -/

/-- The 64 bytes of a fault entry (R487). -/
def FaultEntry.bytes (e : FaultEntry) : List Byte :=
  leBytes 8 e.seq.toNat ++ leBytes 8 e.beat.toNat ++ leBytes 8 e.time.toNat ++
  [BitVec.ofNat 8 e.cls.toNat, e.code, BitVec.ofNat 8 (e.sev.toNat + 4 * b2n e.close + 8 * b2n e.preempt + 16 * b2n e.needack), e.pad, e.utype, 0] ++
  leBytes 2 e.uindex.toNat ++ leBytes 4 e.count.toNat ++ leBytes 28 e.detail.toNat

/-- The Lodge's counter moved on to the present (R487; log 10). -/
def tickLodge (s : State) : State :=
  { s with flt := { s.flt with lodgeNs := s.flt.lodgeNs + Config.elapsedNs s.free }, free := s.free + 1 }

def getFq (s : State) (q : Fin 2) : FaultQueue := s.flt.queues[q]

def setFq (q : Fin 2) (x : FaultQueue) (s : State) : State := { s with flt := { s.flt with queues := s.flt.queues.set q x } }

/-- The queue has room and can be written (R486, R567). -/
def fqTakes (s : State) (q : Fin 2) : Bool :=
  let x := getFq s q
  x.enable && funcUp s q 0 && decide ((x.prod - x.cons).toNat < 2 ^ x.log2n.toNat)

/-- An entry written to queue q: its slot, then PROD, then the MSI-X message (R567). -/
def fqWrite (q : Fin 2) (e : FaultEntry) (s : State) : State :=
  let x := getFq s q
  sendMsix q 0 x.vec.toNat
    (setFq q { x with prod := x.prod + 1 } (hostWrites q (x.base.toNat + 64 * (x.prod.toNat % 2 ^ x.log2n.toNat)) e.bytes s))

/-- The seven counts as DETAIL of an OVERFLOW entry (R489). -/
def lostDetail (v : Vector W32 7) : BitVec 224 := BitVec.ofNat 224 (leNat (v.toList.flatMap fun c => leBytes 4 c.toNat))

def lostTotal (v : Vector W32 7) : Nat := v.toList.foldl (fun a c => a + c.toNat) 0

/-- A MARKER entry for counts and the SEQ of the last entry they cover, at this moment (R490). -/
def markerEntry (s : State) (lost : Vector W32 7) (last : W64) : FaultEntry :=
  { seq := last, beat := s.beat.count, time := s.flt.lodgeNs, cls := 8, code := 1, sev := 0, close := false, preempt := false, needack := false,
    pad := 0xFF, utype := 0x0E, uindex := 0, count := BitVec.ofNat 32 (lostTotal lost), detail := lostDetail lost }

/-- The place of class c in the seven counts of R489. -/
def clsSlot (c : BitVec 4) : Fin 7 := Fin.ofNat 7 (c.toNat - 1)

/-- An entry that queue q cannot take is counted for it (R490). -/
def fqCount (q : Fin 2) (e : FaultEntry) (s : State) : State :=
  let x := getFq s q
  let i := clsSlot e.cls
  bump (1136 + 8 * q.val + i.val) 1
    (setFq q { x with overflow := true, lost := x.lost.set i (x.lost[i] + 1), lastLost := e.seq } s)

/-- The MARKER of R490, where the queue owes one and can take it. -/
def fqMark (q : Fin 2) (s : State) : State :=
  let x := getFq s q
  if x.overflow && fqTakes s q then
    let s := fqWrite q (markerEntry s x.lost x.lastLost) s
    setFq q { getFq s q with overflow := false, lost := Vector.replicate 7 0 } s
  else s

/-- An entry comes to a queue whose setup has taken effect: the marker owed first, then the entry, or its count (R486, R490). -/
def fqDeliver (q : Fin 2) (e : FaultEntry) (s : State) : State :=
  if (getFq s q).setUp then
    let s := fqMark q s
    if fqTakes s q then fqWrite q e s else fqCount q e s
  else s

/-- Before the first setup, the first 256 entries are held and the rest counted (R544). -/
def holdEntry (e : FaultEntry) (s : State) : State :=
  if s.flt.held.length < 256 then { s with flt := { s.flt with held := s.flt.held ++ [e] } }
  else
    let i := clsSlot e.cls
    { s with flt := { s.flt with heldOver := s.flt.heldOver.set i (s.flt.heldOver[i] + 1), heldLast := e.seq } }

/-- No fault queue has been set up since the cold start. -/
def noneSetUp (s : State) : Bool := !(getFq s 0).setUp && !(getFq s 1).setUp

/-- An entry with the next SEQ (R486). In an entry whose PAD names a confidential paddock, DETAIL is zero (R489). -/
def writeEntry (e : FaultEntry) (s : State) : State :=
  let s := tickLodge s
  let seq := s.flt.seq + 1
  let s := { s with flt := { s.flt with seq := seq } }
  let e := { e with seq := seq, beat := s.beat.count, time := s.flt.lodgeNs,
                    detail := if e.pad ≠ 0xFF && isConf s e.pad.toNat then 0 else e.detail }
  if noneSetUp s then holdEntry e s else fqDeliver 1 e (fqDeliver 0 e s)

/-- The first setup of a fault queue takes effect: held entries in SEQ order, then the marker of those beyond them, which
count as not written to the queue (R544; DEDUCED, log 92). -/
def flushHeld (q : Fin 2) (s : State) : State :=
  let s' := s.flt.held.foldl (fun t e => fqWrite q e t) s
  let s' := if s.flt.heldOver = Vector.replicate 7 0 then s'
    else fqWrite q (markerEntry s s.flt.heldOver s.flt.heldLast)
      ((List.finRange 7).foldl (fun t k => bump (1136 + 8 * q.val + k.val) s.flt.heldOver[k].toNat t) s')
  { s' with flt := { s'.flt with held := [], heldOver := Vector.replicate 7 0 } }

/-! ## Error records -/

/-- What an error says of itself: class, code, SEV, NEEDACK, PAD, unit and DETAIL (R487 to R489). -/
structure Err where
  cls     : BitVec 4
  code    : Byte
  sev     : BitVec 2
  needack : Bool
  pad     : Byte
  utype   : Byte
  uindex  : Nat
  detail  : BitVec 224
  deriving DecidableEq, Repr

def Err.entry (e : Err) (preempt : Bool) : FaultEntry :=
  { seq := 0, beat := 0, time := 0, cls := e.cls, code := e.code, sev := e.sev, close := false, preempt := preempt, needack := e.needack, pad := e.pad,
    utype := e.utype, uindex := BitVec.ofNat 16 e.uindex, count := 0, detail := e.detail }

def ErrRecord.isUnit (u : Byte) (i : Nat) (r : ErrRecord) : Bool := r.utype == u && r.uindex == BitVec.ofNat 16 i

def findRecord (s : State) (u : Byte) (i : Nat) : Option ErrRecord := s.flt.records.find? (ErrRecord.isUnit u i)

def putRecord (r : ErrRecord) (s : State) : State :=
  { s with flt := { s.flt with records := r :: s.flt.records.filter fun x => !(x.utype == r.utype && x.uindex == r.uindex) } }

/-- An error on a unit: it opens the unit's record, is folded into it, or pre-empts it (R462 to R464). Its handling has begun. -/
def raiseErr (e : Err) (s : State) : State :=
  match findRecord s e.utype e.uindex with
  | none =>
    let s := writeEntry (e.entry false) s
    putRecord { utype := e.utype, uindex := BitVec.ofNat 16 e.uindex, cls := e.cls, code := e.code, sev := e.sev, pad := e.pad, seq := s.flt.seq,
                multi := false, count := 0, needack := e.needack, handlings := 1 } s
  | some r =>
    if e.sev ≤ r.sev then putRecord { r with multi := true, count := r.count + 1, handlings := r.handlings + 1 } s
    else
      let s := writeEntry (e.entry true) s
      putRecord { r with cls := e.cls, code := e.code, sev := e.sev, pad := e.pad, seq := s.flt.seq, needack := e.needack,
                         handlings := r.handlings + 1 } s

/-- The record closes once every handling is complete and no FAULT.ACK is owed; with MULTI it writes its closing entry (R462, R463). -/
def closeRecord (u : Byte) (i : Nat) (s : State) : State :=
  match findRecord s u i with
  | none => s
  | some r =>
    if r.handlings = 0 && !r.needack then
      let s := { s with flt := { s.flt with records := s.flt.records.filter fun x => !ErrRecord.isUnit u i x } }
      if r.multi then
        writeEntry { seq := 0, beat := 0, time := 0, cls := r.cls, code := r.code, sev := r.sev, close := true, preempt := false, needack := false,
                     pad := r.pad, utype := r.utype, uindex := r.uindex, count := r.count, detail := 0 } s
      else s
    else s

/-- n handlings of a unit's record complete. -/
def handledN (n : Nat) (u : Byte) (i : Nat) (s : State) : State :=
  match findRecord s u i with
  | none => s
  | some r => closeRecord u i (putRecord { r with handlings := r.handlings - n } s)

def handled (u : Byte) (i : Nat) (s : State) : State := handledN 1 u i s

/-- An error whose handling completes with it. -/
def report (e : Err) (s : State) : State := handled e.utype e.uindex (raiseErr e s)

/-- FAULT.ACK: the record whose entry has this SEQ needs no acknowledgement any more (R462). -/
def ackRecord (seq : W64) (s : State) : State :=
  match s.flt.records.find? fun r => r.needack && r.seq == seq with
  | some r => closeRecord r.utype r.uindex.toNat (putRecord { r with needack := false } s)
  | none => s

/-! ## The entries by class -/

def detailOf (bs : List Byte) : BitVec 224 := BitVec.ofNat 224 (leNat bs)

/-- A LINK entry: group, target or port, width, mode, lane and peer (R489). -/
def linkErr (code : Byte) (sev : BitVec 2) (utype : Byte) (uindex b0 width mode lane : Nat) (peer : BitVec 48) : Err :=
  { cls := 3, code := code, sev := sev, needack := false, pad := 0xFF, utype := utype, uindex := uindex,
    detail := detailOf ([BitVec.ofNat 8 b0, BitVec.ofNat 8 width, BitVec.ofNat 8 mode, BitVec.ofNat 8 lane] ++ leBytes 6 peer.toNat) }

/-- A MEM entry (R489): address, space, HALF, bits of byte 10, old and new site. -/
def memErr (code : Byte) (sev : BitVec 2) (ack : Bool) (pad : Byte) (utype : Byte) (uindex addr space half bits old new : Nat) : Err :=
  { cls := 2, code := code, sev := sev, needack := ack, pad := pad, utype := utype, uindex := uindex,
    detail := detailOf (leBytes 8 addr ++ [BitVec.ofNat 8 space, BitVec.ofNat 8 half, BitVec.ofNat 8 bits, 0] ++ leBytes 4 old ++ leBytes 4 new) }

/-- A PACE entry (R489), with the unit that it names. -/
def paceErr (code : Byte) (sev : BitVec 2) (utype : Byte) (uindex pad stage slip short inv beat : Nat) : Err :=
  { cls := 4, code := code, sev := sev, needack := false, pad := BitVec.ofNat 8 pad, utype := utype, uindex := uindex,
    detail := detailOf ([BitVec.ofNat 8 stage, BitVec.ofNat 8 slip, BitVec.ofNat 8 short, 0, 0, 0, 0, 0] ++ leBytes 8 inv ++ leBytes 8 beat) }

/-- A PACE entry is written. R461 gives a stage no unit: UTYPE and UINDEX are free values (DESIGN CHOICE, log 91). -/
def reportPace (code : Byte) (sev : BitVec 2) (pad stage slip short inv beat : Nat) (s : State) : State :=
  report (paceErr code sev (BitVec.ofNat 8 (Config.freeChoice s.free)) (Config.freeChoice (s.free + 1) % 65536) pad stage slip short inv beat)
    { s with free := s.free + 2 }

/-- A POWER, BEAT or SEC entry with its quantity (R489). -/
def quantErr (cls : BitVec 4) (code : Byte) (sev : BitVec 2) (pad utype : Byte) (uindex q : Nat) : Err :=
  { cls := cls, code := code, sev := sev, needack := false, pad := pad, utype := utype, uindex := uindex, detail := detailOf (leBytes 8 q) }

/-! ## Status entries -/

/-- OPCODE of a command (R368). -/
def Body.opcode (b : Body) : Nat :=
  match b with
  | .devInfo => 0x01
  | .devWarm _ => 0x03
  | .devHalfloss _ => 0x05
  | .extMap _ => 0x10
  | .extUnmap _ _ => 0x11
  | .adviseHint _ _ _ => 0x12
  | .adviseHost _ => 0x12
  | .adviseAperture _ => 0x12
  | .adviseMigmode _ _ _ => 0x12
  | .prefetch _ => 0x13
  | .copy _ => 0x14
  | .extShare _ => 0x15
  | .padCreate _ => 0x20
  | .padDestroy _ => 0x21
  | .padReset _ => 0x22
  | .padQuery => 0x23
  | .jobLaunch _ => 0x30
  | .pipeLoad _ _ => 0x31
  | .pipeStart _ => 0x32
  | .pipeMove _ => 0x33
  | .batchSubmit _ => 0x34
  | .seqJoin _ => 0x35
  | .seqLeave _ => 0x36
  | .postSet _ _ => 0x40
  | .postWait _ _ _ => 0x41
  | .groupJoin _ => 0x42
  | .groupLeave _ => 0x42
  | .winOpen _ => 0x50
  | .winClose _ => 0x51
  | .linkQuery _ => 0x52
  | .linkEnable _ => 0x52
  | .linkDisable _ => 0x52
  | .linkSet _ _ _ => 0x52
  | .checkArm _ _ _ => 0x53
  | .checkRead _ _ => 0x53
  | .snapMark _ => 0x60
  | .snapRestore _ => 0x61
  | .faultAck _ => 0x62
  | .snapStream _ => 0x63
  | .pwrCap _ => 0x70
  | .pwrState _ _ => 0x71
  | .pwrFixed _ _ => 0x72
  | .attReport _ _ _ => 0x80
  | .confEnter _ => 0x81
  | .cntSnap _ _ => 0x90
  | .beatSet _ => 0x91
  | .testSelf _ _ => 0xA0
  | .testCold _ _ => 0xA1

/-- Status codes (R366). -/
def done : Nat := 0x01
def accepted : Nat := 0x02
def noResource : Nat := 0x03
def notAdmitted : Nat := 0x04
def lostCode : Nat := 0x05
def replaced : Nat := 0x06
def timedOut : Nat := 0x07
def noData : Nat := 0x08

/-- The 32 bytes of a status entry (R365), RESULT filled up with zeros. -/
def statusBytes (tag : W32) (opcode code : Nat) (beat : W64) (result : List Byte) : List Byte :=
  leBytes 4 tag.toNat ++ [BitVec.ofNat 8 code, 0] ++ leBytes 2 opcode ++ leBytes 8 beat.toNat ++ leBytes 16 (leNat (result.take 16))

/-- One status entry of a ring: the entry, then SPROD, then the message an IRQ calls for (R353, R364); while the ring's function cannot be written it is
discarded and counted (R422, R423). reserved says that an entry had been reserved for it (R352). -/
def ringStatus (r : Nat) (tag : W32) (opcode code : Nat) (result : List Byte) (irq reserved : Bool) (s : State) : State :=
  let g := getRing s r
  let g := if reserved then { g with reserved := g.reserved - 1 } else g
  match ringFunc s r with
  | none => setRing r g s
  | some (h, fn) =>
    if funcUp s h fn then
      let s := hostWrites h (g.sring.toNat + 32 * (g.sprod.toNat % 2 ^ g.ssize.toNat)) (statusBytes tag opcode code s.beat.count result) s
      let s := hostWrites h (g.rcb.toNat + 16) (leBytes 8 (g.sprod + 1).toNat) s
      let s := setRing r { g with sprod := g.sprod + 1 } s
      if irq then sendMsix h fn g.vec.toNat s else s
    else bump (1132 + h.val) 1 (setRing r g s)

/-- The entry of a refused packet: TAG as read, the status word zero, no interrupt; the refusal is counted (R359). -/
def refuse (r : Nat) (tag : W32) (s : State) : State :=
  let s := ringStatus r tag 0 0 [] false false s
  let g := getRing s r
  setRing r { g with refused := BitVec.ofNat 32 (satAdd 32 g.refused.toNat 1) } s

def findCmd (s : State) (seq : Nat) : Option Cmd := s.ym.cmds.find? fun c => c.seq == seq

def dropCmd (seq : Nat) (s : State) : State := { s with ym := { s.ym with cmds := s.ym.cmds.filter fun c => c.seq != seq } }

/-- The status entry of a command in flight; the command is over. -/
def writeStatus (seq code : Nat) (result : List Byte) (s : State) : State :=
  match findCmd s seq with
  | none => s
  | some c => ringStatus c.hdr.ring.val c.hdr.tag c.body.opcode code result c.hdr.irq true (dropCmd seq s)

/-- As writeStatus, where a command waits for it. -/
def statusOpt (cmd : Option Nat) (code : Nat) (result : List Byte) (s : State) : State :=
  match cmd with
  | some seq => writeStatus seq code result s
  | none => s

/-- LOST for each of some commands, in acceptance order (R367). -/
def loseCmds (p : Cmd → Bool) (s : State) : State :=
  (s.ym.cmds.filter p).foldl (fun t c => writeStatus c.seq lostCode [] t) s

end Sys2Proof.Machine
end

