-- ==== Sys2Proof/Machine/Translate.lean ====
section
/-! DEFINITION. Extents, epochs and the check at memory (R276 to R292), commons addresses (R241), and the bandwidth regulators (R398 to R401). -/

namespace Sys2Proof.Machine

/-- Bytes of a granule: 2 MiB. -/
def granBytes : Nat := 2097152

/-! ## Translation -/

/-- The extent covers a virtual address. -/
def Extent.covers (e : Extent) (va : Nat) : Bool := e.vbase ≤ va && va < e.vbase + e.len * granBytes

/-- The table version under which a transfer that began at an epoch translates (R290). -/
def tableAt (s : State) (tag : Nat) (epoch : W16) : List Extent :=
  let sp := getSpace s tag
  if sp.epoch = epoch then sp.table
  else match sp.prev.find? fun v => v.1 == epoch with
    | some v => v.2
    | none => sp.table

/-! ## Lookasides (R286, R288) -/

/-- The lookaside of a core, of a dray of a die, of the window unit and of the aperture unit of an I/O die. -/
def coreLook (core : Nat) : Nat := core
def drayLook (die dray : Nat) : Nat := 1024 + 16 * die + dray
def windowLook (die : Nat) : Nat := 1200 + die
def apertureLook (die : Nat) : Nat := 1210 + die

/-- The Yardmaster's own reads: R286 gives it no lookaside, and the walker serves each. -/
def yardLook : Nat := 1220

/-- Entries that a lookaside holds (R286). -/
def lookCap (unit : Nat) : Nat := if unit < 1024 then 64 else 256

def LookEntry.names (tag : Nat) (epoch : W16) (e : LookEntry) : Bool := e.tag == tag && e.epoch == epoch

/-- What an engine translates by: the entries of its lookaside that it has read under the transfer's epoch, then, on a miss, the table that the walker
searches (R286, R290). -/
def tableSeen (s : State) (unit tag : Nat) (epoch : W16) : List Extent :=
  ((tget s.xlt.look unit []).filter (LookEntry.names tag epoch)).map LookEntry.ext ++ tableAt s tag epoch

/-- A lookaside has been asked for an address: the entry that covers it, loaded by the walker where it was not held, is the most recently used, and the least
recently used one goes where there is no room (R286). -/
def noteLook (unit tag : Nat) (epoch : W16) (va : Nat) (s : State) : State :=
  match (tableSeen s unit tag epoch).find? fun e => e.covers va && decide (unit < yardLook) with
  | none => s
  | some e =>
    let x : LookEntry := { tag := tag, epoch := epoch, ext := e }
    let rest := (tget s.xlt.look unit []).filter fun y => y != x
    { s with xlt := { s.xlt with look := tput s.xlt.look unit ((x :: rest).take (lookCap unit)) } }

/-- The prefetcher of a stream (R288): once the stream's next part lies within 4 MiB of the end of its extent, the extent one byte past the end is looked
up. -/
def prefetchLook (unit tag : Nat) (epoch : W16) (next : Nat) (s : State) : State :=
  match (tableSeen s unit tag epoch).find? fun e => e.covers next with
  | none => s
  | some e =>
    let top := e.vbase + e.len * granBytes
    if top ≤ next + 4194304 then noteLook unit tag epoch top s else s

/-- Step 3 of R291: entries of a tag read under an older epoch leave every lookaside. -/
def dropOldLook (tag : Nat) (epoch : W16) (s : State) : State :=
  { s with xlt := { s.xlt with look := s.xlt.look.map fun u => (u.1, u.2.filter fun e => e.tag != tag || e.epoch == epoch) } }

/-! ## The check of a translation -/

/-- A valid translation (R282): bits 63:47 zero, an extent of the space covers the address, and no write goes through a share entry. -/
def lookup (tbl : List Extent) (barn write : Bool) (va : Nat) : Option Extent :=
  if va ≥ 2 ^ 47 then none
  else match tbl.find? fun e => e.covers va with
    | some e => if e.barn != barn || (write && e.share.isSome) then none else some e
    | none => none

/-- The half-local address of a virtual address in an extent (R280). -/
def Extent.place (e : Extent) (va : Nat) : Nat := granBytes * e.pbase + (va - e.vbase)

/-- The run that holds a granule that is mapped or draining (R283). -/
def granRun (s : State) (barn half : Bool) (g : Nat) : Option GranRun :=
  s.xlt.granules.find? fun r => r.barn == barn && r.half == half && r.first ≤ g && g < r.first + r.len

/-- A context identifier (R283). -/
def ctxOf (pad tag : Nat) : BitVec 15 := BitVec.ofNat 15 (1024 * pad + tag)

/-- The check at memory for a paddock's request (R284). -/
def permitted (s : State) (pad tag : Nat) (barn half write : Bool) (a : Nat) : Bool :=
  match granRun s barn half (a / granBytes) with
  | none => false
  | some r => r.ctx == ctxOf pad tag || (!write && r.share.getLsbD pad)

/-- Where a request goes: the extent and the half-local address, or a refusal of R282 or R284. -/
def reach (s : State) (tbl : List Extent) (pad tag : Nat) (barn write : Bool) (va : Nat) : Option (Extent × Nat) :=
  match lookup tbl barn write va with
  | none => none
  | some e => if permitted s pad tag barn e.half write (e.place va) then some (e, e.place va) else none

/-- A range cut at the 1 KiB line boundaries: addresses and lengths. -/
def chunksFrom (fuel va n : Nat) : List (Nat × Nat) :=
  match fuel with
  | 0 => []
  | k + 1 =>
    if n = 0 then []
    else
      let m := min n (1024 - va % 1024)
      (va, m) :: chunksFrom k (va + m) (n - m)

def chunks (va n : Nat) : List (Nat × Nat) := chunksFrom (n / 1024 + 2) va n

/-! ## LOFT commons -/

/-- The units of a mask that lie in order, ascending. -/
def unitList (mask : W32) : List Nat := bitList 32 mask.toNat

/-- The byte of commons that a LOFT offset names (R241), as unit × 2^26 + byte of the unit; none at or beyond the commons size (R242). -/
def commonsByte (s : State) (pad o : Nat) : Option Nat :=
  match getPad s pad with
  | none => none
  | some d => match (unitList d.commons)[o / 67108864]? with
    | some u => some (u * 67108864 + o % 67108864)
    | none => none

/-- The die and logical slice of a commons byte (R241). -/
def commonsSlice (b : Nat) : Nat × Nat :=
  let u := b / 67108864
  let sl := b % 67108864 / 1024 % 128
  (4 * (u / 16) + sl / 32, sl % 32)

/-! ## Granule records -/

/-- Granules of a run taken out of a list of runs. -/
def cutRun (barn half : Bool) (first len : Nat) (l : List GranRun) : List GranRun :=
  l.flatMap fun r =>
    if r.barn == barn && r.half == half && r.first < first + len && first < r.first + r.len then
      (if r.first < first then [{ r with len := first - r.first }] else []) ++
      (if first + len < r.first + r.len then [{ r with first := first + len, len := r.first + r.len - (first + len) }] else [])
    else [r]

def addRun (r : GranRun) (s : State) : State := { s with xlt := { s.xlt with granules := r :: s.xlt.granules } }

def dropRun (r : GranRun) (s : State) : State :=
  { s with xlt := { s.xlt with granules := cutRun r.barn r.half r.first r.len s.xlt.granules } }

/-- Granules of a space and half that runs hold. -/
def heldGranules (s : State) (barn half : Bool) : Nat :=
  (s.xlt.granules.filter fun r => r.barn == barn && r.half == half).foldl (fun a r => a + r.len) 0

/-- Granules of a paddock that are mapped or draining in a space and half (R279, R394). -/
def padGranules (s : State) (pad : Nat) (barn half : Bool) : Nat :=
  (s.xlt.granules.filter fun r => r.barn == barn && r.half == half && r.ctx.toNat / 1024 == pad).foldl (fun a r => a + r.len) 0

/-- The extent pool of a half (R569): first granule and the one past the last. -/
def poolRange (s : State) (barn half : Bool) : Nat × Nat :=
  if barn then (786496, 1048576 - 512 * (s.stk.standinCur[if half then (1 : Fin 2) else 0]).toNat) else (128, 393216)

def poolSize (s : State) (barn half : Bool) : Nat := (poolRange s barn half).2 - (poolRange s barn half).1

/-- Free granules of a pool (R569). -/
def freeGranules (s : State) (barn half : Bool) : Nat := poolSize s barn half - heldGranules s barn half

/-- The lowest start from at on a run of len free granules below top: fuel runs are met at most. -/
def findRun (runs : List GranRun) (fuel at_ len top : Nat) : Option Nat :=
  match fuel with
  | 0 => none
  | k + 1 =>
    if at_ + len > top then none
    else match runs.find? fun r => r.first < at_ + len && at_ < r.first + r.len with
      | none => some at_
      | some r => findRun runs k (r.first + r.len) len top

/-- Where the Yardmaster places len consecutive granules: the lowest free run of the pool (R280, R321; DESIGN CHOICE, log 15). -/
def freeRun (s : State) (barn half : Bool) (len : Nat) : Option Nat :=
  let runs := s.xlt.granules.filter fun r => r.barn == barn && r.half == half
  let p := poolRange s barn half
  findRun runs (runs.length + 1) p.1 len p.2

/-- The budget index of a space and half: STACKE, STACKW, BARNE, BARNW. -/
def budgetIdx (barn half : Bool) : Fin 4 := if barn then (if half then 3 else 2) else (if half then 1 else 0)

/-- Granules a paddock may still map in a space and half (R394). -/
def budgetLeft (s : State) (pad : Nat) (barn half : Bool) : Nat :=
  match getPad s pad with
  | none => 0
  | some d => d.budgets[budgetIdx barn half] - padGranules s pad barn half

/-! ## Transfers of a tag (R290, R291) -/

def Access.old (tag : Nat) (epoch : W16) (a : Access) : Bool := a.tag == tag && a.epoch != epoch && a.space == 2

/-- No transfer of the tag that began under an older epoch is unfinished (step 4 of R291). A remote add on its way to a line counts, whatever its epoch. -/
def tagDrained (s : State) (tag : Nat) : Bool :=
  let e := (getSpace s tag).epoch
  !(s.loft.adds.any fun r => match r.src with | .window w _ _ _ => (getWin s w).entry.tag.toNat == tag | .access _ => false) &&
  !(s.xlt.held.any fun r => r.began.any fun b => b.1 == tag && b.2 != e) &&
  !(s.accs.any (Access.old tag e)) && !(s.copies.any fun c => c.tag == tag && c.epoch != e) &&
  !(s.drays.xfers.any fun x => x.tag == tag && x.started && x.epoch != e) && !(s.links.ops.any fun o => o.tag == tag && o.epoch != e)

/-! ## Refusals counted once per transfer -/

/-- A transfer of a paddock meets a refusal for the first time (R282). -/
def countRefusal (pad : Nat) (met already : Bool) (s : State) : State := if met && !already then bumpPad pad 0 1 s else s

/-! ## Bandwidth regulators -/

/-- The tokens of a bucket now, after a time that is left free (R398; log 10). -/
def bucketNow (d : Pad) (i : Fin 4) (ns : Nat) : Nat :=
  min (1024 * d.p.buckets[i].depth.toNat) (d.buckets[i] + d.p.buckets[i].rate.toNat * ns)

/-- A bucket has the tokens for n bytes. One with RATE 0 has none (R401). -/
def bucketHolds (d : Pad) (use : Fin 4 × Nat) : Bool :=
  use.2 = 0 || (d.p.buckets[use.1].rate != 0 && decide (use.2 ≤ d.buckets[use.1]))

/-- A paddock's tokens as they have come in. -/
def refillPad (ns : Nat) (d : Pad) : Pad := { d with buckets := Vector.ofFn fun i => bucketNow d i ns }

/-- The bytes taken from the buckets that count them. -/
def takeTokens (use : List (Fin 4 × Nat)) (d : Pad) : Pad :=
  use.foldl (fun d u => { d with buckets := d.buckets.set u.1 (d.buckets[u.1] - u.2) }) d

/-- A request draws its bytes from every bucket that counts it, from all of them or from none (R398, R399). The level at which it leaves its engine; none
where it waits there. What a stalled bucket counts is a free value (log 2). -/
def draw (pad : Nat) (use : List (Fin 4 × Nat)) (s : State) : State × Option Level :=
  match getPad s pad with
  | none => (s, some .funded)
  | some d =>
    let use := ((List.finRange 4).map fun i => (i, ((use.filter fun u => u.1 == i).map Prod.snd).sum)).filter fun u => u.2 != 0
    if use.isEmpty then (s, some (if d.p.lc then .critical else .funded))
    else
      let d := refillPad (Config.elapsedNs s.free).toNat d
      let s := useFree (setPad pad d s)
      if use.all (bucketHolds d) then (setPad pad (takeTokens use d) s, some (if d.p.lc then .critical else .funded))
      else if d.p.lc then (bumpPad pad 13 (Config.freeChoice s.free) s, none)
      else (bumpPad pad 14 (ceilDiv (use.foldl (fun n u => max n u.2) 0) 4096) s, some .unfunded)

/-- The most bytes that one grant covers: 4 KiB (R399), and in the class that waits for tokens no more than the buckets drawn on can hold (DESIGN CHOICE,
log 106). -/
def grantBytes (s : State) (pad : Nat) (buckets : List (Fin 4)) : Nat :=
  match getPad s pad with
  | none => 4096
  | some d => if d.p.lc then buckets.foldl (fun n i => min n (1024 * d.p.buckets[i].depth.toNat)) 4096 else 4096

/-- l is a higher level than k (R400). -/
def Level.over (l k : Level) : Bool :=
  match l, k with
  | .critical, .funded => true
  | .critical, .unfunded => true
  | .funded, .unfunded => true
  | _, _ => false

end Sys2Proof.Machine
end

