-- ==== Sys2Proof/Machine/Stacks.lean ====
section
/-! DEFINITION. Stack and Barn controllers: placement, ECC, poison, repair, stand-ins, refetches (R239, R306 to R326, R466, R467). -/

namespace Sys2Proof.Machine

/-! ## Placement (R239, R306, R319) -/

/-- k of R239: the stack of a half-local line within its half. -/
def stackOfLine (l : Nat) : Nat := ((l ^^^ (l / 8)) ^^^ ((l / 512) ^^^ (l / 32768))) % 8

/-- The logical slice of a line (R239). -/
def sliceOfLine (l : Nat) : Nat := ((l / 8) ^^^ ((l / 256) ^^^ (l / 8192))) % 32

/-- The set of a line (R239). -/
def setOfLine (l : Nat) : Nat := ((l / 256) ^^^ (l / 131072)) % 512

/-- The stack S0 to S15 of a half-local address. -/
def stackAt (half : Bool) (a : Nat) : Nat := 8 * b2n half + stackOfLine (a / 1024)

/-- The home die of a half-local address, 0 to 7 for E0 to W3. -/
def homeDie (half : Bool) (a : Nat) : Nat := 4 * b2n half + stackOfLine (a / 1024) / 2

/-- Pseudo-channel, bank and row of a half-local line (R306). -/
def rowOfLine (l : Nat) : Nat × Nat × Nat :=
  let m := l / 8
  let j := m / 64
  ((m ^^^ (j ^^^ (m / 4096))) % 64, (j ^^^ (j / 256)) % 64, j / 64)

/-- The half-local line of a row of stack k of its half. -/
def lineOfRow (k pc bank row : Nat) : Nat :=
  let j := 64 * row + ((bank ^^^ (row / 4 % 64)) % 64)
  let m := 64 * j + ((pc ^^^ (j % 64 ^^^ (row % 64))) % 64)
  8 * m + ((k ^^^ (m % 8 ^^^ (m / 64 % 8 ^^^ (m / 4096 % 8)))) % 8)

/-- The offset of a half-local Barn address within its channel (R319). -/
def barnOffset (b : Nat) : Nat := b / 32768 * 4096 + b % 4096

/-- The Barn channel of a half-local address (R319). -/
def barnChannel (half : Bool) (b : Nat) : Nat := 8 * b2n half + (((b / 4096) ^^^ ((b / 32768) ^^^ (b / 2097152))) % 8)

/-! ## Scopes of stand-ins (R323) -/

def hIdx (half : Bool) : Fin 2 := if half then 1 else 0

/-- A stand-in covers a row of its stack. -/
def StandIn.coversRow (x : StandIn) (stack pc row : Nat) : Bool :=
  x.stack.val == stack && (match x.pc with | none => true | some p => p.val == pc && (match x.span with | none => true | some t => t == row / 16))

/-- A stand-in covers a half-local Stack line. -/
def StandIn.coversLine (x : StandIn) (half : Bool) (l : Nat) : Bool :=
  let r := rowOfLine l
  x.coversRow (stackAt half (1024 * l)) r.1 r.2.2

/-- The line is performed against the reserve: a stand-in in force covers it (R325). -/
def covered (s : State) (half : Bool) (l : Nat) : Bool := s.stk.standing.any fun x => x.coversLine half l

/-- A stand-in is in force in a half. -/
def standsIn (s : State) (half : Bool) : Bool := s.stk.standing.any fun x => decide (8 ≤ x.stack.val) == half

/-! ## Poison (R309) -/

/-- A 64 B of the Stack lies in a failed scope, and nothing has made it good since (R324, R326). -/
def lostUnit (s : State) (half : Bool) (u : Nat) : Bool :=
  (s.stk.lost.any fun x => x.coversLine half (u / 16)) && !s.mem.cured.contains (half, u)

/-- A 64 B is poisoned: its half, whether in the Barn, and its address ÷ 64. -/
def poisoned (s : State) (half barn : Bool) (u : Nat) : Bool := s.mem.poison.contains (half, barn, u) || (!barn && lostUnit s half u)

/-- A 64 B of a failed scope counts as made good from now on. -/
def cureUnit (half : Bool) (u : Nat) (s : State) : State :=
  if s.stk.lost.isEmpty || s.mem.cured.contains (half, u) then s else { s with mem := { s.mem with cured := (half, u) :: s.mem.cured } }

def setPoison (half barn : Bool) (u : Nat) (on : Bool) (s : State) : State :=
  if on == poisoned s half barn u then s
  else if on then { s with mem := { s.mem with poison := (half, barn, u) :: s.mem.poison } }
  else
    let s := { s with mem := { s.mem with poison := s.mem.poison.filter fun x => x != (half, barn, u) } }
    if barn then s else cureUnit half u s

/-- The poison of a range of whole or part 64 B set or cleared. -/
def setPoisonRange (half barn : Bool) (a n : Nat) (on : Bool) (s : State) : State :=
  (List.range (ceilDiv (a % 64 + n) 64)).foldl (fun t i => setPoison half barn (a / 64 + i) on t) s

/-- The poisoned 64 B of a range of whole 64 B, by their places in it. -/
def poisonIn (s : State) (half barn : Bool) (a n : Nat) : List Nat :=
  if barn || s.stk.lost.isEmpty then
    (s.mem.poison.filter fun x => x.1 == half && x.2.1 == barn && decide (a / 64 ≤ x.2.2 ∧ x.2.2 < a / 64 + n / 64)).map fun x => x.2.2 - a / 64
  else (List.range (n / 64)).filter fun i => poisoned s half barn (a / 64 + i)

/-! ## Bytes of the Stack and the Barn -/

/-- The bytes of a half of the Stack: of lines that a stand-in serves, those that the reserve holds (R325). -/
def stackMem (s : State) (half : Bool) : Mem :=
  let raw := s.mem.stack[hIdx half]
  if standsIn s half then s.mem.reserve[hIdx half].foldl (fun m c => mwrite m c.1 c.2) (raw.filter fun c => !covered s half (c.1 / 1024)) else raw

def setStackMem (half : Bool) (m : Mem) (s : State) : State :=
  if standsIn s half then
    { s with mem := { s.mem with stack := s.mem.stack.set (hIdx half) (m.filter fun c => !covered s half (c.1 / 1024)),
                                 reserve := s.mem.reserve.set (hIdx half) (m.filter fun c => covered s half (c.1 / 1024)) } }
  else { s with mem := { s.mem with stack := s.mem.stack.set (hIdx half) m } }

def barnMem (s : State) (half : Bool) : Mem := s.mem.barn[hIdx half]

def setBarnMem (half : Bool) (m : Mem) (s : State) : State := { s with mem := { s.mem with barn := s.mem.barn.set (hIdx half) m } }

/-- n bytes copied from sa of a memory to da of another; what lay at da goes. -/
def mcopy (src : Mem) (sa : Nat) (dst : Mem) (da n : Nat) : Mem :=
  (src.filter fun c => sa ≤ c.1 && c.1 < sa + n).foldl (fun m c => mwrite m (c.1 - sa + da) c.2) (mzero dst da n)

/-- Byte a of the Stack, where a generation keeps it in the Barn (R320). -/
def genAddr (g a : Nat) : Nat := 824633720832 * g + a

/-! ## Stand-ins (R323 to R326) -/

/-- Reserve of a stand-in in MiB. -/
def StandIn.mib (x : StandIn) : Nat := match x.pc with | none => 98304 | some _ => match x.span with | none => 1536 | some _ => 1

/-- The scope of x lies inside that of y. -/
def StandIn.inside (x y : StandIn) : Bool :=
  x.stack == y.stack && (match y.pc with | none => true | some p => x.pc == some p && (match y.span with | none => true | some t => x.span == some t))

/-- Reserve in use in a half, in MiB. -/
def reserveUsed (s : State) (half : Bool) : Nat :=
  ((s.stk.standing ++ s.stk.installing).filter fun x => decide (8 ≤ x.stack.val) == half).foldl (fun a x => a + x.mib) 0

/-- STANDIN of BARN_RSV in MiB. -/
def reserveMib (s : State) (half : Bool) : Nat := 1024 * (s.stk.standinCur[hIdx half]).toNat

/-- The address lies in lines whose stand-in is being installed, on which accesses are held (R324). -/
def installingAt (s : State) (half : Bool) (a : Nat) : Bool := s.stk.installing.any fun x => x.coversLine half (a / 1024)

/-- A stand-in that is being installed covers some line of a granule: each granule has a row of every bank it touches, one of 16 (R306, R324). -/
def installingIn (s : State) (half : Bool) (g : Nat) : Bool :=
  s.stk.installing.any fun x => decide (8 ≤ x.stack.val) == half && (match x.span with | none => true | some t => t == g / 256)

/-- A stack of the half is held for the test chain (R314). Every granule of the half has lines in it (R306). -/
def stackHeldIn (s : State) (half : Bool) : Bool := (List.range 8).any fun k => s.stk.hold.getLsbD (8 * b2n half + k)

/-- Work of the Yardmaster on a granule waits (R314, R324). -/
def granWaits (s : State) (half : Bool) (g : Nat) : Bool := stackHeldIn s half || installingIn s half g

/-- The granule waits for zeroing, and accesses wait with it (R498, R545). -/
def zeroing (s : State) (barn half : Bool) (g : Nat) : Bool :=
  s.mem.tozero.any fun z => z.barn == barn && z.half == half && decide (z.first ≤ g ∧ g < z.first + z.len)

def getStk (s : State) (k : Fin 16) : Stack := s.stk.stk[k]

def setStk (k : Fin 16) (x : Stack) (s : State) : State := { s with stk := { s.stk with stk := s.stk.stk.set k x } }

/-- A MEM entry of a stack controller. -/
def stackErr (code : Byte) (sev : BitVec 2) (ack : Bool) (pad : Byte) (k : Fin 16) (addr : Nat) (bits : Nat) : Err :=
  memErr code sev ack pad 0x03 k.val addr 0 (k.val / 8) bits 0 0xFFFFFFFF

/-- The paddock that owns the granule of an address, or 0xFF. -/
def ownerPad (s : State) (barn half : Bool) (a : Nat) : Byte :=
  match granRun s barn half (a / granBytes) with
  | some r => BitVec.ofNat 8 (r.ctx.toNat / 1024)
  | none => 0xFF

/-- A stand-in begins where the half's reserve has room; else it is counted and reported (R323, R326). -/
def startStandIn (x : StandIn) (s : State) : State :=
  let half := decide (8 ≤ x.stack.val)
  if (s.stk.standing ++ s.stk.installing).any fun y => x.inside y then s
  else
    let freed := (s.stk.standing.filter fun y => y.inside x).foldl (fun a y => a + y.mib) 0
    if reserveUsed s half - freed + x.mib ≤ reserveMib s half then
      raiseErr (stackErr 0x07 2 false 0xFF x.stack 0 0) { s with stk := { s.stk with installing := s.stk.installing ++ [x] } }
    else
      report (stackErr 0x08 2 true 0xFF x.stack 0 0) (bump (1080 + x.stack.val) 1 s)

/-- The scope that takes over once enough smaller ones stand in (R323): 64 spans of a pseudo-channel, 8 pseudo-channels of a stack. -/
def widen (x : StandIn) (s : State) : State :=
  match x.pc, x.span with
  | some p, some _ =>
    if (s.stk.standing.filter fun y => y.stack == x.stack && y.pc == some p && y.span.isSome).length ≥ 64 then
      startStandIn { x with span := none, failed := false } s
    else s
  | some _, none =>
    if (s.stk.standing.filter fun y => y.stack == x.stack && y.pc.isSome && y.span == none).length ≥ 8 then
      startStandIn { x with pc := none, span := none, failed := false } s
    else s
  | none, _ => s

/-- The requested repair or stand-in of STK_REPAIR_REQ is over once no stand-in is being installed over its row (R327). -/
def settleReq (s : State) : State :=
  let r := s.stk.reqScope
  { s with stk := { s.stk with reqBusy := s.stk.reqBusy && s.stk.installing.any fun y => y.coversRow r.1 r.2.1 r.2.2 } }

/-- The stand-in's table switches: the covered lines' bytes lie in the reserve, its scope is in force and the smaller scopes inside it go (R323, R324). -/
def finishStandIn (x : StandIn) (s : State) : State :=
  let half := decide (8 ≤ x.stack.val)
  let m := stackMem s half
  let s := settleReq (setStackMem half m
    { s with stk := { s.stk with installing := s.stk.installing.filter fun y => y != x,
                                 standing := s.stk.standing.filter (fun y => !y.inside x) ++ [x] } })
  let k := getStk s x.stack
  let width : BitVec 2 := match x.pc with | none => 3 | some _ => match x.span with | none => 2 | some _ => 1
  let bit (lo : Nat) (v : W32) : W32 := match x.pc with
    | some p => if x.span == none && lo ≤ p.val && p.val < lo + 32 then v ||| BitVec.ofNat 32 (2 ^ (p.val - lo)) else v
    | none => BitVec.ofNat 32 0xFFFFFFFF
  let s := setStk x.stack { k with standin := if k.standin < width then width else k.standin, pcLo := bit 0 k.pcLo, pcHi := bit 32 k.pcHi } s
  widen x (handled 0x03 x.stack.val s)

/-- A scope is lost: no reserve takes it, and all of it is poisoned until something makes a 64 B good again (R309, R326). -/
def loseScope (x : StandIn) (s : State) : State :=
  { s with stk := { s.stk with lost := s.stk.lost.filter (fun y => !y.inside x) ++ [x] },
           mem := { s.mem with cured := s.mem.cured.filter fun u => !x.coversLine u.1 (u.2 / 16) } }

/-- A pseudo-channel or a stack fails (R323, R324, R326): its stand-in begins where the reserve has room; else its lines are lost. -/
def failScope (x : StandIn) (s : State) : State :=
  if (s.stk.standing ++ s.stk.installing).any fun y => x.inside y then s
  else
    let s := startStandIn x s
    if s.stk.installing.contains x then s
    else
      let s := loseScope x s
      if x.pc.isSome then s else setStk x.stack { getStk s x.stack with present := false } s

/-! ## Row repair (R311, R312) -/

def rowRec (k : Stack) (pc bank row : Nat) : RowRec :=
  match k.rows.find? fun r => r.pc == pc && r.bank == bank && r.row == row with
  | some r => r
  | none => { pc := pc, bank := bank, row := row, errs := 0, told := false }

def putRow (k : Stack) (r : RowRec) : Stack :=
  { k with rows := r :: k.rows.filter fun x => !(x.pc == r.pc && x.bank == r.bank && x.row == r.row) }

/-- Spare rows left in a bank: one where none has been used (DESIGN CHOICE, log 13). -/
def spareRows (k : Stack) (pc bank : Nat) : Nat := tget k.spares (64 * pc + bank) 1

/-- What a read of one 64 B with correction counts (R308, R309): its stack's CORR or UNCORR; what cannot be corrected is written as poison. -/
def repairRead (k : Fin 16) (half : Bool) (u : Nat) (found : EccResult) (s : State) : State :=
  let x := getStk s k
  match found with
  | .clean => s
  | .corrected => setStk k { x with corr := BitVec.ofNat 16 (satAdd 16 x.corr.toNat 1) } s
  | .uncorrectable => setPoison half false u true (setStk k { x with uncorr := BitVec.ofNat 16 (satAdd 16 x.uncorr.toNat 1) } s)

/-- The read of a row's 1 KiB that a soft repair makes (R312). What it finds in each 64 B is free. -/
def repairReads (k : Fin 16) (l : Nat) (s : State) : State :=
  let n := s.free
  { (List.range 16).foldl (fun t i => repairRead k (decide (8 ≤ k.val)) (16 * l + i) (Config.freeEcc (n + i)) t) s with free := n + 16 }

/-- A row becomes a repair candidate: a soft repair while its bank has a free spare row, else its span stands in (R311, R312, R323). -/
def candidate (k : Fin 16) (pc : Fin 64) (bank row : Nat) (s : State) : State :=
  if s.stk.hold.getLsbD k.val then s
  else if (s.stk.standing ++ s.stk.installing).any fun y => y.coversRow k.val pc.val row then s
  else
    let n := spareRows (getStk s k) pc.val bank
    if n = 0 then startStandIn { stack := k, pc := some pc, span := some (row / 16), failed := false } s
    else
      let l := lineOfRow (k.val % 8) pc.val bank row
      let s := repairReads k l s
      let x := getStk s k
      let x := { x with spares := tput x.spares (64 * pc.val + bank) (n - 1), soft := BitVec.ofNat 16 (satAdd 16 x.soft.toNat 1),
                        dry := if n = 1 then x.dry + 1 else x.dry, repairs := x.repairs ++ [(pc.val, bank, row)],
                        rows := x.rows.filter fun r => !(r.pc == pc.val && r.bank == bank && r.row == row) }
      report (stackErr 0x05 1 false 0xFF k (1024 * l) 0) (setStk k x s)

/-- A Stack line's row becomes a candidate. -/
def lineCandidate (half : Bool) (l : Nat) (s : State) : State :=
  let r := rowOfLine l
  candidate (Fin.ofNat 16 (stackAt half (1024 * l))) (Fin.ofNat 64 r.1) r.2.1 r.2.2 s

/-- Poison is written to a 64 B of the Stack, whose row, if it did not hold it before, is a candidate (R309, R311; DEDUCED, log 107). -/
def poisonUnit (half : Bool) (u : Nat) (s : State) : State :=
  if poisoned s half false u then s else lineCandidate half (u / 16) (setPoison half false u true s)

/-- Poison of n bytes carried with a copy of whole 64 B (R465): what lay at the destination goes. -/
def copyPoison (half : Bool) (sBarn : Bool) (sa : Nat) (dBarn : Bool) (da n : Nat) (s : State) : State :=
  let src := poisonIn s half sBarn sa n
  let s := ((poisonIn s half dBarn da n).filter fun i => !src.contains i).foldl (fun t i => setPoison half dBarn (da / 64 + i) false t) s
  src.foldl (fun t i => if dBarn then setPoison half true (da / 64 + i) true t else poisonUnit half (da / 64 + i) t) s

/-! ## The copies that a refetch uses (R466, R467) -/

/-- The extent of a paddock that maps a Stack granule and is no share entry, with its tag. -/
def extentOfGran (s : State) (half : Bool) (g : Nat) : Option (Nat × Extent) :=
  match granRun s false half g with
  | none => none
  | some r =>
    let tag := r.ctx.toNat % 1024
    match (getSpace s tag).table.find? fun e => !e.barn && e.share.isNone && e.half == half && e.pbase ≤ g && g < e.pbase + e.len with
    | some e => some (tag, e)
    | none => none

/-- The generation in force, if one is (R475). -/
def currentGen (s : State) : Option (Fin 2) :=
  if s.snaps.gens[0].current then some 0 else if s.snaps.gens[1].current then some 1 else none

def dirtyKey (half : Bool) (g : Nat) : Nat := 524288 * b2n half + g

/-- Dirty bit D of a granule for a generation (R474). -/
def dirtyFor (s : State) (half : Bool) (g : Nat) (gen : Fin 2) : Bool := (tget s.mem.dirty (dirtyKey half g) 0).getLsbD gen.val

/-- The second copy of a Stack granule (R466): the half and the Barn address it starts at, and whether it is a generation's. -/
def secondCopy (s : State) (half : Bool) (g : Nat) : Option (Bool × Nat × Bool) :=
  match extentOfGran s half g with
  | none => none
  | some (tag, e) =>
    if e.backed then
      match (getSpace s tag).table.find? fun b => b.index == e.bkidx with
      | some b => if b.barn then some (b.half, granBytes * (b.pbase + (g - e.pbase)), false) else none
      | none => none
    else match currentGen s with
      | some gen =>
        if (s.snaps.gens[gen]).grans.any (fun m => m.half == half && m.gran == g) && !dirtyFor s half g gen then
          some (half, genAddr gen.val (granBytes * g), true)
        else none
      | none => none

/-! ## The copy of a stand-in (R324) -/

/-- A line of a failed scope takes its second copy, with the poison of that copy. -/
def fetchLine (half : Bool) (l : Nat) (s : State) : State :=
  let g := l / 2048
  match secondCopy s half g with
  | some (h2, base, _) =>
    let src := base + 1024 * (l - 2048 * g)
    copyPoison half true src false (1024 * l) 1024 (setStackMem half (mcopy (barnMem s h2) src (stackMem s half) (1024 * l) 1024) s)
  | none => s

/-- The mapped lines that a scope covers. -/
def coveredLines (s : State) (x : StandIn) : List Nat :=
  let half := decide (8 ≤ x.stack.val)
  (s.xlt.granules.filter fun r => !r.barn && r.half == half).flatMap fun r =>
    ((List.range (2048 * r.len)).map (2048 * r.first + ·)).filter fun l => x.coversLine half l

/-- What the copy of one 64 B finds: it is copied with correction, or as poison. -/
def copyFinds (x : StandIn) (u : Nat) (found : EccResult) (s : State) : State :=
  let half := decide (8 ≤ x.stack.val)
  if x.coversLine half (u / 16) then repairRead x.stack half u found s else s

/-- A stand-in's copy ends. Behind a failed interface the lines come from their second copies, and those that have none are poisoned. -/
def completeStandIn (x : StandIn) (found : List (Nat × EccResult)) (s : State) : State :=
  let s := if x.failed then
      let s := loseScope x s
      (coveredLines s x).foldl (fun t l => fetchLine (decide (8 ≤ x.stack.val)) l t) s
    else found.foldl (fun t u => copyFinds x u.1 u.2 t) s
  finishStandIn x s

/-! ## ECC findings (R308, R309) -/

/-- What a read of one 64 B of a stack finds: counts, entries, poison, and the row as a candidate. What has a second copy is refetched instead of reported
(R466). Of a line that a stand-in serves the stack's copy is no one's data: its errors are only counted (R325). -/
def stackEcc (half : Bool) (a : Nat) (found : EccResult) (s : State) : State :=
  let k : Fin 16 := Fin.ofNat 16 (stackAt half a)
  let r := rowOfLine (a / 1024)
  let x := getStk s k
  let rr := rowRec x r.1 r.2.1 r.2.2
  match found with
  | .clean => s
  | .corrected =>
    let s := setStk k (putRow { x with corr := BitVec.ofNat 16 (satAdd 16 x.corr.toNat 1) } { rr with errs := rr.errs + 1, told := true }) s
    let s := if rr.told then s else report (stackErr 0x01 1 false (ownerPad s false half a) k a 0) s
    if rr.errs + 1 ≥ s.stk.rowthr.toNat then lineCandidate half (a / 1024) s else s
  | .uncorrectable =>
    let s := setStk k { x with uncorr := BitVec.ofNat 16 (satAdd 16 x.uncorr.toNat 1) } s
    if covered s half (a / 1024) then s
    else
      let s := lineCandidate half (a / 1024) (setPoison half false (a / 64) true s)
      if (secondCopy s half (a / granBytes)).isSome then s else report (stackErr 0x03 2 false (ownerPad s false half a) k a 0) s

/-- What a read of one 64 B of a Barn channel finds (R308, R309, R318): row and unit name the row and the 64 B within the channel, psn poisons it. A row of
the Barn is 4 KiB of a channel, and no pass of a scrubber ends there (DESIGN CHOICE, log 108). -/
def channelEcc (c : Fin 16) (row unit addr half : Nat) (pad : Byte) (psn : State → State) (found : EccResult) (s : State) : State :=
  let x := s.stk.barn[c]
  let put (y : Barn) (t : State) : State := { t with stk := { t.stk with barn := t.stk.barn.set c y } }
  let err (code : Byte) (sev : BitVec 2) (ack : Bool) : Err := memErr code sev ack pad 0x04 c.val addr 1 half 0 0 0xFFFFFFFF
  match found with
  | .clean => s
  | .corrected =>
    let told := x.told.contains row
    let s := put { x with corr := BitVec.ofNat 16 (satAdd 16 x.corr.toNat 1), told := if told then x.told else row :: x.told } s
    if told then s else report (err 0x01 1 false) s
  | .uncorrectable =>
    let bad := if x.bad.contains unit then x.bad else unit :: x.bad
    let full := decide (bad.length > 1024)
    let s := put { x with uncorr := BitVec.ofNat 16 (satAdd 16 x.uncorr.toNat 1), bad := bad, usedup := x.usedup || full } s
    let s := report (err 0x03 2 false) (psn s)
    if full && !x.usedup then report (err 0x09 2 true) s else s

/-- What a read of one 64 B of the Barn finds, at its channel and its place there (R319). -/
def barnEcc (half : Bool) (a : Nat) (found : EccResult) (s : State) : State :=
  channelEcc (Fin.ofNat 16 (barnChannel half a)) (barnOffset a / 4096) (barnOffset a / 64) a (b2n half) (ownerPad s true half a)
    (setPoison half true (a / 64) true) found s

/-- What a read of a Stack line that a stand-in serves finds in the reserve (R325). The channel that holds it is free (DESIGN CHOICE, log 109). -/
def reserveEcc (half : Bool) (a : Nat) (found : EccResult) (s : State) : State :=
  channelEcc (Fin.ofNat 16 (8 * b2n half + Config.freeChoice s.free % 8)) (2 ^ 40 + a / 4096) (2 ^ 40 + a / 64) a (b2n half) (ownerPad s false half a)
    (setPoison half false (a / 64) true) found (useFree s)

/-- What a read of one 64 B finds where its line is performed (R308, R309, R325). -/
def homeEcc (half : Bool) (a : Nat) (found : EccResult) (s : State) : State :=
  if covered s half (a / 1024) then reserveEcc half a found s else stackEcc half a found s

/-- A granule is being refetched, and accesses to it are held (R467). -/
def refetching (s : State) (half : Bool) (g : Nat) : Bool := s.stk.refetch.any fun r => r.1 == half && r.2.1 == g

/-- A refetch begins (R467). lostw: writes since the last write-back of a poisoned dirty sector go (R468). -/
def startRefetch (half : Bool) (g : Nat) (lostw : Bool) (s : State) : State :=
  if refetching s half g then s
  else
    let gen := match secondCopy s half g with | some c => c.2.2 | none => false
    { s with stk := { s.stk with refetch := s.stk.refetch ++ [(half, g, lostw, gen)] } }

end Sys2Proof.Machine
end

