-- ==== Sys2Proof/Machine/Teams.lean ====
section
/-! DEFINITION. Groups of a team and their ring (R81 to R87), threads and their registers (R75). -/

namespace Sys2Proof.Machine

/-! ## Blocks and teams by place -/

def getBlock (s : State) (core slot : Nat) : Option Block := tfind (getCore s core).blocks slot

def setBlock (core slot : Nat) (b : Block) (s : State) : State :=
  let c := getCore s core
  setCore core { c with blocks := tput c.blocks slot b } s

def modBlock (core slot : Nat) (f : Block → Block) (s : State) : State :=
  match getBlock s core slot with
  | some b => setBlock core slot (f b) s
  | none => s

def getTeam (s : State) (core slot team : Nat) : Option Team :=
  match getBlock s core slot with
  | some b => tfind b.teams team
  | none => none

def modTeam (core slot team : Nat) (f : Team → Team) (s : State) : State :=
  modBlock core slot (fun b => match tfind b.teams team with
    | some t => { b with teams := tput b.teams team (f t) }
    | none => b) s

/-! ## The ring -/

def TGroup.held (g : TGroup) : Bool := g.wait.isSome

def TGroup.lanes (g : TGroup) : List Nat := bitList 32 g.mask.toNat

def laneMask (lanes : List Nat) : W32 := BitVec.ofNat 32 (lanes.foldl (fun m l => m ||| 2 ^ l) 0)

/-- Two groups at one PC, neither held, merge (R83). cur says that the head is the current group: it stays current, with its count, at the place of the
older of the two. -/
def mergeOnce (cur : Bool) (ring : List TGroup) : Option (List TGroup) :=
  match ring with
  | [] => none
  | g :: r =>
    match (if g.held then none else r.find? fun h => !h.held && h.pc == g.pc) with
    | some h =>
      if g.born ≤ h.born then some ({ g with mask := g.mask ||| h.mask } :: r.filter fun x => x.born != h.born)
      else if cur then
        let before := r.takeWhile fun x => x.born != h.born
        let after := (r.dropWhile fun x => x.born != h.born).drop 1
        some ({ h with mask := g.mask ||| h.mask, left := g.left } :: (after ++ before))
      else some (r.map fun x => if x.born == h.born then { h with mask := g.mask ||| h.mask } else x)
    | none => (mergeOnce false r).map fun r => g :: r

/-- All merges that are due. -/
def mergeRing (fuel : Nat) (ring : List TGroup) : List TGroup :=
  match fuel with
  | 0 => ring
  | k + 1 => match mergeOnce true ring with
    | some r => mergeRing k r
    | none => ring

def Team.merged (t : Team) : Team := { t with ring := mergeRing t.ring.length t.ring }

/-- The ring turned to its first group that is ready, which then has its 16 instructions before it if it was not current (R84). -/
def turnReady (ring : List TGroup) : List TGroup :=
  match ring with
  | [] => []
  | g :: r =>
    if !g.held then ring
    else
      let before := ring.takeWhile TGroup.held
      match ring.dropWhile TGroup.held with
      | [] => g :: r
      | h :: after => { h with left := 16 } :: (after ++ before)

/-- The scheduler moves on from the current group to the next ready one (R84). -/
def turnNext (ring : List TGroup) : List TGroup :=
  match ring with
  | [] => []
  | g :: r =>
    match turnReady (r ++ [g]) with
    | [] => []
    | h :: r' => { h with left := 16 } :: r'

/-- The team waits whole, as a path.send waits for its credit (R182) and an access for its tokens or at its slice (R399, R268). -/
def Team.waits (t : Team) : Bool := t.ring.any fun g => match g.wait with | some (.send ..) => true | some (.access _) => true | _ => false

/-- A group's wait ends: it merges at once with a group at its PC (R83). -/
def Team.release (born : Nat) (t : Team) : Team :=
  { t with ring := mapWhere (fun g => g.born == born) (fun g => { g with wait := none }) t.ring }.merged

/-- Every group whose wait a predicate names is released. -/
def Team.releaseAll (p : TGroup → Bool) (t : Team) : Team :=
  { t with ring := mapWhere p (fun g => { g with wait := none }) t.ring }.merged

/-- The current group changed by f. -/
def Team.modHead (f : TGroup → TGroup) (t : Team) : Team :=
  match t.ring with
  | [] => t
  | g :: r => { t with ring := f g :: r }

/-- Threads of the current group that take branches to some PCs, by lane; the rest keeps the group's place and the rest of its count, and the branching
threads form new groups directly behind it (R84), by PC in the order of their lowest lanes. -/
def Team.branch (taken : List (Nat × W64)) (t : Team) : Team :=
  match t.ring with
  | [] => t
  | g :: r =>
    let pcs := (taken.map Prod.snd).foldl (fun l p => if l.contains p then l else l ++ [p]) []
    let rest := g.lanes.filter fun l => !taken.any fun x => x.1 == l
    let mask (p : W64) : W32 := laneMask ((taken.filter fun x => x.2 == p).map Prod.fst)
    match rest, pcs with
    | [], p :: ps =>
      let news := ps.zipIdx.map fun x => { mask := mask x.1, pc := x.1, wait := none, left := 16, born := t.born + x.2 : TGroup }
      { t with ring := { g with mask := mask p, pc := p } :: (news ++ r), born := t.born + ps.length }
    | _, ps =>
      let news := ps.zipIdx.map fun x => { mask := mask x.1, pc := x.1, wait := none, left := 16, born := t.born + x.2 : TGroup }
      { t with ring := { g with mask := laneMask rest } :: (news ++ r), born := t.born + ps.length }

/-! ## Registers -/

def thread (t : Team) (lane : Nat) : Thread := tget t.threads lane Thread.reset

/-- A register table with register r at v; zero is not listed. -/
def rput (regs : Tbl W32) (r : Nat) (v : W32) : Tbl W32 := if v = 0 then tdel regs r else tput regs r v

/-- General register r of a thread; g255 reads as zero (R75). -/
def readG (t : Team) (lane r : Nat) : W32 := if r = 255 then 0 else tget (thread t lane).regs r 0

/-- A write to g255 is discarded (R75). -/
def writeG (lane r : Nat) (v : W32) (t : Team) : Team :=
  if r = 255 then t
  else
    let x := thread t lane
    { t with threads := tput t.threads lane { x with regs := rput x.regs r v } }

def readU (t : Team) (r : Nat) : W32 := tget t.uregs r 0

def writeU (r : Nat) (v : W32) (t : Team) : Team := { t with uregs := rput t.uregs r v }

/-- Predicate p of a thread; p7 reads as true (R75). -/
def readP (t : Team) (lane p : Nat) : Bool := p == 7 || (thread t lane).preds.getLsbD p

/-- A write to p7 is discarded (R75). -/
def writeP (lane p : Nat) (v : Bool) (t : Team) : Team :=
  if p = 7 then t
  else
    let x := thread t lane
    let bit := BitVec.ofNat 7 (2 ^ p)
    { t with threads := tput t.threads lane { x with preds := if v then x.preds ||| bit else x.preds &&& ~~~bit } }

/-- Flags are only ever set by an event (R56). -/
def addFlags (f : Flags) (t : Team) : Team :=
  { t with flags := { nv := t.flags.nv || f.nv, of := t.flags.of || f.of, uf := t.flags.uf || f.uf } }

/-- The caches of a core dropped by inval.const and inval.desc; fills in flight are not kept (R253). -/
def invalCaches (core : Nat) (const desc : Bool) (s : State) : State :=
  let c := getCore s core
  let s := setCore core { c with constant := if const then [] else c.constant, desc := if desc then [] else c.desc } s
  if const then { s with accs := mapWhere (fun a => a.core == core && a.ro) (fun a => { a with nokeep := true }) s.accs } else s

end Sys2Proof.Machine
end

