-- ==== Sys2Proof/Machine/Loft.lean ====
section
/-! DEFINITION. The Loft (R236 to R275): frames, classes, directory, dead lines, add-to-line, pins and spills, slice sparing. -/

namespace Sys2Proof.Machine

/-! ## Frames of a set -/

/-- The key of a line in the tables of the Loft. -/
def lineKey (half : Bool) (l : Nat) : Nat := 1073741824 * b2n half + l

def keyHalf (k : Nat) : Bool := decide (1073741824 ≤ k)

def keyLine (k : Nat) : Nat := k % 1073741824

/-- Two lines share a home slice and set (R239, R240). -/
def sameSet (k j : Nat) : Bool :=
  keyHalf k == keyHalf j && stackOfLine (keyLine k) / 2 == stackOfLine (keyLine j) / 2 && sliceOfLine (keyLine k) == sliceOfLine (keyLine j) &&
  setOfLine (keyLine k) == setOfLine (keyLine j)

/-- A paddock's cache units in a half, ascending (R238). -/
def cacheUnits (s : State) (pad : Nat) (half : Bool) : List Nat :=
  match getPad s pad with
  | some d => (unitList d.cache).filter fun u => u / 16 == b2n half
  | none => []

/-- Class of an access's hint in an extent (R246). -/
def classOf (hint : BitVec 2) (e : Extent) : LineClass :=
  let h := if hint = 0 then e.hint else hint
  if h = 1 then .keep else if h = 3 then .evictFirst else .normal

/-- How an access uses the Loft: the paddock whose context it carries, the class of its hint, `.last` (a miss allocates nothing; the lines are dropped
afterwards by dropLast), the core whose L1 fills, and the team whose own access it is: the flags of a line that it closes are that team's (R74; no team's where
another engine closes the line: DEDUCED, log 111). -/
structure Use where
  pad  : Nat
  cls  : LineClass
  last : Bool
  core : Option (Fin 1024)
  team : Option (Nat × Nat × Nat)
  deriving DecidableEq, Repr


def setFrames (fs : Tbl Frame) (s : State) : State := { s with loft := { s.loft with frames := fs } }

def setOpenLines (t : Tbl OpenLine) (s : State) : State := { s with loft := { s.loft with openLines := t } }

/-- Open lines of a paddock that hold pins in the set of a line (R265). -/
def pinnedIn (s : State) (pad key : Nat) : List (Nat × OpenLine) :=
  s.loft.openLines.filter fun e => e.2.pad == pad && sameSet e.1 key &&
    (match e.2.place with | .pinned => true | .spilling _ => true | .slot _ => false)

/-- The pin limit of R265. -/
def pinLimit (w : Nat) : Nat := (w - 1) / 6

/-! ## Eviction and allocation (R244, R245) -/

/-- One dirty sector written back to the Stack. -/
def writeBackSector (key : Nat) (f : Frame) (j : Nat) (s : State) : State :=
  if f.dirty.getLsbD j then
    let half := keyHalf key
    let a := 1024 * keyLine key + 256 * j
    let s := setStackMem half (mcopy f.data (256 * j) (stackMem s half) a 256) s
    [0, 1, 2, 3].foldl (fun t i =>
      if f.poison.contains (4 * j + i) then poisonUnit half (a / 64 + i) t else setPoison half false (a / 64 + i) false t) s
  else s

def writeBack (key : Nat) (f : Frame) (s : State) : State := [0, 1, 2, 3].foldl (fun t j => writeBackSector key f j t) s

/-! ## L1 copies (R247 to R251) -/

/-- A directory entry names a core (R249, R250). -/
def Dir.names (d : Dir) (core : Nat) : Bool :=
  match d with
  | .pointers cs => cs.any fun c => c.val == core
  | .coarse q => q.getLsbD (core / 32)

/-- The entry after its copies have been invalidated: pointer mode returns only with a refill (R250). -/
def Dir.cleared (d : Dir) : Dir :=
  match d with
  | .pointers _ => .pointers []
  | .coarse _ => .coarse 0

/-- Every L1 copy of a frame's four sectors is invalidated in the cores that its directory entry names (R247, R248). -/
def invalL1 (commons : Bool) (first : Nat) (d : Dir) (s : State) : State :=
  { s with cores := s.cores.map fun e =>
      if d.names e.1 then
        (e.1, { e.2 with l1 := e.2.l1.filter fun x => !(x.commons == commons && decide (first ≤ x.sector ∧ x.sector < first + 4)) })
      else e }

/-- Local store of a core under SPLIT, in units of 4 KiB (R77). -/
def splitLocal (w : W32) : Nat := match bitsOf w.toNat 1 0 with | 0 => 120 | 1 => 112 | 2 => 96 | _ => 64

/-- The sectors that a core's L1 holds under the SPLIT of its resident blocks (R75, R77; with none, of SPLIT 0: log 110). -/
def l1Cap (c : Core) : Nat :=
  match c.blocks with
  | [] => 128
  | (_, b) :: _ => 16 * (128 - splitLocal b.shape)

/-- A sector filled into an L1: the sector filled longest ago goes where there is no room (R251; the order is a DESIGN CHOICE, log 110). -/
def fillL1 (core : Nat) (x : L1Sector) (s : State) : State :=
  let c := getCore s core
  setCore core { c with l1 := (x :: c.l1.filter fun y => !(y.commons == x.commons && y.sector == x.sector)).take (l1Cap c) } s

/-- The sector of a core's L1 that holds a place, if one does. -/
def findL1 (s : State) (core : Nat) (commons : Bool) (sector : Nat) : Option L1Sector :=
  (getCore s core).l1.find? fun x => x.commons == commons && x.sector == sector

/-- A frame leaves the Loft, its L1 copies first (R247). -/
def dropFrame (key : Nat) (s : State) : State :=
  match tfind s.loft.frames key with
  | some f => setFrames (tdel s.loft.frames key) (invalL1 false (4 * key) f.dir s)
  | none => s

def evictFrame (key : Nat) (s : State) : State :=
  match tfind s.loft.frames key with
  | some f => dropFrame key (writeBack key f s)
  | none => s

/-- The oldest of some frames. -/
def oldest (l : List (Nat × Frame)) : Option Nat :=
  (l.foldl (fun (b : Option (Nat × Nat)) e => match b with
    | some (k, g) => if e.2.age < g then some (e.1, e.2.age) else some (k, g)
    | none => some (e.1, e.2.age)) none).map Prod.fst

/-- The victim among a paddock's frames of a set (R245). -/
def victim (l : List (Nat × Frame)) : Option Nat :=
  match oldest (l.filter fun e => e.2.cls == .evictFirst) with
  | some k => some k
  | none => match oldest (l.filter fun e => e.2.cls == .normal) with
    | some k => some k
    | none => oldest (l.filter fun e => e.2.cls == .keep)

/-- The paddock's frames of a set. -/
def framesIn (s : State) (units : List Nat) (key : Nat) : List (Nat × Frame) :=
  s.loft.frames.filter fun e => sameSet e.1 key && units.contains e.2.unit

/-- A frame of the paddock in the set of a line made free: its unit, or none where the access goes on without allocation (R243, R245). -/
def freeFrame (pad key : Nat) (s : State) : State × Option Nat :=
  let units := cacheUnits s pad (keyHalf key)
  let mine := framesIn s units key
  if mine.length + 6 * (pinnedIn s pad key).length < units.length then
    (s, units.find? fun u => !mine.any fun e => e.2.unit == u)
  else match victim mine with
    | some k => (evictFrame k s, (tfind s.loft.frames k).map Frame.unit)
    | none => (s, none)

/-- The class that an access gives a line: a KEEP access beyond the paddock's share of the set counts as NORMAL (R246). -/
def keepLimited (s : State) (pad key : Nat) (c : LineClass) : LineClass :=
  match c with
  | .keep =>
    let units := cacheUnits s pad (keyHalf key)
    let n := ((framesIn s units key).filter fun e => e.1 != key && e.2.cls == .keep).length
    if n < units.length * (s.loft.keepmax.toNat + 1) / 16 then .keep else .normal
  | c => c

/-- The frame of a line, allocated if need be; none where the access is performed directly against the Stack. -/
def holdLine (u : Use) (key : Nat) (s : State) : State × Option Frame :=
  match tfind s.loft.frames key with
  | some f => (s, some f)
  | none =>
    if u.last then (s, none)
    else match freeFrame u.pad key s with
      | (s, some unit) => (s, some { unit := unit, cls := u.cls, age := 0, valid := 0, dirty := 0, data := [], poison := [], dir := .pointers [] })
      | (s, none) => (s, none)

/-- Sectors that a range of a line touches. -/
def touched (off n : Nat) : List Nat := (List.range 4).filter fun j => 256 * j < off + n && off < 256 * (j + 1)

/-- A sector filled from the Stack, if it is not valid. -/
def fillSector (s : State) (key : Nat) (f : Frame) (j : Nat) : Frame :=
  if f.valid.getLsbD j then f
  else
    let a := 1024 * keyLine key + 256 * j
    { f with valid := f.valid ||| BitVec.ofNat 4 (2 ^ j), data := mcopy (stackMem s (keyHalf key)) a f.data (256 * j) 256,
             poison := f.poison ++ ((List.range 4).filter fun i => poisoned s (keyHalf key) false (a / 64 + i)).map fun i => 4 * j + i }

/-- A core takes an L1 copy (R249, R250). -/
def Dir.add (d : Dir) (core : Fin 1024) : Dir :=
  match d with
  | .pointers cs =>
    if cs.contains core then .pointers cs
    else if cs.length < 4 then .pointers (cs ++ [core])
    else .coarse (BitVec.ofNat 32 ((core :: cs).foldl (fun m c => m ||| 2 ^ (c.val / 32)) 0))
  | .coarse q => .coarse (q ||| BitVec.ofNat 32 (2 ^ (core.val / 32)))

/-- A used frame goes back: class, most recent use, directory (R246, R250). -/
def storeLine (u : Use) (key : Nat) (f : Frame) (s : State) : State :=
  let s := { s with loft := { s.loft with clock := s.loft.clock + 1 } }
  setFrames (tput s.loft.frames key { f with cls := keepLimited s u.pad key u.cls, age := s.loft.clock }) s

/-- The lines that `.last` accesses have used are dropped, each once, and their dirty sectors with them, which is counted (R254, R255). -/
def dropLast (pad : Nat) (keys : List Nat) (s : State) : State :=
  keys.eraseDups.foldl (fun t k => if (tfind t.loft.frames k).isSome then bumpPad pad 2 1 (dropFrame k t) else t) s

/-! ## Spill slots (R266, R267) -/

/-- Slots of a half's spill area of a paddock (R396). -/
def slotCount (s : State) (pad : Nat) (half : Bool) : Nat :=
  match getPad s pad with
  | some d => 256 * (if half then d.p.spillw.toNat else d.p.spille.toNat)
  | none => 0

/-- The half and half-local address of a slot: 65,536 × half + number. -/
def slotAt (s : State) (pad slot : Nat) : Bool × Nat :=
  let half := decide (65536 ≤ slot)
  match getPad s pad with
  | none => (half, 0)
  | some d => match (getSpace s d.p.taglo.toNat).table.find? fun e => e.spill && e.half == half with
    | some e => (half, granBytes * e.pbase + 8192 * (slot % 65536))
    | none => (half, 0)

/-- A free slot of the paddock: of the line's own half before the other (DESIGN CHOICE, log 16). -/
def freeSlot (s : State) (pad : Nat) (half : Bool) : Option Nat :=
  match getPad s pad with
  | none => none
  | some d =>
    let inHalf (h : Bool) := (firstBelow (slotCount s pad h) fun i => !d.spillUsed.contains (65536 * b2n h + i)).map fun i => 65536 * b2n h + i
    match inHalf half with
    | some x => some x
    | none => inHalf (!half)

/-- A slice holds fewer than 1,024 spill records (R267). -/
def recordFree (s : State) (key : Nat) : Bool :=
  let same (k : Nat) : Bool := keyHalf k == keyHalf key && stackOfLine (keyLine k) / 2 == stackOfLine (keyLine key) / 2 &&
    sliceOfLine (keyLine k) == sliceOfLine (keyLine key)
  (s.loft.openLines.filter fun e => same e.1 && (match e.2.place with | .pinned => false | _ => true)).length < 1024

def useSlot (pad slot : Nat) (on : Bool) (s : State) : State :=
  modPad pad (fun d => { d with spillUsed := if on then slot :: d.spillUsed else d.spillUsed.filter fun x => x != slot }) s

/-- STATUS of an open line (R263). -/
def lineStatus (o : OpenLine) : Nat :=
  b2n o.ovf + 2 * b2n o.oppinf + 4 * b2n o.mismatch + 8 * b2n o.spilled + 65536 * o.anchor.toNat

/-! ## Closing (R262, R263) -/

/-- The 1 KiB of a closed line: elements closed to FP32, then the status word. -/
def closedBytes (o : OpenLine) : Mem :=
  let m := o.longs.foldl (fun m e =>
    mwrites m (4 * e.1) (leBytes 4 (longClose fp32 o.anchor { bits := e.2, ovf := o.ovf, oppinf := o.oppinf }).1)) []
  mwrites m 1020 (leBytes 4 (lineStatus o))

/-- The flags that the closing of a line's elements raises (R69, R74): NV for opposite infinities, OF and UF unless a saturated form says ANCHOR_OVF. -/
def closedFlags (o : OpenLine) : Flags :=
  o.longs.foldl (fun f e =>
    f.or (longClose fp32 o.anchor { bits := e.2, ovf := o.ovf, oppinf := o.oppinf }).2) noFlags

/-- The team whose access closes a line takes the flags of the closing; any other closing sets no team's flags (DEDUCED, log 111). -/
def closeFlags (u : Use) (f : Flags) (s : State) : State :=
  match u.team with
  | some (c, k, t) => if f = noFlags then s else modTeam c k t (addFlags f) s
  | none => s

/-- The bytes of a line as its home slice would read them: the sectors valid in the Loft, the rest from the Stack. -/
def rawLine (s : State) (half : Bool) (l : Nat) : Mem :=
  match tfind s.loft.frames (lineKey half l) with
  | none => mcopy (stackMem s half) (1024 * l) [] 0 1024
  | some f => ([0, 1, 2, 3].foldl (fillSector s (lineKey half l)) f).data

/-- Bytes of a Stack address as Yardmaster work reads them: the Loft copy where one is valid, else the Stack copy (R244). -/
def rawReads (s : State) (half : Bool) (a n : Nat) : List Byte :=
  (chunks a n).flatMap fun c => mreads (rawLine s half (c.1 / 1024)) (c.1 % 1024) c.2

/-- A 64 B is poisoned as the home slice holds it: in its frame where the sector is valid, else in the Stack. -/
def heldPoison (s : State) (half : Bool) (u : Nat) : Bool :=
  match tfind s.loft.frames (lineKey half (u / 16)) with
  | some f => if f.valid.getLsbD (u % 16 / 4) then f.poison.contains (u % 16) else poisoned s half false u
  | none => poisoned s half false u

/-- Every frame of some lines goes without write-back, its L1 copies first. -/
def discardLines (keys : List Nat) (s : State) : State := keys.foldl (fun t k => dropFrame k t) s

/-- The keys of the eight lines that a slot fills. -/
def slotKeys (p : Bool × Nat) : List Nat := (List.range 8).map fun i => lineKey p.1 (p.2 / 1024 + i)

/-- A line spilled to a slot writes its long forms and status word there (R267). Nothing that lay in the slot's 8 KiB stays, in the Loft or in the Stack. -/
def writeSlot (pad slot : Nat) (o : OpenLine) (s : State) : State :=
  let p := slotAt s pad slot
  let s := setPoisonRange p.1 false p.2 8192 false (discardLines (slotKeys p) s)
  let m := o.longs.foldl (fun m e => mwrites m (p.2 + 24 * e.1) (leBytes 24 e.2.toNat)) (mzero (stackMem s p.1) p.2 6124)
  setStackMem p.1 (mwrites m (p.2 + 6120) (leBytes 4 (lineStatus o))) s

/-- Elements of a slot whose bytes lie in a poisoned 64 B, the status word as element 255. -/
def slotPoison (s : State) (p : Bool × Nat) : List Nat :=
  (List.range 256).filter fun k => heldPoison s p.1 ((p.2 + 24 * k) / 64) || heldPoison s p.1 ((p.2 + min (24 * k + 23) 6123) / 64)

/-- The long forms that a slot holds, with the status word it holds (R267: what was written there is taken), and their poison (R309). -/
def readSlot (s : State) (pad slot : Nat) (o : OpenLine) : OpenLine :=
  let p := slotAt s pad slot
  let bs := rawReads s p.1 p.2 6124
  let st := leNat (bs.drop 6120)
  { o with longs := (List.range 255).filterMap fun k =>
             let v := leNat ((bs.drop (24 * k)).take 24)
             if v = 0 then none else some (k, BitVec.ofNat 192 v),
           anchor := BitVec.ofNat 10 (st / 65536), ovf := bitOf st 0, oppinf := bitOf st 1, mismatch := bitOf st 2, spilled := bitOf st 3,
           poison := o.poison ++ ((slotPoison s p).map (· / 16)).eraseDups }

/-- The long forms of an open line wherever it is. -/
def lineLongs (s : State) (o : OpenLine) : OpenLine :=
  match o.place with
  | .slot n => readSlot s o.pad n o
  | _ => o

/-- An open line closes: a dirty ordinary line takes its place, or the Stack where no frame can. -/
def closeLine (u : Use) (key : Nat) (s : State) : State :=
  match tfind s.loft.openLines key with
  | none => s
  | some o =>
    let o := lineLongs s o
    let s := closeFlags u (closedFlags o) (setOpenLines (tdel s.loft.openLines key) s)
    let s := match o.place with | .slot n => useSlot o.pad n false s | .spilling n => useSlot o.pad n false s | .pinned => s
    let f : Frame := { unit := 0, cls := u.cls, age := s.loft.clock, valid := 0xF, dirty := 0xF, data := closedBytes o, poison := o.poison, dir := .pointers [] }
    match freeFrame o.pad key s with
    | (s, some unit) => setFrames (tput s.loft.frames key { f with unit := unit }) s
    | (s, none) => writeBack key f s

/-- The use of a line by the Yardmaster itself. -/
def yardUse (pad : Nat) : Use := { pad := pad, cls := .normal, last := false, core := none, team := none }

/-- Reads of a granule by the Yardmaster, but for baling, close its open lines (R262). -/
def closeGranule (half : Bool) (g : Nat) (s : State) : State :=
  (s.loft.openLines.filter fun e => keyHalf e.1 == half && keyLine e.1 / 2048 == g).foldl (fun t e => closeLine (yardUse e.2.pad) e.1 t) s

/-! ## Reads and writes at the home slice -/

/-- A read of n bytes within one line: the bytes and whether any 64 B of them is poisoned. An ld leaves L1 copies of the sectors it touches (R251), where a
frame holds the line (R247) and they hold no poison. -/
def stackRead (u : Use) (half : Bool) (a n : Nat) (s : State) : State × List Byte × Bool :=
  let key := lineKey half (a / 1024)
  let off := a % 1024
  let s := closeLine u key s
  match holdLine u key s with
  | (s, none) =>
    (s, mreads (stackMem s half) a n, (List.range (ceilDiv (a % 64 + n) 64)).any fun i => poisoned s half false (a / 64 + i))
  | (s, some f) =>
    let f := (touched off n).foldl (fillSector s key) f
    let psn := f.poison.any fun i => off < 64 * (i + 1) && 64 * i < off + n
    match u.core with
    | some c =>
      let s := storeLine u key { f with dir := f.dir.add c } s
      (((touched off n).filter fun j => !f.poison.any fun i => i / 4 == j).foldl (fun t j => fillL1 c.val { commons := false, sector := 4 * key + j, data := mcopy f.data (256 * j) [] 0 256 } t) s,
        mreads f.data off n, psn)
    | none => (storeLine u key f s, mreads f.data off n, psn)

/-- The dirty bits of a granule after a write by any engine (R474). -/
def markDirty (half : Bool) (a : Nat) (s : State) : State :=
  { s with mem := { s.mem with dirty := tput s.mem.dirty (dirtyKey half (a / granBytes)) 3 } }

/-- 64 B of a line that a write covers whole. -/
def wholeUnits (off n : Nat) : List Nat := (List.range 16).filter fun i => off ≤ 64 * i && 64 * (i + 1) ≤ off + n

/-- A write of bytes within one line: whole sectors without a fill, L1 copies invalidated (R244, R248). -/
def stackWrite (u : Use) (half : Bool) (a : Nat) (bs : List Byte) (s : State) : State :=
  let key := lineKey half (a / 1024)
  let off := a % 1024
  let n := bs.length
  let s := markDirty half a (closeLine u key s)
  match holdLine u key s with
  | (s, none) =>
    let s := setStackMem half (mwrites (stackMem s half) a bs) s
    (wholeUnits off n).foldl (fun t i => setPoison half false (16 * (a / 1024) + i) false t) s
  | (s, some f) =>
    let part := (touched off n).filter fun j => !(off ≤ 256 * j && 256 * (j + 1) ≤ off + n)
    let f := part.foldl (fillSector s key) f
    let mask : BitVec 4 := BitVec.ofNat 4 ((touched off n).foldl (fun m j => m + 2 ^ j) 0)
    let s := invalL1 false (4 * key) f.dir s
    let f := { f with valid := f.valid ||| mask, dirty := f.dirty ||| mask, data := mwrites f.data off bs, dir := f.dir.cleared,
                      poison := f.poison.filter fun i => !(wholeUnits off n).contains i }
    storeLine u key f s

/-- Every dirty frame of some lines written back, without dropping it. -/
def cleanFrames (p : Nat → Bool) (s : State) : State :=
  (s.loft.frames.filter fun e => p e.1).foldl (fun t e =>
    setFrames (tput t.loft.frames e.1 { e.2 with dirty := 0 }) (writeBack e.1 e.2 t)) s

/-- Frames of some lines dropped without write-back. -/
def discardFrames (p : Nat → Bool) (s : State) : State := discardLines ((s.loft.frames.filter fun e => p e.1).map Prod.fst) s

/-- The line of a key lies in a granule of a half. -/
def keyInGran (half : Bool) (g key : Nat) : Bool := keyHalf key == half && keyLine key / 2048 == g

/-! ## LOFT commons -/

def commonsSpan (s : State) (pad o n : Nat) : List (Option Nat) := (List.range n).map fun i => commonsByte s pad (o + i)

/-- The directory entry of the commons frame of a byte (R247). -/
def commonsDir (s : State) (x : Nat) : Dir := tget s.loft.cdir (x / 1024) (.pointers [])

/-- An ld makes an L1 copy of the commons sector it reads (R251). -/
def fillCommons (core : Fin 1024) (x : Nat) (s : State) : State :=
  fillL1 core.val { commons := true, sector := x / 256, data := mcopy s.mem.commons (x / 256 * 256) [] 0 256 }
    { s with loft := { s.loft with cdir := tput s.loft.cdir (x / 1024) ((commonsDir s x).add core) } }

/-- A read of commons: bytes beyond the commons size read zero, which is counted (R242). -/
def commonsRead (pad : Nat) (core : Option (Fin 1024)) (o n : Nat) (s : State) : State × List Byte × Bool :=
  let sp := commonsSpan s pad o n
  let s := if sp.any Option.isNone then bumpPad pad 1 1 s else s
  let bs := sp.map fun b => match b with | some x => mread s.mem.commons x | none => 0
  let psn := sp.any fun b => match b with | some x => s.mem.cpoison.contains (x / 64) | none => false
  match core, sp.head? with
  | some c, some (some x) => (if (List.range 4).any fun i => s.mem.cpoison.contains (x / 256 * 4 + i) then s else fillCommons c x s, bs, psn)
  | _, _ => (s, bs, psn)

/-- The L1 copies of a commons frame are invalidated before it is written (R248). -/
def invalCommons (frame : Nat) (s : State) : State :=
  match tfind s.loft.cdir frame with
  | none => s
  | some d =>
    let s := invalL1 true (4 * frame) d s
    { s with loft := { s.loft with cdir := match d with | .pointers _ => tdel s.loft.cdir frame | .coarse _ => tput s.loft.cdir frame (.coarse 0) } }

/-- A write of commons: bytes beyond the commons size are dropped, which is counted (R242). -/
def commonsWrite (pad o : Nat) (bs : List Byte) (s : State) : State :=
  let sp := (commonsSpan s pad o bs.length).zip bs
  let s := if sp.any fun b => b.1.isNone then bumpPad pad 1 1 s else s
  let s := (sp.filterMap fun b => b.1.map (· / 1024)).eraseDups.foldl (fun t k => invalCommons k t) s
  let m := sp.foldl (fun m b => match b.1 with | some x => mwrite m x b.2 | none => m) s.mem.commons
  let cleared := s.mem.cpoison.filter fun u =>
    !((List.range 64).all fun i => sp.any fun b => b.1 == some (64 * u + i))
  { s with mem := { s.mem with commons := m, cpoison := cleared } }

/-! ## Errors of the slices and their sparing (R271, R273, R274) -/

/-- The map entry of logical slice i of die d (R275); unlisted: on physical slice i of its own die. -/
def getSlice (s : State) (d i : Nat) : SliceMap :=
  tget s.loft.map (32 * d + i) { valid := true, pdie := BitVec.ofNat 4 d, pslice := BitVec.ofNat 6 i, cerr := 0 }

def setSlice (d i : Nat) (x : SliceMap) (s : State) : State := { s with loft := { s.loft with map := tput s.loft.map (32 * d + i) x } }

/-- A die of the slice's half with a free spare: the slice's own before the lowest-numbered (R273). -/
def spareDie (s : State) (d : Nat) : Option (Fin 8) :=
  let has (x : Fin 8) : Bool := s.loft.free[x] != 0
  let own : Fin 8 := Fin.ofNat 8 d
  if has own then some own else ((List.finRange 8).find? fun x => x.val / 4 == d / 4 && has x)

/-- A logical slice is judged failed: its retirement starts, or the half is lost with no free spare in it (R273, R274). -/
def failSlice (d i : Nat) (s : State) : State :=
  if (spareDie s d).isNone then { s with snaps := { s.snaps with lossDue := s.snaps.lossDue ++ [decide (4 ≤ d)] } }
  else match s.loft.retire with
    | none => raiseErr (memErr 0x0A 2 false 0xFF 0x02 (32 * d + i) 0 2 (d / 4) 0 0 0xFFFFFFFF)
        { s with loft := { s.loft with retire := some (BitVec.ofNat 3 d, BitVec.ofNat 5 i) } }
    | some (x, y) => if x.toNat = d && y.toNat = i || s.loft.retireDue.contains (d, i) then s
                     else { s with loft := { s.loft with retireDue := s.loft.retireDue ++ [(d, i)] } }

/-- The slice is being retired, and new requests to it wait (R273). -/
def retiring (s : State) (d i : Nat) : Bool :=
  match s.loft.retire with
  | some (x, y) => x.toNat == d && y.toNat == i
  | none => false

/-- A line's home is logical slice i of die d. -/
def homedAt (d i key : Nat) : Bool := homeDie (keyHalf key) (1024 * keyLine key) == d && sliceOfLine (keyLine key) == i

/-- Lines of a slice leave it: dirty sectors are written back and clean lines dropped (R273). -/
def emptySlice (d i : Nat) (s : State) : State :=
  ((s.loft.frames.filter fun e => homedAt d i e.1).map Prod.fst).foldl (fun t k => evictFrame k t) s

/-- The retirement in progress ends: the slice's ordinary lines have left it, while commons, pinned frames, directory entries and spill records go along;
the map shows a physical slice that is free, of the lowest number, on the spare's die. -/
def finishRetire (s : State) : State :=
  match s.loft.retire with
  | none => s
  | some (x, y) =>
    let d := x.toNat
    let i := y.toNat
    let s := emptySlice d i { s with loft := { s.loft with retire := none } }
    match spareDie s d with
    | none => s
    | some p =>
      let old := getSlice s d i
      let inUse (n : Nat) : Bool := (List.range 256).any fun k =>
        let m := getSlice s (k / 32) (k % 32)
        m.valid && m.pdie.toNat == p.val && m.pslice.toNat == n
      let bad := s.snaps.badSlices ++ [34 * old.pdie.toNat + old.pslice.toNat]
      let n := (firstBelow 34 fun n => !inUse n && !bad.contains (34 * p.val + n)).getD 32
      let s := setSlice d i { valid := true, pdie := BitVec.ofNat 4 p.val, pslice := BitVec.ofNat 6 n, cerr := 0 } s
      let s := { s with loft := { s.loft with free := s.loft.free.set p (s.loft.free[p] - 1) }, snaps := { s.snaps with badSlices := bad },
                        start := { s.start with flashSlices := s.start.flashSlices ++ [34 * old.pdie.toNat + old.pslice.toNat] } }
      let s := handled 0x02 (32 * d + i) s
      match s.loft.retireDue with
      | [] => s
      | (d', i') :: r => failSlice d' i' { s with loft := { s.loft with retireDue := r } }

/-- What a read of a slice's SRAM finds (R271). dirty: the sector is dirty, of commons or pinned; psn poisons it, and drop drops it, as the case may be. -/
def sliceEcc (d i addr : Nat) (pad : Byte) (found : EccResult) (dirty : Bool) (psn drop : State → State) (s : State) : State :=
  match found with
  | .clean => s
  | .corrected =>
    let m := getSlice s d i
    let s := setSlice d i { m with cerr := BitVec.ofNat 16 (satAdd 16 m.cerr.toNat 1) } s
    let s := report (memErr 0x01 1 false pad 0x02 (32 * d + i) addr 2 (d / 4) 0 0 0xFFFFFFFF) s
    if m.cerr.toNat + 1 = s.snaps.slicethr.toNat then failSlice d i s else s
  | .uncorrectable => if dirty then failSlice d i (psn s) else drop s

/-- The ECC finding of a read of a Stack line: of the slice's SRAM where its sector is valid in the Loft, else of the stack (R271, R308, R309). -/
def lineEcc (half : Bool) (a : Nat) (found : EccResult) (s : State) : State :=
  let key := lineKey half (a / 1024)
  let j := a % 1024 / 256
  let d := homeDie half a
  let i := sliceOfLine (a / 1024)
  let pad := ownerPad s false half a
  match tfind s.loft.openLines key with
  | some o => sliceEcc d i a pad found true (fun t => setOpenLines (tput t.loft.openLines key { o with poison := List.range 16 }) t) id s
  | none => match tfind s.loft.frames key with
    | some f =>
      if f.valid.getLsbD j then
        sliceEcc d i a pad found (f.dirty.getLsbD j)
          (fun t => setFrames (tput t.loft.frames key { f with poison := [0, 1, 2, 3].map (4 * j + ·) ++ f.poison }) t)
          (fun t => setFrames (tput t.loft.frames key { f with dir := f.dir.cleared, valid := f.valid &&& ~~~(BitVec.ofNat 4 (2 ^ j)), data := mzero f.data (256 * j) 256 }) (invalL1 false (4 * key) f.dir t)) s
      else homeEcc half a found s
    | none => homeEcc half a found s

/-- The ECC finding of a read of commons (R271). -/
def commonsEcc (pad o : Nat) (found : EccResult) (s : State) : State :=
  match commonsByte s pad o with
  | none => s
  | some b =>
    let c := commonsSlice b
    sliceEcc c.1 c.2 o (BitVec.ofNat 8 pad) found true
      (fun t => { t with mem := { t.mem with cpoison := ((List.range 4).map (b / 256 * 4 + ·)) ++ t.mem.cpoison } }) id s

/-! ## Discards (R272) -/

/-- The open lines of a paddock go, with their spill records (R272). -/
def discardOpen (pad : Nat) (s : State) : State :=
  modPad pad (fun d => { d with spillUsed := [] })
    { s with loft := { s.loft with openLines := s.loft.openLines.filter (fun e => e.2.pad != pad), adds := s.loft.adds.filter fun r => r.pad != pad } }

/-- A compute restart's treatment of the Loft (R272): dirty sectors are written back, every frame is emptied, with the L1 copies, open lines go, commons read
zero. -/
def restartLoft (s : State) : State :=
  let s := s.loft.frames.foldl (fun t e => writeBack e.1 e.2 t) s
  let s := { s with loft := { s.loft with frames := [], cdir := [], openLines := [], adds := [] }, mem := { s.mem with commons := [], cpoison := [] },
                    cores := s.cores.map fun (e : Nat × Core) => (e.1, { e.2 with l1 := [] }) }
  s.pads.foldl (fun t e => modPad e.1 (fun d => { d with spillUsed := [] }) t) s

end Sys2Proof.Machine
end

