-- ==== Sys2Proof/Machine/JobFault.lean ====
section
/-! DEFINITION. A job fault and the start of the compute restart (R121, R367, R403, R469 to R471, R478). -/

namespace Sys2Proof.Machine

/-! ## Job counts (R403) -/

def countAccepted (p : Nat) (s : State) : State := modPad p (fun d => { d with accepted := d.accepted + 1 }) s

def countCompleted (p : Nat) (s : State) : State := modPad p (fun d => { d with completed := d.completed + 1 }) s

def countLost (p n : Nat) (s : State) : State := modPad p (fun d => { d with lost := d.lost + BitVec.ofNat 32 n }) s

/-! ## Marks cut off (R478) -/

/-- A running mark is cut off: the generation stays incomplete, D is set again on pending granules, the command completes with LOST. -/
def cutMark (s : State) : State :=
  match s.snaps.mark with
  | none => s
  | some m =>
    let dirty := m.pending.foldl (fun t g => tput t (dirtyKey g.half g.gran) (tget t (dirtyKey g.half g.gran) 0 ||| BitVec.ofNat 2 (2 ^ m.gen.val)))
      s.mem.dirty
    let s := { s with mem := { s.mem with dirty := dirty },
                      snaps := { s.snaps with mark := none, gens := s.snaps.gens.set m.gen { s.snaps.gens[m.gen] with complete := false, current := false } } }
    statusOpt m.cmd lostCode [] (bump 1155 1 s)

/-! ## Work of a paddock cut off -/

/-- The paddock is to be auto-resumed (R471). -/
def willResume (s : State) (p : Nat) : Bool :=
  match getPad s p, currentGen s with
  | some d, some g => d.p.autores && (s.snaps.gens[g]).records.any fun r => r.pad == p && r.resumes < 2
  | _, _ => false

/-- Slots of a core whose blocks a predicate names. -/
def namedSlots (p : Block → Bool) (c : Core) : List Nat := (c.blocks.filter fun b => p b.2).map Prod.fst

/-- Accumulator tiles that the teams of some slots hold. -/
def slotTiles (ks : List Nat) (c : Core) : BitVec 8 :=
  (c.blocks.filter fun (b : Nat × Block) => ks.contains b.1).foldl (fun (m : BitVec 8) (b : Nat × Block) =>
    b.2.teams.foldl (fun (m : BitVec 8) (t : Nat × Team) => (t.2.harness.getD []).foldl (fun (m : BitVec 8) k => m ||| BitVec.ofNat 8 (2 ^ k.val)) m) m) 0

/-- Some blocks of a core end where they stand, with their tile requests, their tiles and their matrix instructions. -/
def dropBlocks (p : Block → Bool) (c : Core) : Core :=
  let ks := namedSlots p c
  if ks.isEmpty then c
  else
    { c with blocks := c.blocks.filter (fun b => !p b.2), mmaQ := c.mmaQ.filter (fun e => !e.own || !ks.contains e.slot),
             harnessQ := c.harnessQ.filter (fun r => !ks.contains r.1), tileUsed := c.tileUsed &&& ~~~(slotTiles ks c) }

/-- Blocks end wherever they stand. -/
def endBlocks (p : Block → Bool) (s : State) : State :=
  { s with cores := s.cores.map fun (c : Nat × Core) => (c.1, dropBlocks p c.2) }

/-- The accesses and copies of some blocks' cores go with them. -/
def dropAccesses (p : Access → Bool) (q : CopyRun → Bool) (s : State) : State :=
  { s with accs := s.accs.filter (fun a => !p a), copies := s.copies.filter fun c => !q c }

/-- Mesh packets and open reduction entries of a paddock go. -/
def dropMesh (p : Nat) (s : State) : State :=
  { s with mesh := { s.mesh with pkts := s.mesh.pkts.filter (fun k => k.pad != p), red := s.mesh.red.filter fun r => r.pad != p } }

/-- Waits of the groups that a predicate names go. -/
def dropWaits (p : PostWait → Bool) (s : State) : State := { s with posts := { s.posts with waits := s.posts.waits.filter fun w => !p w } }

def PostWait.ofGroup (w : PostWait) (cores : List Nat) : Bool := match w.who with | .group c _ _ _ => cores.contains c | _ => false

/-- The cores that hold a block of the paddock. -/
def coresOf (s : State) (p : Nat) : List Nat := (s.cores.filter fun c => c.2.blocks.any fun b => b.2.pad == p).map Prod.fst

/-- Everything that runs on the cores for a paddock ends (R469, step 3 of R415). -/
def stopCompute (p : Nat) (s : State) : State :=
  let cs := coresOf s p
  dropMesh p (dropWaits (fun w => w.ofGroup cs) (dropAccesses (fun a => a.pad == p) (fun c => c.pad == p) (endBlocks (fun b => b.pad == p) s)))

/-- Launches of a paddock are lost (R367, R403). -/
def loseLaunches (p : Nat) (s : State) : State :=
  match getPad s p with
  | none => s
  | some d =>
    let s := d.launches.foldl (fun t l => statusOpt l.cmd lostCode [] t) s
    countLost p d.launches.length (modPad p (fun d => { d with launches := [] }) s)

/-- LOCAL sides of a paddock's dray descriptors on some cores lose their block (R206). -/
def localsGone (p : Nat) (cores : Nat → Bool) (s : State) : State :=
  { s with drays := { s.drays with xfers := s.drays.xfers.map fun x =>
      if x.pad == p then { x with dgone := x.dgone || cores x.desc.dcore.toNat, sgone := x.sgone || cores x.desc.score.toNat } else x } }

/-- Waits of dray descriptors that no longer exist go. -/
def sweepWaits (s : State) : State :=
  { s with posts := { s.posts with waits := s.posts.waits.filter fun w => match w.who with
      | .xfer id => s.drays.xfers.any fun x => x.id == id
      | _ => true } }

/-- The pipeline is unloaded (R171): a PIPE.START that waits for its beat and moves in flight complete with LOST (R367); an accepted one is counted lost
unless the paddock is carried on (R403). -/
def unloadPipe (p : Nat) (carry : Bool) (s : State) : State :=
  match getPad s p with
  | none => s
  | some d => match d.pipe with
    | none => s
    | some pl =>
      let s := modPad p (fun d => { d with pipe := none }) (localsGone p (fun _ => true) s)
      let s := pl.moves.foldl (fun t m => statusOpt m.cmd lostCode [] t) s
      match pl.start with
      | none => s
      | some st => if st.accepted && !st.ended then
          (if carry then modPad p (fun d => { d with carryPipe := true }) s else countLost p 1 s)
        else if st.accepted then s else statusOpt st.cmd lostCode [] s

/-- The runs of a serving paddock's sequences leave: their extents, their granules, their Barn runs (R403, R415). -/
def freeServing (p : Nat) (seqs : List Seq) (s : State) : State :=
  match getPad s p with
  | none => s
  | some d =>
    let tag := d.p.kvtag.toNat
    let exts := seqs.flatMap fun q => q.runs
    let sp := getSpace s tag
    let s := if exts.isEmpty then s else setSpace tag { sp with table := sp.table.filter fun e => !(e.mixer && exts.any fun x => x.index == e.index) } s
    let s := exts.foldl (fun t e => dropRun { barn := false, half := e.half, first := e.pbase, len := e.len, ctx := e.owner, share := 0, conf := e.conf } t) s
    let s := (seqs.flatMap fun q => q.swap).foldl (fun t r => dropRun r t) s
    modPad p (fun d => { d with kvFreed := exts.map (fun e => ⟨false, e.half, e.pbase, e.len⟩) ++ d.kvFreed }) s

/-- Sequences and batches of a serving paddock are dropped (R403), or carried on to its auto-resume, and then their memory stays mapped (R471). -/
def dropServing (p : Nat) (carry : Bool) (s : State) : State :=
  match getPad s p with
  | none => s
  | some d =>
    let live := (d.seqs.filter fun q => !q.counted).map fun q => q.id
    let batches := (d.batches.filter fun b => !b.counted).length
    if carry then modPad p (fun d => { d with seqs := [], batches := [], carrySeqs := live, carryBatches := batches }) s
    else countLost p (live.length + batches) (modPad p (fun d => { d with seqs := [], batches := [] }) (freeServing p d.seqs s))

/-- The mixer's extents of a serving paddock, and the Barn runs of its swapped sequences, leave. -/
def clearMixer (p : Nat) (s : State) : State :=
  match getPad s p with
  | none => s
  | some d =>
    if d.p.serve != 1 then s
    else
      let tag := d.p.kvtag.toNat
      let sp := getSpace s tag
      let own (r : GranRun) : Bool := r.barn && r.ctx == ctxOf p tag &&
        !(sp.table.any fun e => e.barn && e.share.isNone && e.half == r.half && decide (e.pbase ≤ r.first ∧ r.first < e.pbase + e.len))
      let barn := s.xlt.granules.filter own
      let exts := sp.table.filter fun e => e.mixer
      let s := if exts.isEmpty then s else setSpace tag { sp with table := sp.table.filter fun e => !e.mixer } s
      let s := exts.foldl (fun t e => dropRun { barn := false, half := e.half, first := e.pbase, len := e.len, ctx := e.owner, share := 0, conf := e.conf } t) s
      barn.foldl (fun t r => dropRun r t) s

/-- What a paddock was carrying on to its auto-resume is lost (R403, R471). -/
def loseCarry (p : Nat) (s : State) : State :=
  match getPad s p with
  | none => s
  | some d =>
    if !d.carryPipe && d.carrySeqs.isEmpty && d.carryBatches == 0 then s
    else
      clearMixer p (countLost p (b2n d.carryPipe + d.carrySeqs.length + d.carryBatches)
        (modPad p (fun d => { d with carryPipe := false, carrySeqs := [], carryBatches := 0 }) s))

/-- A part of a transfer reads or writes LOCAL or LOFT (R469). -/
def descCompute (d : DrayDesc) : Bool :=
  (d.op.toNat ≤ 2 && d.dspace.toNat ≤ 1) || (d.op.toNat ≤ 1 && d.sspace.toNat ≤ 1)

/-- The commands that a compute restart cuts off (R367): those that it names in flight, also where they wait for a fence or a beat, and a PIPE.START whose
beat has not come (a launch that has begun is lost with the paddock's other launches, loseLaunches). -/
def restartLoses (c : Cmd) : Bool :=
  match c.body with
  | .jobLaunch _ => !c.began
  | .pipeStart _ => !c.began
  | .pipeMove _ => true
  | .postWait _ _ _ => true
  | .copy p => descCompute p.desc
  | _ => false

/-- A launch that had not begun counts as lost (R403). -/
def loseUnbegun (p : Cmd → Bool) (s : State) : State :=
  (s.ym.cmds.filter fun c => p c && !c.began && (match c.body with | .jobLaunch _ => true | _ => false)).foldl
    (fun t c => countLost c.hdr.paddock.toNat 1 t) s

/-- A job that runs on the cores, the drays or a port: what its JOB entry names (R121, R489). -/
structure JobUnit where
  utype  : Byte
  uindex : Nat
  pad    : Nat
  block  : W32
  team   : Nat
  stage  : Nat
  pc     : W64
  deriving DecidableEq, Repr

def jobErr (u : JobUnit) (code : Nat) (imm number : W32) : Err :=
  { cls := 1, code := BitVec.ofNat 8 code, sev := 3, needack := false, pad := BitVec.ofNat 8 u.pad, utype := u.utype, uindex := u.uindex,
    detail := detailOf (leBytes 4 u.block.toNat ++ [BitVec.ofNat 8 u.team, BitVec.ofNat 8 u.stage, 0, 0] ++ leBytes 8 u.pc.toNat ++
      leBytes 4 imm.toNat ++ leBytes 4 number.toNat) }

/-- The compute restart begins (first three rows of R469): every block ends, LOST entries are written, every pipeline is unloaded, parts of started
descriptors that touch LOCAL or LOFT are dropped, a running mark is cut off. -/
def beginRestart (s : State) : State :=
  let pads := s.pads.map Prod.fst
  let s := pads.foldl (fun t p => stopCompute p t) s
  let lostWaits := s.ym.cmds.filter restartLoses
  let s := loseCmds restartLoses (loseUnbegun restartLoses s)
  let s := { s with posts := { s.posts with upds := [], waits := s.posts.waits.filter fun w => match w.who with
                      | .cmd seq => !lostWaits.any fun c => c.seq == seq
                      | _ => true },
                    drays := { s.drays with xfers := (s.drays.xfers.filter fun x => match x.src with
                      | .copy seq _ => !lostWaits.any fun c => c.seq == seq
                      | .queue _ _ _ => true).map fun x => { x with dropped := true } } }
  let s := pads.foldl (fun t p =>
    if (getPad t p).any fun d => d.resuming then (if willResume t p then t else loseCarry p t)
    else dropServing p (willResume t p) (unloadPipe p (willResume t p) (loseLaunches p t))) s
  cutMark (sweepWaits s)

/-- A restart that begins now. -/
def freshRestart (n : W32) : Restart :=
  { number := n, written := 0, missed := 0, resumed := 0, notRes := 0, toResume := [], ended := false, us := 0, silent := false }

/-- RESTART_DONE, written when every auto-resume of the restart has begun or failed (R470); those that have not by now have failed. -/
def restartDone (s : State) : State :=
  match s.snaps.restart with
  | none => s
  | some r =>
    if r.silent then { s with snaps := { s.snaps with restart := none } } else
    let not := r.toResume.foldl (fun m p => m ||| BitVec.ofNat 32 (2 ^ p)) r.notRes
    report { cls := 1, code := 0x10, sev := 0, needack := false, pad := 0xFF, utype := 0x0E, uindex := 0,
             detail := detailOf (leBytes 4 r.number.toNat ++ leBytes 4 r.missed.toNat ++ leBytes 4 r.resumed.toNat ++ leBytes 4 not.toNat ++
               leBytes 4 r.us.toNat) } { s with snaps := { s.snaps with restart := none } }

/-- The job fault that begins a compute restart (R469). -/
def firstFault (u : JobUnit) (code : Nat) (imm : W32) (s : State) : State :=
  let s := restartDone s
  let n := s.snaps.restarts + 1
  let s := raiseErr (jobErr u code imm n) s
  beginRestart (bump 1152 1 { s with snaps := { s.snaps with restarts := n, restart := some (freshRestart n) } })

/-- A job fault (R469, R470): the first begins a compute restart; of those raised before its end, the first 16 write entries and the rest are counted. -/
def jobFault (u : JobUnit) (code : Nat) (imm : W32) (s : State) : State :=
  match s.snaps.restart with
  | none => firstFault u code imm s
  | some r =>
    if r.ended then firstFault u code imm s
    else if r.written < 16 then
      raiseErr (jobErr u code imm r.number) { s with snaps := { s.snaps with restart := some { r with written := r.written + 1 } } }
    else { s with snaps := { s.snaps with restart := some { r with missed := r.missed + 1 } } }

/-- A compute restart runs. -/
def restarting (s : State) : Bool := match s.snaps.restart with | some r => !r.ended | none => false

/-- Codes of the job faults (R488). -/
def illegalInstr : Nat := 0x01
def misaligned : Nat := 0x02
def localRange : Nat := 0x03
def copyRange : Nat := 0x04
def callDepth : Nat := 0x05
def trapFault : Nat := 0x06
def watchdogFault : Nat := 0x07
def uncorrectableFault : Nat := 0x08
def harnessSplit : Nat := 0x09
def harnessPartial : Nat := 0x0A

end Sys2Proof.Machine
end

