-- ==== Sys2Proof/Machine/Posts.lean ====
section
/-! DEFINITION. Posts: handles, updates, waits (R221 to R232). -/

namespace Sys2Proof.Machine

/-- The none handle (R222). -/
def noneHandle : W32 := 0xFFFFFFFF

/-- The device post of a paddock's post (R395). -/
def padPost (s : State) (pad k : Nat) : Option Nat :=
  match getPad s pad with
  | some d => d.posts[k]?
  | none => none

/-- The device post that a handle names (R222). -/
def handlePost (s : State) (pad : Nat) (h : W32) : Option Nat := if h.toNat < 32768 then padPost s pad h.toNat else none

def postValue (s : State) (d : Nat) : W48 := tget s.posts.cnt d 0

def setPostValue (d : Nat) (v : W48) (s : State) : State :=
  { s with posts := { s.posts with cnt := if v = 0 then tdel s.posts.cnt d else tput s.posts.cnt d v } }

/-- Posts of a paddock at zero (R223). -/
def zeroPosts (ds : List Nat) (s : State) : State :=
  { s with posts := { s.posts with cnt := s.posts.cnt.filter (fun e => !ds.contains e.1),
                                   upds := s.posts.upds.filter fun u => !ds.contains u.post } }

/-! ## Updates on their way -/

/-- An add or set on its way to the home of a post. -/
def sendUpd (post : Nat) (isSet : Bool) (value : Nat) (pad : Option Nat) (after : List Nat) (sends : List (Nat × Nat × Nat × Nat))
    (s : State) : State :=
  { s with posts := { s.posts with upds := s.posts.upds ++ [{ id := s.posts.nextId, post := post, isSet := isSet, value := value, pad := pad, after := after, sends := sends }],
                                   nextId := s.posts.nextId + 1 } }

/-- An add or set of a handle; one that names no post is dropped and counted (R222). -/
def updHandle (pad : Nat) (h : W32) (isSet : Bool) (value : Nat) (after : List Nat) (sends : List (Nat × Nat × Nat × Nat)) (s : State) : State :=
  match handlePost s pad h with
  | some d => sendUpd d isSet value (some pad) after sends s
  | none => bumpPad pad 7 1 s

/-- An add in a field that accepts the none handle (R222). -/
def addOpt (pad : Nat) (h : W32) (value : Nat) (s : State) : State :=
  if h = noneHandle then s else updHandle pad h false value [] [] s

/-! ## Waits -/

/-- The die of a device post (R221). -/
def postDie (d : Nat) : Nat := d / 4096

/-- Wait entries in use at a die's post block (R231). -/
def entriesUsed (s : State) (die : Nat) : Nat :=
  (s.posts.waits.filter fun w => w.entry && w.die == die).length

/-- The wait's condition holds now (R222, R224). -/
def waitHolds (s : State) (w : PostWait) : Bool :=
  match w.post with
  | some d => decide (w.target ≤ postValue s d)
  | none => w.target == 0

/-- A completed wait releases its engine (R224, R228, R229, R384). -/
def completeWait (w : PostWait) (s : State) : State :=
  let s := { s with posts := { s.posts with waits := s.posts.waits.filter fun x => x.id != w.id } }
  match w.who with
  | .group core slot team born =>
    match getTeam s core slot team with
    | none => s
    | some t =>
      let ro := t.ring.any fun g => g.born == born && (match g.wait with | some (.post ro _) => ro | _ => false)
      let s := modTeam core slot team (Team.release born) s
      if ro then invalCaches core true true s else s
  | .xfer id =>
    { s with drays := { s.drays with xfers := s.drays.xfers.map fun x =>
        if x.id == id then { x with waited := true } else x } }
  | .cmd seq => writeStatus seq done (leBytes 6 (match w.post with | some d => (postValue s d).toNat | none => 0)) s

/-- A wait registers at the home of its post, or where it names none at the post block of the engine's own die, in a free entry if there is one; it completes
at once where it holds (R222, R224, R231). -/
def registerWait (who : Waiter) (own : Nat) (post : Option Nat) (target : W48) (s : State) : State :=
  let die := match post with | some d => postDie d | none => own
  let w : PostWait := { id := s.posts.nextId, who := who, post := post, die := die, target := target,
                        entry := decide (die < 8) && decide (entriesUsed s die < 1024) }
  let s := { s with posts := { s.posts with waits := s.posts.waits ++ [w], nextId := s.posts.nextId + 1 } }
  if waitHolds s w then completeWait w s else s

/-- After an update of a post: the waits with entries that hold complete (R224). -/
def releaseWaits (d : Nat) (s : State) : State :=
  (s.posts.waits.filter fun w => w.entry && w.post == some d && waitHolds s w).foldl (fun t w => completeWait w t) s

/-- An update applied at the home: a set, or an add that stops at 2^48 − 1, which is counted (R223). -/
def applyUpd (u : PostUpd) (s : State) : State :=
  let old := (postValue s u.post).toNat
  if u.isSet then releaseWaits u.post (setPostValue u.post (BitVec.ofNat 48 u.value) s)
  else if old + u.value ≥ 2 ^ 48 then
    let s := match u.pad with | some p => bumpPad p 8 1 s | none => s
    releaseWaits u.post (setPostValue u.post (BitVec.ofNat 48 (2 ^ 48 - 1)) s)
  else releaseWaits u.post (setPostValue u.post (BitVec.ofNat 48 (old + u.value)) s)

end Sys2Proof.Machine
end

