-- ==== Sys2Proof/Machine/Operands.lean ====
section
/-! DEFINITION. Operand fields, the forms of the instructions, and the check of R99 (R95 to R100). -/

namespace Sys2Proof.Machine

/-! ## Operand fields (R96) -/

/-- What an operand field names. -/
inductive Opd where
  | gen (r : Nat)
  | uni (r : Nat)
  | imm
  | refused
  deriving DecidableEq, Repr

def opd (f : BitVec 9) : Opd :=
  if f.toNat < 256 then .gen f.toNat else if f.toNat < 320 then .uni (f.toNat - 256) else if f.toNat = 320 then .imm else .refused

/-- How an operation uses an operand field: n registers (none: the field must be zero), whether the first is even, and what it may name. -/
structure OpUse where
  n    : Nat
  even : Bool
  gen  : Bool
  uni  : Bool
  imm  : Bool
  deriving DecidableEq, Repr

def noUse : OpUse := ⟨0, false, false, false, false⟩

/-- A source of n registers: any register, or IMM for 32 or 64 bits (R97). -/
def src (n : Nat) : OpUse := ⟨n, decide (2 ≤ n), true, true, decide (n ≤ 2)⟩

/-- A source range of cvt: it starts on an even register when its elements are pairs, and only then or alone may IMM stand for it (R97, R106). -/
def srcRange (n : Nat) (pairs : Bool) : OpUse := ⟨n, pairs, true, true, n == 1 || (n == 2 && pairs)⟩

/-- A destination of n registers. -/
def dest (n : Nat) : OpUse := ⟨n, decide (2 ≤ n), true, true, false⟩

def destRange (n : Nat) (pairs : Bool) : OpUse := ⟨n, pairs, true, true, false⟩

/-- A source that is the same for the whole group (R118, R181, R225). -/
def uniSrc (n : Nat) : OpUse := ⟨n, decide (2 ≤ n), false, true, true⟩

/-- A uniform register (R131). -/
def uniOnly : OpUse := ⟨1, false, false, true, false⟩

/-- General registers only. -/
def genOnly (n : Nat) (even : Bool) : OpUse := ⟨n, even, true, false, false⟩

/-- An anchored register group (R143). -/
def group7 : OpUse := genOnly 7 true

/-- The field keeps R96, R97 and the block's allocation of R99. -/
def useOk (regs : Nat) (f : BitVec 9) (u : OpUse) : Bool :=
  if u.n = 0 then f == 0
  else match opd f with
    | .gen r => u.gen && (if r = 255 then u.n == 1 else decide (r + u.n ≤ 255) && decide (r + u.n ≤ regs) && (!u.even || r % 2 == 0))
    | .uni r => u.uni && decide (r + u.n ≤ 64) && (!u.even || r % 2 == 0)
    | .imm => u.imm
    | .refused => false

/-- The form of an instruction: its operands, whether it uses FMT, MOD and IMM itself, the bits of EXT it uses, whether PEN is refused, accepted or
required, the registers its EXT fields name (0x100 + u), and whether the values of its fields are accepted. -/
structure Form where
  dst   : OpUse
  a     : OpUse
  b     : OpUse
  c     : OpUse
  fmt   : Bool
  mod   : Bool
  imm   : Bool
  ext   : W32
  pen   : Fin 3
  extra : List Nat
  ok    : Bool
  deriving DecidableEq, Repr

/-- A form without operands that uses nothing. -/
def bareForm : Form :=
  { dst := noUse, a := noUse, b := noUse, c := noUse, fmt := false, mod := false, imm := false, ext := 0, pen := 0, extra := [], ok := true }

/-- Bits hi to lo of the word's EXT, numbered 119 to 96 as the spec numbers them. -/
def ext (w : IWord) (hi lo : Nat) : Nat := bitsOf w.ext.toNat (hi - 96) (lo - 96)

/-- A mask of EXT bits hi to lo. -/
def extMask (hi lo : Nat) : W32 := BitVec.ofNat 32 ((2 ^ (hi + 1 - lo) - 1) * 2 ^ (lo - 96))

def namesImm (f : BitVec 9) (u : OpUse) : Bool := u.n != 0 && f == 320

/-- An instruction that breaks none of R95 to R99. -/
def legal (regs : Nat) (f : Form) (w : IWord) : Bool :=
  f.ok && w.rsv == 0 &&
  useOk regs w.dst f.dst && useOk regs w.srcA f.a && useOk regs w.srcB f.b && useOk regs w.srcC f.c &&
  (f.fmt || w.fmt == 0) && (f.mod || w.mod == 0) &&
  (f.imm || namesImm w.srcA f.a || namesImm w.srcB f.b || namesImm w.srcC f.c || namesImm w.dst f.dst || w.imm == 0) &&
  (w.ext.setWidth 32 &&& ~~~f.ext) == 0 &&
  (match f.pen with | 0 => !w.pen && w.pdst == 0 | 1 => !(w.pen && w.pdst == 7) | _ => w.pen && w.pdst != 7)

/-! ## Which registers an instruction names -/

def usedRegs (f : BitVec 9) (u : OpUse) : List Nat :=
  match opd f with
  | .gen r => if r = 255 then [] else (List.range u.n).map (r + ·)
  | .uni r => (List.range u.n).map (256 + r + ·)
  | _ => []

/-- Every register that an instruction reads or writes, uniform ones from 256 on. -/
def formRegs (f : Form) (w : IWord) : List Nat :=
  usedRegs w.dst f.dst ++ usedRegs w.srcA f.a ++ usedRegs w.srcB f.b ++ usedRegs w.srcC f.c ++ f.extra

/-- Registers that an access in flight will write. -/
def pendingRegs (a : Access) : List Nat :=
  match a.kind with
  | .ld => usedRegs a.dst ⟨max 1 (a.bytes / 4), false, true, true, false⟩
  | .atom => usedRegs a.dst ⟨max 1 (a.bytes / 4), false, true, true, false⟩
  | _ => []

/-- A register that the instruction names waits for a load or atomic in flight (R84, R85). -/
def waitsOperand (s : State) (core slot team : Nat) (lanes regs : List Nat) : Bool :=
  s.accs.any fun a => a.core == core && a.slot == slot && a.team == team &&
    (pendingRegs a).any fun r => regs.contains r && (256 ≤ r || a.lanes.any fun l => lanes.contains l.lane)

/-! ## Operand values -/

/-- IMM as a 64-bit integer operand (R97). -/
def immSigned (imm : W32) : Nat := ofSigned 64 imm.toInt

/-- An FP32 code widened exactly to FP64, a NaN with its quiet bit and payload (R97, R45). -/
def widenF32 (c : Nat) : Nat :=
  let top := c / 8388608 % 256
  if top = 255 then (c / 2147483648) * 2 ^ 63 + 2047 * 2 ^ 52 + c % 8388608 * 2 ^ 29
  else (fp64.deliver .rn false (fp32.decode c)).1

/-- 32 bits of an operand for a lane. -/
def read32 (t : Team) (lane : Nat) (f : BitVec 9) (imm : W32) : Nat :=
  match opd f with
  | .gen r => (readG t lane r).toNat
  | .uni r => (readU t r).toNat
  | .imm => imm.toNat
  | .refused => 0

/-- Register i of an operand's range for a lane. -/
def readAt (t : Team) (lane : Nat) (f : BitVec 9) (i : Nat) : Nat :=
  match opd f with
  | .gen r => (readG t lane (if r = 255 then 255 else r + i)).toNat
  | .uni r => (readU t (r + i)).toNat
  | _ => 0

/-- 64 bits of an operand for a lane, low word first; IMM as an integer. -/
def read64 (t : Team) (lane : Nat) (f : BitVec 9) (imm : W32) : Nat :=
  match opd f with
  | .imm => immSigned imm
  | _ => readAt t lane f 0 + 2 ^ 32 * readAt t lane f 1

/-- An integer operand of 32 or 64 bits. -/
def readInt (t : Team) (wide : Bool) (lane : Nat) (f : BitVec 9) (imm : W32) : Nat :=
  if wide then read64 t lane f imm else read32 t lane f imm

/-- A floating-point operand of FP32 or FP64: IMM of FP64 is an FP32 value widened (R97). -/
def readFlt (t : Team) (wide : Bool) (lane : Nat) (f : BitVec 9) (imm : W32) : Nat :=
  if !wide then read32 t lane f imm
  else match opd f with
    | .imm => widenF32 imm.toNat
    | _ => read64 t lane f imm

/-- n bytes of data from an operand for a lane. -/
def readData (t : Team) (bytes lane : Nat) (f : BitVec 9) (imm : W32) : Nat :=
  if bytes ≤ 4 then read32 t lane f imm % 2 ^ (8 * bytes)
  else if bytes = 8 then read64 t lane f imm
  else (List.range (bytes / 4)).foldl (fun v i => v + 2 ^ (32 * i) * readAt t lane f i) 0

/-- Words of a value written to a destination for one lane; a uniform destination is written as it stands. -/
def writeWords (n lane : Nat) (f : BitVec 9) (v : Nat) (t : Team) : Team :=
  (List.range n).foldl (fun t i =>
    let x : W32 := BitVec.ofNat 32 (v / 2 ^ (32 * i))
    match opd f with
    | .gen r => writeG lane (if r = 255 then 255 else r + i) x t
    | .uni r => writeU (r + i) x t
    | _ => t) t

/-- Results by lane written to a destination: a general one in each lane, a uniform one from the lowest lane (R100). -/
def writeLanes (n : Nat) (f : BitVec 9) (vals : List (Nat × Nat)) (t : Team) : Team :=
  match opd f with
  | .uni _ => match vals with
    | (l, v) :: _ => writeWords n l f v t
    | [] => t
  | _ => vals.foldl (fun t x => writeWords n x.1 f x.2 t) t

/-- Flags of the lanes' results set in the team's flags (R56). -/
def writeFlags (fs : List Flags) (t : Team) : Team := addFlags (allFlags fs) t

end Sys2Proof.Machine
end

