-- ==== Sys2Proof/Machine/Access.lean ====
section
/-! DEFINITION. Accesses of engines to STACK, BARN, LOFT and LOCAL: what holds them, poison, atomics, engine order (R197 to R220, R282, R299, R324, R466). -/

namespace Sys2Proof.Machine

/-! ## Compact paddocks (R213) -/

/-- All quadrants of the paddock lie on one compute die. -/
def compactPad (s : State) (p : Nat) : Bool :=
  match getPad s p with
  | none => true
  | some d => match unitList d.quads with
    | [] => true
    | q :: r => r.all fun x => x / 4 == q / 4

/-! ## MIGR granules (R299, R300) -/

/-- The record of granule gran of an extent of a tag. -/
def MigGran.names (tag : Nat) (e : Extent) (gran : Nat) (m : MigGran) : Bool :=
  m.tag == tag && m.index == e.index && m.granule == gran && m.half == e.half && m.place == e.pbase + gran

def residence (s : State) (tag : Nat) (e : Extent) (gran : Nat) : Residence :=
  match s.xlt.mig.find? (MigGran.names tag e gran) with
  | some m => m.res
  | none => .dev

/-- The record of a MIGR granule changed by f. -/
def modMig (tag : Nat) (e : Extent) (gran : Nat) (f : MigGran → MigGran) (s : State) : State :=
  let l := s.xlt.mig
  let m := (l.find? (MigGran.names tag e gran)).getD
    { tag := tag, index := e.index, granule := gran, half := e.half, place := e.pbase + gran, res := .dev, count := 0, touched := false, cmd := none }
  { s with xlt := { s.xlt with mig := f m :: l.filter fun x => !MigGran.names tag e gran x } }

/-- The host port of a paddock. -/
def padPort (s : State) (p : Nat) : Fin 2 := match getPad s p with | some d => if d.p.port then 1 else 0 | none => 0

/-- The residence byte of a granule in host memory (R299). -/
def writeResidence (e : Extent) (gran : Nat) (v : Byte) (s : State) : State :=
  hostWrites (padPort s (e.owner.toNat / 1024)) (e.raddr.toNat + gran) [v] s

/-- A move of a granule begins: its residence byte reads MOVING (R299). -/
def startMove (tag : Nat) (e : Extent) (gran : Nat) (into : Bool) (cmd : Option Nat) (s : State) : State :=
  writeResidence e gran 2 (modMig tag e gran (fun m => { m with res := if into then .movingIn else .movingOut, cmd := cmd }) s)

/-- The tag and extent that a mapped address belongs to: for a share entry its source (R285). -/
def sourceOf (s : State) (tag : Nat) (e : Extent) : Nat × Extent :=
  match e.share with
  | none => (tag, e)
  | some (t, i) => match (getSpace s t).table.find? fun x => x.index == i with
    | some x => (t, x)
    | none => (tag, e)

/-- An access to a granule of a MIGR extent: whether it must wait. A HOST granule is fetched; a DEV one counts as accessed in the period (R300, R302). -/
def migrHold (tag : Nat) (e : Extent) (gran : Nat) (s : State) : State × Bool :=
  if !e.migr then (s, false)
  else
    let (t, x) := sourceOf s tag e
    match residence s t x gran with
    | .dev => (modMig t x gran (fun m => { m with touched := true }) s, false)
    | .host => (startMove t x gran true none s, true)
    | .movingOut => (s, true)
    | .movingIn => (s, true)

/-! ## What holds a request at a home slice -/

/-- An add is queued on the line, or one waits for a pin of its set (R264, R268). -/
def addsAhead (s : State) (key : Nat) : Bool :=
  s.loft.adds.any fun r => lineKey r.half r.line == key || (r.waits && sameSet (lineKey r.half r.line) key)

/-- A mark still has to copy the granule (R476). -/
def markPending (s : State) (half : Bool) (g : Nat) : Bool :=
  match s.snaps.mark with
  | some m => m.pending.any fun x => x.half == half && x.gran == g
  | none => false

/-- A held write asks for its granule next (R476). -/
def wantGranule (half : Bool) (g : Nat) (s : State) : State :=
  match s.snaps.mark with
  | some m => if m.wanted.contains (half, g) then s else { s with snaps := { s.snaps with mark := some { m with wanted := m.wanted ++ [(half, g)] } } }
  | none => s

/-- The Stack lines of a slot wait: a stack is held or a stand-in is being installed (R314, R324). -/
def slotHeld (s : State) (pad slot : Nat) : Bool :=
  let p := slotAt s pad slot
  (List.range 8).any fun i => s.stk.hold.getLsbD (stackAt p.1 (p.2 + 1024 * i)) || installingAt s p.1 (p.2 + 1024 * i)

/-- The line is open in a slot whose Stack lines wait (R314, R324). -/
def slotWaits (s : State) (half : Bool) (l : Nat) : Bool :=
  match tfind s.loft.openLines (lineKey half l) with
  | some o => match o.place with | .slot n => slotHeld s o.pad n | _ => false
  | none => false

/-- A request to a Stack line waits: its stack is held, a stand-in is being installed, the granule is being refetched, the slice is being retired, or for a
write a mark has not yet copied the granule (R273, R314, R324, R467, R476, R498). -/
def lineHold (half : Bool) (a : Nat) (write : Bool) (s : State) : State × Bool :=
  let g := a / granBytes
  if s.stk.hold.getLsbD (stackAt half a) || slotWaits s half (a / 1024) || zeroing s false half g || installingAt s half a || refetching s half g ||
      retiring s (homeDie half a) (sliceOfLine (a / 1024)) then (s, true)
  else if write && markPending s half g then (wantGranule half g s, true)
  else (s, false)

/-! ## An engine and its requests -/

/-- Whose request it is: paddock, tag and epoch of its translation (R290), the lookaside it translates by (R286), hint, `.last`, the core whose L1 fills, the
team whose own access it is, and whether it is a stream (R288). -/
structure Eng where
  pad    : Nat
  tag    : Nat
  epoch  : W16
  look   : Nat
  hint   : BitVec 2
  last   : Bool
  core   : Option (Fin 1024)
  team   : Option (Nat × Nat × Nat)
  stream : Bool
  /-- the tokens of what it asks for are drawn elsewhere, or no bucket counts it -/
  paid   : Bool := false
  deriving DecidableEq, Repr

/-- How an engine uses the Loft in an extent (R246, R254, R256). -/
def Eng.use (g : Eng) (e : Extent) (core : Option (Fin 1024)) : Use :=
  { pad := g.pad, cls := classOf g.hint e, last := g.last && !e.shared, core := core, team := g.team }

/-- The engine has translated a part of its range by its lookaside (R286, R288). -/
def Eng.noteLook (g : Eng) (va n : Nat) (s : State) : State :=
  let s := Machine.noteLook g.look g.tag g.epoch va s
  if g.stream then prefetchLook g.look g.tag g.epoch (va + n) s else s

/-- The lines of a range and where each goes: none where R282 or R284 refuses it. -/
def places (s : State) (g : Eng) (barn write : Bool) (va n : Nat) : List (Nat × Nat × Option (Extent × Nat)) :=
  (chunks va n).map fun c => (c.1, c.2, reach s (tableSeen s g.look g.tag g.epoch) g.pad g.tag barn write c.1)

/-- Whether a range must wait, with the state that its waiting leaves. -/
def rangeHold (g : Eng) (barn write : Bool) (va n : Nat) (s : State) : State × Bool :=
  (places s g barn write va n).foldl (fun (acc : State × Bool) c =>
    if acc.2 then acc
    else match c.2.2 with
      | none => acc
      | some (e, a) =>
        if barn then (acc.1, zeroing acc.1 true e.half (a / granBytes))
        else
          let h := lineHold e.half a write acc.1
          if h.2 then h
          else if addsAhead h.1 (lineKey e.half (a / 1024)) then (h.1, true)
          else migrHold g.tag e ((c.1 - e.vbase) / granBytes) h.1) (s, false)

/-- Some 64 B of a range within one Stack line is poisoned as the home slice would read it. -/
def linePoison (s : State) (half : Bool) (a n : Nat) : Bool :=
  let key := lineKey half (a / 1024)
  (List.range (ceilDiv (a % 64 + n) 64)).any fun i =>
    let u := a % 1024 / 64 + i
    match tfind s.loft.openLines key with
    | some o => o.poison.contains u
    | none => match tfind s.loft.frames key with
      | some f => if f.valid.getLsbD (u / 4) then f.poison.contains u else poisoned s half false (a / 64 + i)
      | none => poisoned s half false (a / 64 + i)

/-- The line is dirty in the Loft at an address (R468). -/
def lineDirty (s : State) (half : Bool) (a : Nat) : Bool :=
  match tfind s.loft.frames (lineKey half (a / 1024)) with
  | some f => f.dirty.getLsbD (a % 1024 / 256)
  | none => false

/-- What a read that would consume a range meets (R465, R466). -/
inductive PoisonCase where
  | clean
  | refetch (half : Bool) (gran : Nat) (lostw : Bool)
  | consume (half barn : Bool) (a : Nat)
  deriving DecidableEq, Repr

/-- The first poisoned line of a range. -/
def rangePoison (s : State) (g : Eng) (barn : Bool) (va n : Nat) : PoisonCase :=
  match (places s g barn false va n).filterMap fun c => match c.2.2 with
      | some (e, a) =>
        if barn then (if (List.range (ceilDiv (a % 64 + c.2.1) 64)).any fun i => poisoned s e.half true (a / 64 + i) then some (e.half, a) else none)
        else if linePoison s e.half a c.2.1 then some (e.half, a) else none
      | none => none with
  | [] => .clean
  | (half, a) :: _ =>
    if barn then .consume half true a
    else if (secondCopy s half (a / granBytes)).isSome then .refetch half (a / granBytes) (lineDirty s half a)
    else .consume half false a

/-- A range read: bytes (zero where refused), the offsets of poisoned 16 B, and whether a refusal was met. Nothing is held. -/
def rangeRead (g : Eng) (barn : Bool) (va n : Nat) (s : State) : State × List Byte × List Nat × Bool :=
  (places s g barn false va n).foldl (fun (acc : State × List Byte × List Nat × Bool) c =>
    let (s, bs, psn, ref) := acc
    let s := g.noteLook c.1 c.2.1 s
    match c.2.2 with
    | none => (s, bs ++ List.replicate c.2.1 0, psn, true)
    | some (e, a) =>
      if barn then
        let bad := (List.range (c.2.1 / 16)).filter fun i => poisoned s e.half true ((a + 16 * i) / 64)
        (s, bs ++ mreads (barnMem s e.half) a c.2.1, psn ++ bad.map (fun i => bs.length + 16 * i), ref)
      else
        let bad := (List.range (c.2.1 / 16)).filter fun i => linePoison s e.half (a + 16 * i) 16
        let (s, x, _) := stackRead (g.use e g.core) e.half a c.2.1 s
        (s, bs ++ x, psn ++ bad.map (fun i => bs.length + 16 * i), ref)) (s, [], [], false)

/-- Poison set on 64 B of a Stack line as the home slice holds it. -/
def poisonLine (half : Bool) (a : Nat) (s : State) : State :=
  let key := lineKey half (a / 1024)
  match tfind s.loft.frames key with
  | some f => if f.valid.getLsbD (a % 1024 / 256) then setFrames (tput s.loft.frames key { f with poison := a % 1024 / 64 :: f.poison }) s
              else poisonUnit half (a / 64) s
  | none => poisonUnit half (a / 64) s

/-- A range written, with poison at some offsets (R465). Refused parts are dropped. Nothing is held. -/
def rangeWrite (g : Eng) (barn : Bool) (va : Nat) (bs : List Byte) (psn : List Nat) (s : State) : State × Bool :=
  (places s g barn true va bs.length).foldl (fun (acc : State × Bool) c =>
    let acc := (g.noteLook c.1 c.2.1 acc.1, acc.2)
    let off := c.1 - va
    let part := (bs.drop off).take c.2.1
    let bad := psn.filter fun i => off ≤ i && i < off + c.2.1
    match c.2.2 with
    | none => (acc.1, true)
    | some (e, a) =>
      if barn then
        let s := setBarnMem e.half (mwrites (barnMem acc.1 e.half) a part) acc.1
        let s := ((List.range (c.2.1 / 64 + 1)).filter fun i => a ≤ 64 * (ceilDiv a 64 + i) && 64 * (ceilDiv a 64 + i + 1) ≤ a + c.2.1).foldl
          (fun t i => setPoison e.half true (ceilDiv a 64 + i) false t) s
        (bad.foldl (fun t i => setPoison e.half true ((a + (i - off)) / 64) true t) s, acc.2)
      else
        let s := stackWrite (g.use e none) e.half a part acc.1
        (bad.foldl (fun t i => poisonLine e.half (a + (i - off)) t) s, acc.2)) (s, false)

/-- Poison of a commons range. -/
def commonsPoison (s : State) (pad o n : Nat) : Bool :=
  (commonsSpan s pad o n).any fun b => match b with | some x => s.mem.cpoison.contains (x / 64) | none => false

/-- A LOFT range waits while a slice it touches is being retired (R273). -/
def commonsHold (s : State) (pad o n : Nat) : Bool :=
  (commonsSpan s pad o n).any fun b => match b with | some x => retiring s (commonsSlice x).1 (commonsSlice x).2 | none => false

/-! ## LOCAL (R92, R93) -/

/-- A block's local store changed by f. -/
def modLocal (core slot : Nat) (f : Mem → Mem) (s : State) : State := modBlock core slot (fun b => { b with loc := f b.loc }) s

/-- Bytes of local store that a block has. -/
def localBytes (b : Block) : Nat := 4096 * bitsOf b.shape.toNat 22 16

/-- A LOCAL access of n bytes breaks R93. own: only the block's own local store may be named (R136). -/
def localBad (b : Block) (own : Bool) (addr n : Nat) : Bool :=
  let shared := bitOf addr 23
  let member := bitsOf addr 22 19
  decide (addr ≥ 2 ^ 24) || (!shared && member != 0) || (shared && own) || (shared && decide (member > bitsOf b.shape.toNat 27 24)) ||
  decide (addr % 524288 + n > localBytes b)

/-- The core and slot whose local store a LOCAL address of a block names, and the offset. -/
def localPlace (b : Block) (core slot addr : Nat) : Nat × Nat × Nat :=
  if bitOf addr 23 then
    match b.string[bitsOf addr 22 19]? with
    | some p => (p.1, p.2, addr % 524288)
    | none => (core, slot, addr % 524288)
  else (core, slot, addr % 524288)

def readLocal (s : State) (core slot o n : Nat) : List Byte :=
  match getBlock s core slot with
  | some b => mreads b.loc o n
  | none => List.replicate n 0

/-! ## Atomics (R114) -/

/-- The new value of an atomic of 8 × bytes bits, with the flags of an fadd (R56). -/
def atomicOp (aop : Nat) (signed : Bool) (bytes old b c : Nat) : Nat × Flags :=
  let w := 8 * bytes
  let less := if signed then decide (toSigned w old < toSigned w b) else decide (old < b)
  match aop with
  | 0 => ((old + b) % 2 ^ w, noFlags)
  | 1 => (if less then old else b, noFlags)
  | 2 => (if less then b else old, noFlags)
  | 3 => (old &&& b, noFlags)
  | 4 => (old ||| b, noFlags)
  | 5 => (old ^^^ b, noFlags)
  | 6 => (b, noFlags)
  | 7 => (if old = b then c else old, noFlags)
  | _ => fAdd fp32 .rn old b

/-- One lane performed at a memory that reads old: what it leaves there, if it writes, what it read, and its flags. -/
def laneOp (a : Access) (l : LaneAcc) (old : Nat) : Option Nat × Nat × Flags :=
  match a.kind with
  | .ld => (none, old, noFlags)
  | .st => (some l.data, 0, noFlags)
  | .atom => let r := atomicOp a.aop.toNat a.signed a.bytes old l.data l.cmp; (some r.1, old, r.2)
  | .red => let r := atomicOp a.aop.toNat a.signed a.bytes old l.data l.cmp; (some r.1, 0, r.2)

/-! ## Engine order (R211 to R219) -/

/-- Bytes as (domain, start, length): commons 0, a Stack half 1 and 2, the local store of core c and slot k 16 c + k + 3. -/
abbrev Span := Nat × Nat × Nat

def Span.meets (x y : Span) : Bool := x.1 == y.1 && decide (x.2.1 < y.2.1 + y.2.2) && decide (y.2.1 < x.2.1 + x.2.2)

/-- The memory bytes of n bytes at a core's address in a space. -/
def spansAt (s : State) (pad tag : Nat) (epoch : W16) (core slot : Nat) (space : Nat) (addr n : Nat) : List Span :=
  if space = 0 then
    match getBlock s core slot with
    | some b => let p := localPlace b core slot addr; [(16 * p.1 + p.2.1 + 3, p.2.2, n)]
    | none => []
  else if space = 1 then [(0, addr, n)]
  else (chunks addr n).filterMap fun c => (reach s (tableAt s tag epoch) pad tag false false c.1).map fun x => (1 + b2n x.1.half, x.2, c.2)

def accSpans (s : State) (a : Access) : List Span :=
  a.lanes.flatMap fun l => spansAt s a.pad a.tag a.epoch a.core a.slot a.space.val l.addr a.bytes

/-- Two accesses of one team are ordered: all in a compact paddock, else those that touch a common byte, and string-shared ones to one member (R212, R213,
R219). -/
def ordered (compact : Bool) (xs ys : List Span) : Bool :=
  compact || xs.any (fun x => ys.any fun y => Span.meets x y) || xs.any fun x => decide (3 ≤ x.1) && ys.any fun y => x.1 == y.1

/-- Source bytes of a copy from offset i on for n bytes, by rows. -/
def CopyRun.srcAt (c : CopyRun) (i : Nat) : Nat := c.saddr + i / c.rowLen * c.sstride + i % c.rowLen

def CopyRun.dstAt (c : CopyRun) (i : Nat) : Nat := c.daddr + i / c.rowLen * c.dstride + i % c.rowLen

def CopyRun.total (c : CopyRun) : Nat := c.rowLen * c.rows

/-- Source bytes of a copy. -/
def copySpans (s : State) (c : CopyRun) : List Span :=
  (List.range c.rows).flatMap fun r => spansAt s c.pad c.tag c.epoch c.core c.slot c.sspace.val (c.saddr + r * c.sstride) c.rowLen

/-- Groups of a team that wait in a post.wait or a path.send issued before an access (R228, R211). -/
def groupsBefore (s : State) (core slot team id : Nat) (post : Bool) : List TGroup :=
  match getTeam s core slot team with
  | none => []
  | some t => t.ring.filter fun g => match g.wait with
    | some (.post _ since) => post && decide (since ≤ id)
    | some (.send _ _ _ _ _ since _) => !post && decide (since ≤ id)
    | _ => false

/-- Source bytes of the path.send that a group waits in. -/
def sendSpans (s : State) (core slot : Nat) (g : TGroup) : List Span :=
  match g.wait with
  | some (.send _ addr len ..) => spansAt s 0 0 0 core slot 0 addr len
  | _ => []

/-- Something that the team issued before access number id and that touches these bytes has still to be performed first. -/
def blockedBy (s : State) (core slot team id : Nat) (compact : Bool) (xs : List Span) : Bool :=
  !(groupsBefore s core slot team id true).isEmpty ||
  (compact && s.posts.upds.any fun u => u.team == some (core, slot, team) && decide (u.since ≤ id)) ||
  (s.accs.any fun b => b.core == core && b.slot == slot && b.team == team && decide (b.id < id) && !b.performed && ordered compact xs (accSpans s b)) ||
  (groupsBefore s core slot team id false).any fun g => ordered compact xs (sendSpans s core slot g)

/-- Earlier copies of the team whose source reads come before these bytes. -/
def copiesBefore (s : State) (core slot team id : Nat) (compact : Bool) (xs : List Span) : List CopyRun :=
  s.copies.filter fun c => c.core == core && c.slot == slot && c.team == team && decide (c.id < id) && decide (c.read < c.total) &&
    ordered compact xs (copySpans s c)

/-! ## Job faults of accesses -/

def Access.unit (a : Access) : JobUnit := { utype := 1, uindex := a.core, pad := a.pad, block := a.block, team := a.team, stage := a.stage, pc := a.pc }

def CopyRun.unit (c : CopyRun) : JobUnit := { utype := 1, uindex := c.core, pad := c.pad, block := c.block, team := c.team, stage := c.stage, pc := c.pc }

def putAccess (a : Access) (s : State) : State := { s with accs := s.accs.map fun b => if b.id == a.id then a else b }

def dropAccess (id : Nat) (s : State) : State := { s with accs := s.accs.filter fun b => b.id != id }

def putCopy (c : CopyRun) (s : State) : State := { s with copies := s.copies.map fun b => if b.id == c.id then c else b }

/-! ## The shared arbiters (R400) -/

/-- The crossbar port of the home slice and the controller of the stack of a Stack address. -/
def stackArbiters (half : Bool) (a : Nat) : List Nat := [32 * homeDie half a + sliceOfLine (a / 1024), 1000 + stackAt half a]

/-- The crossbar port of the slice of a commons offset. -/
def commonsArbiters (s : State) (pad o : Nat) : List Nat :=
  match commonsByte s pad o with
  | some b => [32 * (commonsSlice b).1 + (commonsSlice b).2]
  | none => []

/-- The arbiters that a range of an engine meets: of its slices, stacks and Barn channels. -/
def rangeArbiters (s : State) (g : Eng) (space : Nat) (write : Bool) (va n : Nat) : List Nat :=
  if space = 1 then (chunks va n).flatMap fun c => commonsArbiters s g.pad c.1
  else if space = 0 then []
  else (places s g (space == 3) write va n).flatMap fun c => match c.2.2 with
    | some (e, a) => if space = 3 then [2000 + barnChannel e.half a] else stackArbiters e.half a
    | none => []

/-- The arbiters that an access meets. -/
def accArbiters (s : State) (a : Access) : List Nat :=
  a.lanes.flatMap fun l =>
    if a.space = 1 then commonsArbiters s a.pad l.addr
    else match reach s (tableSeen s (coreLook a.core) a.tag a.epoch) a.pad a.tag false false l.addr with
      | some (e, x) => stackArbiters e.half x
      | none => []

/-- A request of a higher level waits at one of some arbiters: an access that has left its engine and is not yet performed (R400). -/
def outranked (s : State) (l : Level) (arbiters : List Nat) : Bool :=
  s.accs.any fun b => !b.performed && !b.adding && b.level.any (fun k => k.over l) && (accArbiters s b).any arbiters.contains

/-! ## Source reads of copies -/

/-- One run of source bytes of a copy within a row, at most a Stack line: bytes, poisoned offsets, a refusal; wait: it is held; fault: poison is consumed. -/
inductive ReadOut where
  | wait (s : State)
  | fault (s : State)
  | done (s : State) (bs : List Byte) (psn : List Nat) (refused : Bool)

/-- What a request of an engine draws on: the buckets of a read or a write of n bytes in a space (R398). -/
def bucketUse (space n : Nat) (write : Bool) : List (Fin 4 × Nat) :=
  if space = 1 then [(2, n)] else if space = 2 then [(if write then 1 else 0, n), (2, n)] else []

/-- A request leaves its engine: it has its tokens, and at no arbiter does a request of a higher level wait (R399, R400). False: it waits. -/
def leaveWith (pad : Nat) (use : List (Fin 4 × Nat)) (arbiters : List Nat) (s : State) : State × Bool :=
  let r := draw pad use s
  match r.2 with
  | none => (r.1, false)
  | some l => if outranked s l arbiters then (s, false) else (r.1, true)

/-- A read or a write of n bytes of a space leaves its engine. -/
def leaveEngine (g : Eng) (space : Nat) (write : Bool) (addr n : Nat) (s : State) : State × Bool :=
  if g.paid then (s, true) else leaveWith g.pad (bucketUse space n write) (rangeArbiters s g space write addr n) s

/-- A read of n bytes of a space by an engine. consume: the destination consumes poison (R465). -/
def engineRead (g : Eng) (space core slot : Nat) (addr n : Nat) (consume : Bool) (s : State) : ReadOut :=
  if space = 0 then
    match getBlock s core slot with
    | some b => let p := localPlace b core slot addr; .done s (readLocal s p.1 p.2.1 p.2.2 n) [] false
    | none => .done s (List.replicate n 0) [] false
  else if space = 1 then
    if commonsHold s g.pad addr n then .wait s
    else if commonsPoison s g.pad addr n && consume then .fault s
    else
      let r := leaveEngine g space false addr n s
      if !r.2 then .wait r.1
      else
        let x := commonsRead g.pad none addr n r.1
        .done x.1 x.2.1 (if x.2.2 then (List.range (n / 16)).map (16 * ·) else []) false
  else
    let h := rangeHold g (space == 3) false addr n s
    if h.2 then .wait h.1
    else match (if consume then rangePoison h.1 g (space == 3) addr n else .clean) with
      | .refetch half gr lostw => .wait (startRefetch half gr lostw h.1)
      | .consume _ _ _ => .fault h.1
      | .clean =>
        let r := leaveEngine g space false addr n h.1
        if !r.2 then .wait r.1
        else
          let x := rangeRead g (space == 3) addr n r.1
          .done x.1 x.2.1 x.2.2.1 x.2.2.2

/-- A write of bytes by an engine: held, or done, with whether a refusal was met. -/
def engineWrite (g : Eng) (space core slot : Nat) (addr : Nat) (bs : List Byte) (psn : List Nat) (s : State) : State × Bool × Bool :=
  if space = 0 then
    match getBlock s core slot with
    | some b => let p := localPlace b core slot addr; (modLocal p.1 p.2.1 (fun m => mwrites m p.2.2 bs) s, false, false)
    | none => (s, false, false)
  else if space = 1 then
    if commonsHold s g.pad addr bs.length then (s, true, false)
    else
      let r := leaveEngine g space true addr bs.length s
      if r.2 then (commonsWrite g.pad addr bs r.1, false, false) else (r.1, true, false)
  else
    let h := rangeHold g (space == 3) true addr bs.length s
    if h.2 then (h.1, true, false)
    else
      let r := leaveEngine g space true addr bs.length h.1
      if !r.2 then (r.1, true, false)
      else
        let w := rangeWrite g (space == 3) addr bs psn r.1
        (w.1, false, w.2)

/-- The engine of a copy. -/
def CopyRun.eng (c : CopyRun) : Eng :=
  { pad := c.pad, tag := c.tag, epoch := c.epoch, look := coreLook c.core, hint := 0, last := false, core := none, team := none, stream := true }

/-- Source bytes of a copy read up to offset upto, row piece by row piece: true where a piece is held or the copy has faulted. -/
def readCopy (fuel id upto : Nat) (s : State) : State × Bool :=
  match fuel with
  | 0 => (s, false)
  | k + 1 => match s.copies.find? fun c => c.id == id with
    | none => (s, true)
    | some c =>
      if upto ≤ c.read then (s, false)
      else if blockedBy s c.core c.slot c.team c.id c.compact (copySpans s c) then (s, true)
      else
        let n := min (min (upto - c.read) (c.rowLen - c.read % c.rowLen)) (min 1024 (grantBytes s c.pad [0, 2]))
        match engineRead c.eng c.sspace.val c.core c.slot (c.srcAt c.read) n (c.dspace.val != 2) s with
        | .wait s => (s, true)
        | .fault s => (jobFault c.unit uncorrectableFault 0 s, true)
        | .done s bs psn ref =>
          let s := countRefusal c.pad ref c.refused s
          readCopy k id upto (putCopy { c with buf := mwrites c.buf c.read bs, psn := c.psn ++ psn.map (c.read + ·), read := c.read + n,
                                               refused := c.refused || ref } s)

/-- All source reads of some copies: true where one is held. -/
def readCopies (cs : List CopyRun) (s : State) : State × Bool :=
  cs.foldl (fun (acc : State × Bool) c => if acc.2 then acc else readCopy (c.rows + c.total / 1024 + 2) c.id c.total acc.1) (s, false)

end Sys2Proof.Machine
end

