-- ==== Sys2Proof/Machine/Traffic.lean ====
section
/-! DEFINITION. Accesses in flight, copies, adds to lines and post updates as they are performed (R94, R117, R119, R156, R223, R227, R258 to R268). -/

namespace Sys2Proof.Machine

def findAcc (s : State) (id : Nat) : Option Access := s.accs.find? fun a => a.id == id && !a.performed && !a.adding && !a.lost

/-- The engine of an access. -/
def Access.eng (a : Access) : Eng :=
  { pad := a.pad, tag := a.tag, epoch := a.epoch, look := coreLook a.core, hint := a.hint, last := a.last, team := some (a.core, a.slot, a.team), stream := false,
    core := match a.kind with | .ld => if a.ro then none else some (Fin.ofNat 1024 a.core) | _ => none }

/-- The flags of an operation performed at memory reach the issuing team (R56; DEDUCED, log 17). -/
def teamFlags (a : Access) (f : Flags) (s : State) : State :=
  if f = noFlags then s else modTeam a.core a.slot a.team (addFlags f) s

/-! ## LOCAL -/

/-- The lanes of a LOCAL access performed at the local stores they name, in ascending order (R117). -/
def localLanes (a : Access) (s : State) : State × List LaneAcc :=
  a.lanes.foldl (fun (acc : State × List LaneAcc) l =>
    match getBlock acc.1 a.core a.slot with
    | none => (acc.1, acc.2 ++ [l])
    | some b =>
      let p := localPlace b a.core a.slot l.addr
      let r := laneOp a l (leNat (readLocal acc.1 p.1 p.2.1 p.2.2 a.bytes))
      let s := match r.1 with
        | some v => modLocal p.1 p.2.1 (fun m => mwrites m p.2.2 (leBytes a.bytes v)) acc.1
        | none => acc.1
      (teamFlags a r.2.2 s, acc.2 ++ [{ l with got := r.2.1 }])) (s, [])

/-- An access is performed and waits for its return, behind those performed before it. -/
def performed (a : Access) (s : State) : State := { s with accs := (s.accs.filter fun b => b.id != a.id) ++ [{ a with performed := true }] }

/-- An access that has been performed: a load or atomic waits for its return, a store or red is over. -/
def afterPerform (a : Access) (lanes : List LaneAcc) (s : State) : State :=
  match a.kind with
  | .ld => performed { a with lanes := lanes } s
  | .atom => performed { a with lanes := lanes } s
  | _ => dropAccess a.id s

/-- The cores whose local stores a LOCAL access names. -/
def localCores (s : State) (a : Access) : List Nat :=
  match getBlock s a.core a.slot with
  | some b => a.lanes.map fun l => (localPlace b a.core a.slot l.addr).1
  | none => []

/-- Two LOCAL accesses have packets between the same two routers. -/
def sameRoute (s : State) (a b : Access) : Bool :=
  a.space == 0 && b.space == 0 && a.core == b.core && (localCores s a).any (localCores s b).contains

/-- Something of its own team comes before the access: it has not been sent. -/
def unsent (s : State) (a : Access) : Bool :=
  blockedBy s a.core a.slot a.team a.id a.compact (accSpans s a) || !(copiesBefore s a.core a.slot a.team a.id a.compact (accSpans s a)).isEmpty

/-- A LOCAL_REQ that went the same way before it has not arrived (R151). Requests to the Loft part at the edge port, where R151 ends (DEDUCED, log 112). -/
def reqBehind (s : State) (a : Access) : Bool :=
  s.accs.any fun b => decide (b.id < a.id) && !b.performed && !b.lost && sameRoute s a b && !unsent s b

/-- A LOCAL_RSP that went the same way before it has not arrived (R151). -/
def rspBehind (s : State) (a : Access) : Bool :=
  (s.accs.takeWhile fun b => b.id != a.id).any fun b => b.performed && !b.lost && sameRoute s a b

/-- A LOCAL access that waited is performed (R94). -/
def localReq (id : Nat) (s : State) : State :=
  match findAcc s id with
  | none => s
  | some a =>
    if a.space ≠ 0 || blockedBy s a.core a.slot a.team a.id a.compact (accSpans s a) || reqBehind s a then s
    else
      let r := readCopies (copiesBefore s a.core a.slot a.team a.id a.compact (accSpans s a)) s
      if r.2 then r.1
      else
        let x := localLanes a r.1
        afterPerform a x.2 x.1

/-- The reply of an access reaches its registers (R114); the upper bits of a register that 8 or 16 bits are loaded into are zero (DEDUCED, log 18). -/
def returnAcc (a : Access) (s : State) : State :=
  dropAccess a.id (modTeam a.core a.slot a.team
    (writeLanes (max 1 (a.bytes / 4)) a.dst (a.lanes.map fun l => (l.lane, l.got))) s)

def accRsp (space0 : Bool) (id : Nat) (s : State) : State :=
  match s.accs.find? fun a => a.id == id && a.performed && !a.lost && (a.space == 0) == space0 with
  | some a => if rspBehind s a then s else returnAcc a s
  | none => s

/-! ## Accesses that are held (R84, R268, R399) -/

/-- The group that issued an access waits while the access is held at its engine by a bucket or at a slice, unless something else holds it already. -/
def holdGroup (a : Access) (s : State) : State :=
  modTeam a.core a.slot a.team (fun t =>
    { t with ring := t.ring.map fun g => if g.wait.isNone && a.lanes.any (fun l => g.mask.getLsbD l.lane) then { g with wait := some (.access a.id) } else g }) s

/-- The access is held no longer, and its group goes on. -/
def freeGroup (a : Access) (s : State) : State := modTeam a.core a.slot a.team (Team.releaseAll fun g => g.wait == some (.access a.id)) s

/-- A mesh packet of an access, its request where req and else its reply, is dropped at a router where its HCHK fails, and counted: the access goes no
further (R162). An access of a core to its own local store makes no packet. -/
def lostPkt (req : Bool) (id router : Nat) (s : State) : State :=
  if s.accs.any fun a => a.id == id && !a.lost && !a.adding && a.performed != req && (!req || !unsent s a) &&
      (a.space != 0 || (localCores s a).any (· != a.core)) then
    bump (1024 + coreDie router) 1 { s with accs := mapWhere (fun a => a.id == id) (fun a => { a with lost := true }) s.accs }
  else s

/-- The access, by its number, if it is in flight. -/
def accById (s : State) (id : Nat) : Option Access := s.accs.find? fun a => a.id == id

/-! ## LOFT and STACK -/

/-- One lane of an access to commons. -/
def commonsLane (a : Access) (l : LaneAcc) (s : State) : State × LaneAcc :=
  match a.kind with
  | .ld =>
    let x := commonsRead a.pad a.eng.core l.addr a.bytes s
    (x.1, { l with got := leNat x.2.1 })
  | _ =>
    let old := leNat ((commonsSpan s a.pad l.addr a.bytes).map fun b => match b with | some x => mread s.mem.commons x | none => 0)
    let r := laneOp a l old
    (teamFlags a r.2.2 (commonsWrite a.pad l.addr (leBytes a.bytes (r.1.getD 0)) s), { l with got := r.2.1 })

/-- The place of a lane's STACK address. -/
def lanePlace (s : State) (a : Access) (l : LaneAcc) (write : Bool) : Option (Extent × Nat) :=
  reach s (tableSeen s (coreLook a.core) a.tag a.epoch) a.pad a.tag false write l.addr

def Access.writes (a : Access) : Bool := match a.kind with | .ld => false | _ => true

/-- A constant-cache line that holds a Stack address (R252). -/
def constLine (s : State) (core : Nat) (half : Bool) (x : Nat) : Option RoLine :=
  (getCore s core).constant.find? fun r => r.half == half && r.line == x / 128

/-- A constant-cache line filled: at most 512 lines of 128 B, the latest first (R252; which line goes is a DESIGN CHOICE, log 19). -/
def fillConst (core : Nat) (half : Bool) (x : Nat) (bs : List Byte) (s : State) : State :=
  let c := getCore s core
  setCore core { c with constant := ({ half := half, line := x / 128, data := mwrites [] 0 bs } :: c.constant).take 512 } s

/-- The place of a lane in the L1: whether in commons, its sector, its offset there. -/
def l1Place (s : State) (a : Access) (l : LaneAcc) : Option (Bool × Nat × Nat) :=
  if a.space = 1 then (commonsByte s a.pad l.addr).map fun x => (true, x / 256, x % 256)
  else (lanePlace s a l false).map fun p => (false, 4 * lineKey p.1.half (p.2 / 1024) + p.2 % 1024 / 256, p.2 % 256)

/-- What a lane of an ld reads in the core itself: in a constant-cache line (R252), or in an L1 sector (R251). A `.last` access goes to its line. -/
def laneHit (s : State) (a : Access) (l : LaneAcc) : Option Nat :=
  match a.kind with
  | .ld =>
    if a.ro then
      if a.space = 2 then
        match lanePlace s a l false with
        | some (e, x) => (constLine s a.core e.half x).map fun r => leNat (mreads r.data (x % 128) a.bytes)
        | none => none
      else none
    else if a.last then none
    else match l1Place s a l with
      | some (c, k, o) => (findL1 s a.core c k).map fun x => leNat (mreads x.data o a.bytes)
      | none => none
  | _ => none

/-- The lanes that leave the core. -/
def lanesOut (s : State) (a : Access) : List LaneAcc := a.lanes.filter fun l => (laneHit s a l).isNone

/-- A lane of a red with fadd on STACK is an add-to-line, unless `.last` has an effect on it, which then closes the line (R254, R256, R258, R262). -/
def laneAdds (a : Access) (e : Extent) : Bool :=
  match a.kind with
  | .red => a.aop == 8 && !(a.last && !e.shared)
  | _ => false

/-- An add-to-line of one value is queued at its home slice (R258). -/
def queueAdd (a : Access) (l : LaneAcc) (e : Extent) (x : Nat) (s : State) : State :=
  let r : AddReq := { id := s.loft.nextAdd, pad := a.pad, half := e.half, line := x / 1024, anchor := none,
                      vals := [(x % 1024 / 4, BitVec.ofNat 32 l.data)], longs := [], cls := classOf a.hint e, src := .access a.id, waits := false }
  { s with loft := { s.loft with adds := s.loft.adds ++ [r], nextAdd := s.loft.nextAdd + 1 } }

/-- A hit in a core's own caches still makes its line the most recently used of its set, with the class of its hint (R246; DEDUCED, log 131). -/
def touchLine (u : Use) (key : Nat) (s : State) : State :=
  match tfind s.loft.frames key with
  | some f => storeLine u key f s
  | none => s

/-- One lane of an access to STACK; true where a refusal was met. -/
def stackLane (a : Access) (l : LaneAcc) (s : State) : State × LaneAcc × Bool :=
  let s := a.eng.noteLook l.addr a.bytes s
  match lanePlace s a l a.writes with
  | none => (s, { l with got := 0 }, true)
  | some (e, x) =>
    let u := a.eng.use e a.eng.core
    match a.kind with
    | .ld => match laneHit s a l with
      | some v => (if a.ro then s else touchLine u (lineKey e.half (x / 1024)) s, { l with got := v }, false)
      | none =>
        if a.ro then
          let r := stackRead u e.half (x - x % 128) 128 s
          let s := if a.nokeep then r.1 else fillConst a.core e.half x r.2.1 r.1
          (s, { l with got := leNat ((r.2.1.drop (x % 128)).take a.bytes) }, false)
        else
          let r := stackRead u e.half x a.bytes s
          (r.1, { l with got := leNat r.2.1 }, false)
    | .st => (stackWrite u e.half x (leBytes a.bytes l.data) s, l, false)
    | _ =>
      if laneAdds a e then (queueAdd a l e x s, l, false)
      else
        let r := stackRead u e.half x a.bytes s
        let o := laneOp a l (leNat r.2.1)
        (teamFlags a o.2.2 (stackWrite u e.half x (leBytes a.bytes (o.1.getD 0)) r.1), { l with got := o.2.1 }, false)

/-- The lines that the `.last` of an access drops (R254, R256). -/
def lastLines (s : State) (a : Access) : List Nat :=
  if a.last then a.lanes.filterMap fun l => match lanePlace s a l a.writes with
    | some (e, x) => if e.shared then none else some (lineKey e.half (x / 1024))
    | none => none
  else []

/-- Whether some lane of an access must wait at its slice. -/
def lanesHold (a : Access) (s : State) : State × Bool :=
  (lanesOut s a).foldl (fun (acc : State × Bool) l =>
    if acc.2 then acc
    else if a.space = 1 then (acc.1, commonsHold acc.1 a.pad l.addr a.bytes)
    else
      match lanePlace acc.1 a l a.writes with
      | none => acc
      | some (e, _) =>
        if laneAdds a e then migrHold a.tag e ((l.addr - e.vbase) / granBytes) acc.1
        else rangeHold a.eng false a.writes l.addr a.bytes acc.1) (s, false)

/-- The first poisoned line that an access reads. An add-to-line meets it at its line. -/
def lanesPoison (s : State) (a : Access) : PoisonCase :=
  match a.kind with
  | .st => .clean
  | _ =>
    if a.space = 1 then (if (lanesOut s a).any fun l => commonsPoison s a.pad l.addr a.bytes then .consume false false 0 else .clean)
    else (lanesOut s a).foldl (fun p l => match p, lanePlace s a l a.writes with
      | .clean, some (e, _) => if laneAdds a e then .clean else rangePoison s a.eng false l.addr a.bytes
      | p, _ => p) .clean

/-- A partial write reads its sector first: the sector is not valid in a frame, and a frame is there for it or can be had (R244). -/
def storeFills (s : State) (a : Access) (half : Bool) (x : Nat) : Bool :=
  match tfind s.loft.frames (lineKey half (x / 1024)) with
  | some f => !f.valid.getLsbD (x % 1024 / 256)
  | none => !a.last && !(cacheUnits s a.pad half).isEmpty

/-- What the access finds in the memory it reads first, outside its core (R271, R308, R309). -/
def accEcc (a : Access) (found : EccResult) (s : State) : State :=
  match lanesOut s a with
  | [] => s
  | l :: _ =>
    if a.space = 1 then (match a.kind with | .st => s | _ => commonsEcc a.pad l.addr found s)
    else match lanePlace s a l a.writes with
      | some (e, x) => match a.kind with
        | .st => if storeFills s a e.half x then homeEcc e.half x found s else s
        | _ => lineEcc e.half x found s
      | none => s

/-- The bytes that an access draws from the buckets: of the lanes that cross the core's edge port (R398). -/
def accUse (s : State) (a : Access) : List (Fin 4 × Nat) := bucketUse a.space.val (a.bytes * (lanesOut s a).length) a.writes

/-- An access to LOFT or STACK performed: all its lanes together (DEDUCED, log 20). -/
def performAcc (a : Access) (s : State) : State :=
  if a.space = 1 then
    let x := a.lanes.foldl (fun (acc : State × List LaneAcc) l => let r := commonsLane a l acc.1; (r.1, acc.2 ++ [r.2])) (s, [])
    afterPerform a x.2 x.1
  else
    let x := a.lanes.foldl (fun (acc : State × List LaneAcc × Bool) l =>
      let r := stackLane a l acc.1
      (r.1, acc.2.1 ++ [r.2.1], acc.2.2 || r.2.2)) (s, [], false)
    let t := countRefusal a.pad x.2.2 false (dropLast a.pad (lastLines s a) x.1)
    if t.loft.adds.any fun q => q.src == .access a.id then putAccess { a with adding := true } t else afterPerform a x.2.1 t

/-- An access leaves its engine: it has a level already, or draws its bytes, or waits there and its group with it (R84, R399). -/
def leaveCore (a : Access) (s : State) : State × Option Access :=
  match a.level with
  | some _ => (s, some a)
  | none =>
    let d := draw a.pad (accUse s a) s
    match d.2 with
    | none => (holdGroup a d.1, none)
    | some l => (freeGroup a (putAccess { a with level := some l } d.1), some { a with level := some l })

/-- An access reaches its slices (R156): it waits for the team's earlier ones, for tokens, for what outranks it (R400) and for what holds it there, meets
poison, or is performed. -/
def loftReq (id : Nat) (found : EccResult) (s : State) : State :=
  match findAcc s id with
  | none => s
  | some a =>
    if a.space = 0 || blockedBy s a.core a.slot a.team a.id a.compact (accSpans s a) then s
    else
      let r := readCopies (copiesBefore s a.core a.slot a.team a.id a.compact (accSpans s a)) s
      if r.2 then r.1
      else match leaveCore a r.1 with
        | (s, none) => s
        | (s, some a) =>
          if a.level.any fun l => outranked s l (accArbiters s a) then s
          else
            let h := lanesHold a s
            if h.2 then h.1
            else
              let s := accEcc a found h.1
              match lanesPoison s a with
              | .clean => performAcc a s
              | .refetch half g lostw => startRefetch half g lostw s
              | .consume _ _ _ => jobFault a.unit uncorrectableFault 0 s

/-! ## Copies (R119) -/

/-- Destination bytes of a copy written from offset i on, run by run; returns how many landed. -/
def landCopy (fuel id upto : Nat) (s : State) : State :=
  match fuel with
  | 0 => s
  | k + 1 => match s.copies.find? fun c => c.id == id with
    | none => s
    | some c =>
      if upto ≤ c.done then s
      else
        let n := min (min (upto - c.done) (c.rowLen - c.done % c.rowLen)) (min 1024 (grantBytes s c.pad [1, 2]))
        let psn := (c.psn.filter fun i => c.done ≤ i && i < c.done + n).map (· - c.done)
        let w := engineWrite c.eng c.dspace.val c.core c.slot (c.dstAt c.done) (mreads c.buf c.done n) psn s
        if w.2.1 then w.1
        else
          let s := countRefusal c.pad w.2.2 c.refused w.1
          landCopy k id upto (putCopy { c with done := c.done + n, refused := c.refused || w.2.2 } s)

/-- Bytes of a copy land, and its post counts them. -/
def copyPart (id bytes : Nat) (found : EccResult) (s : State) : State :=
  match s.copies.find? fun c => c.id == id with
  | none => s
  | some c =>
    let upto := min (c.done + bytes) c.total
    let s := if c.read < c.total && c.sspace == 1 then commonsEcc c.pad (c.srcAt c.read) found s
      else if c.read < c.total && c.sspace == 2 then
        match reach s (tableSeen s (coreLook c.core) c.tag c.epoch) c.pad c.tag false false (c.srcAt c.read) with
        | some (e, x) => lineEcc e.half x found s
        | none => s
      else s
    let r := readCopies (copiesBefore s c.core c.slot c.team c.id c.compact (copySpans s c)) s
    if r.2 then r.1
    else
      let r := readCopy (c.rows + bytes / 1024 + 2) id upto r.1
      if r.2 then r.1
      else
        let s := landCopy (c.rows + bytes / 1024 + 2) id upto r.1
        match s.copies.find? fun c => c.id == id with
        | none => s
        | some c' =>
          let s := if c'.done = c.done then s else addOpt c.pad c.handle (c'.done - c.done) s
          if c'.done = c'.total then { s with copies := s.copies.filter fun x => x.id != id } else s

/-! ## Add-to-line (R258 to R269) -/

def findAdd (s : State) (id : Nat) : Option AddReq := s.loft.adds.find? fun r => r.id == id

def AddReq.key (r : AddReq) : Nat := lineKey r.half r.line

def putAdd (r : AddReq) (s : State) : State := { s with loft := { s.loft with adds := s.loft.adds.map fun x => if x.id == r.id then r else x } }

/-- One operation fewer is in flight through a window's opening under a WGEN. -/
def windowLess (win : Nat) (wgen : Byte) (s : State) : State :=
  let w := getWin s win
  let old := w.old.map fun o => if o.1 == wgen then (o.1, o.2.1 - 1, o.2.2) else o
  setWin win { w with inflight := if w.wgen == wgen then w.inflight - 1 else w.inflight, old := old } s

/-- A window post counts bytes that have landed, and one operation through the window is over (R295). -/
def windowLanded (win : Nat) (post : Option Nat) (bytes : Nat) (wgen : Byte) (s : State) : State :=
  let w := getWin s win
  let s := windowLess win wgen s
  match post with
  | some p => updHandle w.pad (BitVec.ofNat 32 p) false bytes [] [] s
  | none => s

/-- An add has been combined, or dropped: it lands (R264). -/
def landAdd (r : AddReq) (s : State) : State :=
  let s := { s with loft := { s.loft with adds := s.loft.adds.filter fun x => x.id != r.id } }
  match r.src with
  | .access id =>
    let s := match accById s id with | some a => freeGroup a s | none => s
    if s.loft.adds.any fun x => x.src == .access id then s else dropAccess id s
  | .window win post bytes wgen => windowLanded win post bytes wgen s

/-- A request waits at its slice for a pin, a slot or a record, and the group of an access with it (R84, R268). -/
def addWaits (r : AddReq) (s : State) : State :=
  let s := putAdd { r with waits := true } s
  match r.src with
  | .access id => match accById s id with | some a => holdGroup a s | none => s
  | .window .. => s

/-- Elements 0 to 254 of a line as addends under an anchor (R260). -/
def openContent (anchor : BitVec 10) (m : Mem) (o : OpenLine) : OpenLine :=
  (List.range 255).foldl (fun o k =>
    let v := leNat (mreads m (4 * k) 4)
    if v = 0 then o
    else
      let l := longEnter anchor (fp32.decode v)
      { o with longs := if l.bits = 0 then o.longs else tput o.longs k l.bits, ovf := o.ovf || l.ovf }) o

/-- One long form combined into element k of an open line (R67). -/
def combineElem (k : Nat) (l : LongForm) (o : OpenLine) : OpenLine :=
  let x := longCombine { bits := tget o.longs k 0, ovf := false, oppinf := false } l
  { o with longs := if x.bits = 0 then tdel o.longs k else tput o.longs k x.bits, ovf := o.ovf || x.ovf, oppinf := o.oppinf || x.oppinf }

/-- A request acts on an open line (R261). -/
def combineReq (r : AddReq) (o : OpenLine) : OpenLine :=
  if r.anchor.any fun a => a != o.anchor then { o with mismatch := true }
  else
    let o := r.vals.foldl (fun o e => if e.1 < 255 then combineElem e.1 (longEnter o.anchor (fp32.decode e.2.toNat)) o else o) o
    r.longs.foldl (fun o e => if e.1 < 255 then combineElem e.1 { bits := e.2, ovf := false, oppinf := false } o else o) o

/-- What a request to an open line drops is counted: all of it under another anchor, or its part at bytes 1,020 to 1,023. -/
def countDrops (r : AddReq) (o : OpenLine) (s : State) : State :=
  if (r.anchor.any fun a => a != o.anchor) || r.vals.any (fun e => decide (255 ≤ e.1)) || r.longs.any (fun e => decide (255 ≤ e.1)) then bumpPad r.pad 3 1 s
  else s

def pinsOf (s : State) (pad : Nat) (half : Bool) : Nat := pinLimit (cacheUnits s pad half).length

/-- Frames of the paddock in a set freed until six more pins fit. -/
def makeRoom (fuel pad key : Nat) (s : State) : State :=
  match fuel with
  | 0 => s
  | k + 1 =>
    let units := cacheUnits s pad (keyHalf key)
    let mine := framesIn s units key
    if mine.length + 6 * ((pinnedIn s pad key).length + 1) ≤ units.length then s
    else match victim mine with
      | some v => makeRoom k pad key (evictFrame v s)
      | none => s

/-- The open line that a request opens from the line's present content (R260). -/
def freshOpen (s : State) (r : AddReq) (anchor : BitVec 10) (place : LinePlace) : OpenLine :=
  openContent anchor (rawLine s r.half r.line)
    { pad := r.pad, anchor := anchor, longs := [], ovf := false, oppinf := false, mismatch := false, spilled := false, place := place, pinAge := s.loft.clock,
      poison := (List.range 16).filter fun i => linePoison s r.half (1024 * r.line + 64 * i) 64 }

/-- The line leaves its ordinary frame and is open, with the request combined. -/
def openWith (r : AddReq) (o : OpenLine) (s : State) : State :=
  let s := { s with loft := { s.loft with clock := s.loft.clock + 1 } }
  let s := countDrops r o (dropFrame r.key s)
  let o := combineReq r o
  let s := match o.place with
    | .slot n => setOpenLines (tput s.loft.openLines r.key { o with longs := [] }) (writeSlot r.pad n o (useSlot r.pad n true s))
    | _ => setOpenLines (tput s.loft.openLines r.key o) (makeRoom 64 r.pad r.key s)
  landAdd r s

/-- The line is on its way to a slot (R266). -/
def isSpilling (e : Nat × OpenLine) : Bool := match e.2.place with | .spilling _ => true | _ => false

/-- The pinned line of the paddock in a set that was pinned longest ago begins to spill, where a slot and a record are free (R266, R268). -/
def startSpill (r : AddReq) (s : State) : State :=
  let s := addWaits r s
  let pinned := (pinnedIn s r.pad r.key).filter fun e => e.2.place == .pinned
  let oldest := pinned.foldl (fun (b : Option (Nat × OpenLine)) e => match b with
    | some x => if e.2.pinAge < x.2.pinAge then some e else some x
    | none => some e) none
  let under := (pinnedIn s r.pad r.key).any isSpilling
  match oldest, freeSlot s r.pad r.half with
  | some (k, o), some n =>
    if under || !recordFree s k then s
    else setOpenLines (tput s.loft.openLines k { o with place := .spilling n }) (useSlot r.pad n true s)
  | _, _ => s

/-- How a request uses an ordinary line: with the class of its hint, and for the team of its access (R246). -/
def AddReq.use (r : AddReq) (s : State) : Use :=
  { pad := r.pad, cls := r.cls, last := false, core := none,
    team := match r.src with | .access id => (accById s id).map fun a => (a.core, a.slot, a.team) | .window .. => none }

/-- An FP32 add in place on an ordinary line (R259). -/
def plainAdd (r : AddReq) (s : State) : State :=
  let a := match r.src with | .access id => accById s id | .window .. => none
  let u := r.use s
  let s := r.vals.foldl (fun s e =>
    let x := stackRead u r.half (1024 * r.line + 4 * e.1) 4 s
    let v := fAdd fp32 .rn (leNat x.2.1) e.2.toNat
    let s := stackWrite u r.half (1024 * r.line + 4 * e.1) (leBytes 4 v.1) x.1
    match a with | some a => teamFlags a v.2 s | none => s) s
  landAdd r s

/-- The elements that a request adds to. -/
def AddReq.elems (r : AddReq) : List Nat := r.vals.map Prod.fst ++ r.longs.map Prod.fst

/-- The poison that a core's red with fadd meets in the old value it adds to (R465, R466). A remote add is no read (DEDUCED, log 113). -/
def addPoison (s : State) (r : AddReq) : PoisonCase :=
  match r.src with
  | .window .. => .clean
  | .access _ =>
    match r.elems.find? fun k => linePoison s r.half (1024 * r.line + 4 * k) 4 with
    | none => .clean
    | some k =>
      let a := 1024 * r.line + 4 * k
      if (tfind s.loft.openLines r.key).isNone && (secondCopy s r.half (a / granBytes)).isSome then
        .refetch r.half (a / granBytes) (lineDirty s r.half a)
      else .consume r.half false a

/-- The unit of a request's access raises UNCORRECTABLE. -/
def addFault (r : AddReq) (s : State) : State :=
  match r.src with
  | .access id => match accById s id with | some a => jobFault a.unit uncorrectableFault 0 s | none => s
  | .window .. => s

/-- Another request is ahead: an earlier one of the line, or an earlier one of the set that waits for a pin (R264, R268). -/
def addBehind (s : State) (r : AddReq) : Bool :=
  (s.loft.adds.takeWhile fun x => x.id != r.id).any fun x => x.key == r.key || (x.waits && sameSet x.key r.key)

/-- An add request is performed at its home slice, begins a spill or a reload, or waits (R259 to R268). -/
def addToLine (id : Nat) (s : State) : State :=
  match findAdd s id with
  | none => s
  | some r =>
    let h := lineHold r.half (1024 * r.line) true s
    if h.2 then h.1
    else if addBehind s r then s
    else match addPoison s r with
    | .refetch half g lostw => startRefetch half g lostw s
    | .consume _ _ _ => addFault r s
    | .clean =>
      let s := markDirty r.half (1024 * r.line) s
      let limit := pinsOf s r.pad r.half
      let pins := (pinnedIn s r.pad r.key).length
      match tfind s.loft.openLines r.key with
      | some o => match o.place with
        | .pinned => landAdd r (countDrops r o (setOpenLines (tput s.loft.openLines r.key (combineReq r o)) s))
        | .spilling _ => s
        | .slot n =>
          if limit = 0 then
            let o := readSlot s o.pad n o
            landAdd r (countDrops r o (writeSlot o.pad n (combineReq r o)
              (setOpenLines (tput s.loft.openLines r.key { combineReq r o with longs := [] }) s)))
          else if pins < limit then addWaits r s
          else startSpill r s
      | none => match r.anchor with
        | none => plainAdd r s
        | some anchor =>
          if limit = 0 then
            match freeSlot s r.pad r.half with
            | some n => if recordFree s r.key then openWith r (freshOpen s r anchor (.slot n)) s else addWaits r s
            | none => addWaits r s
          else if pins < limit then openWith r (freshOpen s r anchor .pinned) s
          else startSpill r s

/-- The spill that a request waits for is over: long forms and status word lie in the slot, the frames are free (R266). -/
def spillDone (id : Nat) (s : State) : State :=
  match findAdd s id with
  | none => s
  | some r =>
    match (pinnedIn s r.pad r.key).find? isSpilling with
    | none => s
    | some (k, o) => match o.place with
      | .spilling n =>
        if slotHeld s r.pad n then s else
        let o := { o with spilled := true, place := .slot n }
        bumpPad r.pad 4 1 (putAdd { r with waits := false }
          (setOpenLines (tput s.loft.openLines k { o with longs := [] }) (writeSlot r.pad n o s)))
      | _ => s

/-- A spilled line has been reloaded into a pin and the add is combined; its slot is free (R266). -/
def reloadDone (id : Nat) (s : State) : State :=
  match findAdd s id with
  | none => s
  | some r => match tfind s.loft.openLines r.key with
    | none => s
    | some o => match o.place with
      | .slot n =>
        if r.waits && !addBehind s r && !slotHeld s r.pad n && decide ((pinnedIn s r.pad r.key).length < pinsOf s r.pad r.half) then
          let o := { readSlot s o.pad n o with place := .pinned, pinAge := s.loft.clock }
          let s := makeRoom 64 r.pad r.key { useSlot r.pad n false s with loft := { (useSlot r.pad n false s).loft with clock := s.loft.clock + 1 } }
          landAdd r (countDrops r o (setOpenLines (tput s.loft.openLines r.key (combineReq r o)) s))
        else s
      | _ => s

/-! ## Post updates (R223, R227, R231) -/

/-- An update still follows an access that has not been performed, or a path.send that has not read its source (R227). -/
def updHeld (s : State) (u : PostUpd) : Bool :=
  (u.team.isSome && s.posts.upds.any fun v => v.team == u.team && decide (v.id < u.id) &&
    (v.post == u.post || (match u.pad with | some p => compactPad s p | none => false))) ||
  (s.accs.any fun a => u.after.contains a.id && !a.performed) ||
  u.sends.any fun g => match getTeam s g.1 g.2.1 g.2.2.1 with
    | some t => t.ring.any fun x => x.born == g.2.2.2 && (match x.wait with | some (.send ..) => true | _ => false)
    | none => false

/-- An update reaches the home of its post. Source reads of earlier copies are made first. -/
def postUpdate (id : Nat) (s : State) : State :=
  match s.posts.upds.find? fun u => u.id == id with
  | none => s
  | some u =>
    if updHeld s u then s
    else
      let r := readCopies (s.copies.filter fun c => u.after.contains c.id && decide (c.read < c.total)) s
      if r.2 then r.1
      else applyUpd u { r.1 with posts := { r.1.posts with upds := r.1.posts.upds.filter fun x => x.id != id } }

/-- A wait without an entry polls its post, completes, or takes a freed entry (R231). -/
def waitPoll (id : Nat) (s : State) : State :=
  match s.posts.waits.find? fun w => w.id == id && !w.entry with
  | none => s
  | some w =>
    if waitHolds s w then completeWait w s
    else
        if entriesUsed s w.die < 1024 && w.die < 8 then
          { s with posts := { s.posts with waits := s.posts.waits.map fun x => if x.id == id then { x with entry := true } else x } }
        else s

end Sys2Proof.Machine
end

