-- ==== Sys2Proof/Machine/Cores.lean ====
section
/-! DEFINITION. Blocks on cores: residency, start and end (R77 to R94, R122), and core sparing (R459). -/

namespace Sys2Proof.Machine

/-! ## The block shape word (R77, R78, R80) -/

def shapeRegs (w : W32) : Nat := 8 * bitsOf w.toNat 13 8

def shapeTeams (w : W32) : Nat := bitsOf w.toNat 7 4 + 1

def shapeString (w : W32) : Nat := bitsOf w.toNat 27 24 + 1

/-- Local store per block in units of 4 KiB. -/
def shapeLocal (w : W32) : Nat := bitsOf w.toNat 22 16

/-- The block shape word breaks none of R78. -/
def shapeOk (w : W32) : Bool :=
  bitsOf w.toNat 31 28 == 0 && bitsOf w.toNat 23 23 == 0 && bitsOf w.toNat 15 14 == 0 && bitsOf w.toNat 3 2 == 0 &&
  decide (4 ≤ bitsOf w.toNat 13 8) && decide (bitsOf w.toNat 13 8 ≤ 31) && decide (shapeLocal w ≤ splitLocal w) &&
  decide (shapeTeams w * shapeRegs w ≤ 2048)

/-- Blocks resident at once on a core (R80). -/
def residents (w : W32) : Nat :=
  min (16 / shapeTeams w) (min (2048 / (shapeTeams w * shapeRegs w)) (if shapeLocal w = 0 then 16 else splitLocal w / shapeLocal w))

/-! ## Quadrants and paddocks -/

/-- The paddock that holds a quadrant. -/
def padOfQuad (s : State) (q : Nat) : Option Nat := (s.pads.find? fun e => e.2.quads.getLsbD q).map Prod.fst

/-- A logical core of a paddock that is in service (R460). -/
def coreOfPad (s : State) (p n : Nat) : Bool :=
  match getPad s p with
  | some d => d.quads.getLsbD (coreQuad n) && !(getCore s n).out
  | none => false

/-- PAD of an entry about a core. -/
def corePad (s : State) (n : Nat) : Byte := match padOfQuad s (coreQuad n) with | some p => BitVec.ofNat 8 p | none => 0xFF

/-! ## Core sparing (R459, R460) -/

/-- Physical sites of a quadrant (R24). -/
def quadSites (q : Nat) : List Nat := (List.range 36).map (36 * q + ·)

/-- Sites of a quadrant that no logical core stands on and that have not failed. -/
def freeSites (s : State) (q : Nat) : List Nat :=
  (quadSites q).filter fun p => !s.snaps.badSites.contains p && !(List.range 32).any fun j =>
    let c := getCore s (32 * q + j)
    c.site == p && !c.out

def coreErr (code : Byte) (ack : Bool) (s : State) (n bits old new : Nat) : Err :=
  memErr code 2 ack (corePad s n) 0x01 n 0 3 (n / 512) bits old new

/-- A core leaves service until the next cold start (R460). -/
def outOfService (n : Nat) (moved : Bool) (s : State) : State :=
  let c := getCore s n
  report (coreErr 0x0C true s n (if moved then 4 else 0) c.site 0xFFFFFFFF)
    (setCore n { c with out := true, retire := false }
      { s with snaps := { s.snaps with badSites := c.site :: s.snaps.badSites }, start := { s.start with flashSites := c.site :: s.start.flashSites } })

/-- A core is retired onto the free spare site of its quadrant with the lowest number; with none it leaves service. -/
def retireNow (n : Nat) (s : State) : State :=
  let c := getCore s n
  match freeSites s (coreQuad n) with
  | [] => outOfService n false s
  | p :: _ =>
    report (coreErr 0x0B false s n 0 c.site p)
      (setCore n { c with site := p, retire := false, errs := 0, l1 := [], constant := [], desc := [] }
        { s with snaps := { s.snaps with badSites := c.site :: s.snaps.badSites }, start := { s.start with flashSites := c.site :: s.start.flashSites } })

/-- A retirement that waited for the core to be free is made (R459). -/
def retireIfFree (n : Nat) (s : State) : State :=
  let c := getCore s n
  if c.retire && c.blocks.isEmpty then
    let s := if s.snaps.retCore.toNat = n then { s with snaps := { s.snaps with retBusy := false } } else s
    retireNow n s
  else s

/-! ## Starting blocks (R82, R91, R172) -/

/-- Schedulers of a core by the teams they hold. -/
def schedLoad (c : Core) (k : Nat) : Nat :=
  c.blocks.foldl (fun n b => n + (b.2.teams.filter fun t => t.2.sched.val == k && t.2.live != 0).length) 0

/-- The scheduler with the fewest teams, the lowest number on a tie (R82). -/
def pickSched (c : Core) : Fin 4 :=
  [(1 : Fin 4), 2, 3].foldl (fun b k => if schedLoad c k.val < schedLoad c b.val then k else b) 0

/-- A team as it starts (R172): ARG in u0 and u1. -/
def freshTeam (sched : Fin 4) (prog arg : W64) : Team :=
  { sched := sched, uregs := writeUs arg, flags := noFlags, icnt := 0, live := 0xFFFFFFFF, threads := [],
    ring := [{ mask := 0xFFFFFFFF, pc := prog, wait := none, left := 16, born := 0 }], harness := none, born := 1 }
where
  writeUs (arg : W64) : Tbl W32 := rput (rput [] 0 (arg.setWidth 32)) 1 ((arg >>> 32).setWidth 32)

/-- The block with its teams placed one after the other. -/
def placeTeams (n k : Nat) (prog arg : W64) (c : Core) (slot : Nat) (b : Block) : Core :=
  match n with
  | 0 => { c with blocks := tput c.blocks slot b }
  | m + 1 =>
    let c := { c with blocks := tput c.blocks slot b }
    placeTeams m (k + 1) prog arg c slot { b with teams := tput b.teams k (freshTeam (pickSched c) prog arg) }

/-- What a block is given at its start. -/
structure BlockInit where
  pad    : Nat
  tag    : Nat
  src    : BlockOf
  block  : Nat
  shape  : W32
  prog   : W64
  arg    : W64
  bound  : W32
  seed   : W64
  deriving DecidableEq, Repr

/-- A slot of a core that no block holds and no access or copy in flight names. -/
def freeBlockSlot (s : State) (n : Nat) : Option Nat :=
  firstBelow 16 fun k => (getBlock s n k).isNone && !(s.accs.any fun a => a.core == n && a.slot == k) && !(s.copies.any fun c => c.core == n && c.slot == k)

/-- A block becomes resident in a slot. -/
def startBlock (i : BlockInit) (n slot member plotIdx : Nat) (string : List (Nat × Nat)) (loc : Mem) (s : State) : State :=
  let b : Block :=
    { pad := i.pad, tag := i.tag, src := i.src, block := BitVec.ofNat 32 i.block, member := member, string := string, shape := i.shape,
      bound := i.bound, seed := i.seed, plotIdx := plotIdx, loc := loc, teams := [], nteams := shapeTeams i.shape, ac := 0, exited := false }
  setCore n (placeTeams (shapeTeams i.shape) 0 i.prog i.arg (getCore s n) slot b) s

/-- The core can take one more block of a launch or stage (R79, R80). -/
def canHold (s : State) (i : BlockInit) (n : Nat) : Bool :=
  let c := getCore s n
  coreOfPad s i.pad n && !c.retire && (freeBlockSlot s n).isSome && decide (c.blocks.length < residents i.shape) &&
  c.blocks.all fun b => b.2.pad == i.pad && (match b.2.src, i.src with
    | .launch x, .launch y => x == y
    | .stage x _, .stage y _ => x == y
    | _, _ => false)

/-- A string, or a block alone, starts on cores that can all hold it; blocks are numbered from i.block, plotIdx and local stores given by core (R90, R91). -/
def startString (i : BlockInit) (cores : List Nat) (place : Nat → Nat) (numbered : Bool) (locOf : Nat → Mem) (s : State) : State :=
  let string := cores.map fun n => (n, (freeBlockSlot s n).getD 0)
  string.zipIdx.foldl (fun t x =>
    startBlock { i with block := if numbered then place x.1.1 else i.block + x.2 } x.1.1 x.1.2 x.2 (place x.1.1) string (locOf (place x.1.1)) t) s

/-! ## Launches (R381) -/

/-- The cores of a string whose north-west corner stands on core n. -/
def stringCores (n sw sh : Nat) : List Nat :=
  if coreX n + sw ≤ 63 ∧ coreY n + sh ≤ 15 then rectCores (coreX n) (coreY n) (sw + 1) (sh + 1) else []

def launchCores (p : LaunchParams) : List Nat := rectCores p.px.toNat p.py.toNat (p.pw.toNat + 1) (p.ph.toNat + 1)

/-- Index of a core in a rectangle's cores. -/
def plotIndex (cores : List Nat) (n : Nat) : Nat := cores.findIdx (· == n)

def modLaunch (pad id : Nat) (f : Launch → Launch) (s : State) : State :=
  modPad pad (fun d => { d with launches := d.launches.map fun l => if l.id == id then f l else l }) s

/-- A launch of the paddock starts its next block or string at core n, if it can (R91, R381). -/
def startLaunchBlock (pad n : Nat) (l : Launch) (s : State) : Option State :=
  let cores := stringCores n l.p.sw.toNat l.p.sh.toNat
  let rect := launchCores l.p
  let i : BlockInit := { pad := pad, tag := l.p.tag.toNat, src := .launch l.id, block := l.next, shape := l.p.shape, prog := l.p.prog, arg := l.p.arg,
                         bound := l.p.limitAc, seed := l.p.seed }
  if l.next < l.p.blocks.toNat ∧ !cores.isEmpty ∧ cores.all (fun c => rect.contains c && coreDie c == coreDie n && canHold s i c) then
    let s := startString i cores (plotIndex rect) false (fun _ => []) s
    some (modLaunch pad l.id (fun l => { l with next := l.next + cores.length, first := if l.first.isNone then some s.beat.count else l.first }) s)
  else none

/-- Every block of a launch has ended: DONE with the beat of its first block, 1 to DPOST, a job completed (R381, R403). -/
def finishLaunch (pad id : Nat) (s : State) : State :=
  match getPad s pad with
  | none => s
  | some d => match d.launches.find? fun l => l.id == id with
    | none => s
    | some l =>
      if l.ended < l.p.blocks.toNat then s
      else
        let s := statusOpt l.cmd done (leBytes 8 (l.first.getD 0).toNat) s
        addOpt pad l.p.dpost 1 (countCompleted pad (modPad pad (fun d => { d with launches := d.launches.filter fun x => x.id != id }) s))

/-! ## Ends of blocks -/

/-- The blocks of a string are freed once every member has exited (R91). -/
def freeString (b : Block) (s : State) : State :=
  if b.string.all fun m => match getBlock s m.1 m.2 with | some x => x.exited | none => true then
    b.string.foldl (fun t m =>
      let c := getCore t m.1
      retireIfFree m.1 (setCore m.1 { c with blocks := tdel c.blocks m.2 } t)) s
  else s

/-- A block whose teams have all ended exits. A launch counts it; a stage's stays until its invocation ends. -/
def exitBlock (core slot : Nat) (s : State) : State :=
  match getBlock s core slot with
  | none => s
  | some b =>
    if b.exited || !b.teams.all (fun t => t.2.live == 0) then s
    else
      let s := setBlock core slot { b with exited := true } s
      match b.src with
      | .stage _ _ => s
      | .launch id => finishLaunch b.pad id (modLaunch b.pad id (fun l => { l with ended := l.ended + 1 }) (freeString b s))

/-- The block's count of ac has passed its bound (R122). -/
def Block.overBound (b : Block) : Bool := decide (b.bound.toNat < b.ac.toNat)

/-- n more ac of a block that still runs: its count has not passed the bound, or WATCHDOG would have ended it (DEDUCED, log 129). -/
def Block.counted (n : Nat) (b : Block) : Block := { b with ac := BitVec.ofNat 64 (max b.ac.toNat (min (b.ac.toNat + n) b.bound.toNat)) }

/-- WATCHDOG: a block's count of ac passes its bound (R122). The team and the PC that its entry names are left open (log 2). -/
def watchdog (core slot : Nat) (s : State) : State :=
  match getBlock s core slot with
  | none => s
  | some b =>
    let b := { b with ac := BitVec.ofNat 64 (b.bound.toNat + 1) }
    if b.exited || !b.overBound then s
    else
      let stage := match b.src with | .stage k _ => k | .launch _ => 0xFF
      jobFault { utype := 1, uindex := core, pad := b.pad, block := b.block, team := Config.freeChoice s.free % 16, stage := stage,
                 pc := BitVec.ofNat 64 (16 * Config.freeChoice (s.free + 1)) } watchdogFault 0 { setBlock core slot b s with free := s.free + 2 }

end Sys2Proof.Machine
end

