-- ==== Sys2Proof/Machine/Crc.lean ====
section
/-! DEFINITION. The CRCs of R357 and R449, all reflected, with an initial value and a final XOR of all ones. -/

namespace Sys2Proof.Machine

/-- A CRC: its width and its polynomial with the bits reversed. -/
structure CrcKind where
  width : Nat
  poly  : Nat
  deriving DecidableEq, Repr

/-- 0x1EDC_6F41 (R357). -/
def crc32c : CrcKind := ⟨32, 0x82F63B78⟩

/-- 0x04C1_1DB7 (R449). -/
def crc32 : CrcKind := ⟨32, 0xEDB88320⟩

/-- 0x42F0_E1EB_A9EA_3693 (R449). -/
def crc64 : CrcKind := ⟨64, 0xC96C5795D7870F42⟩

/-- POLY of R449. -/
def crcOf (poly : Nat) : CrcKind := if poly = 0 then crc32c else if poly = 1 then crc32 else crc64

def crcBits (k : CrcKind) (n c : Nat) : Nat :=
  match n with
  | 0 => c
  | m + 1 => crcBits k m (if c % 2 = 1 then (c / 2) ^^^ k.poly else c / 2)

/-- The running register after more bytes. -/
def crcRun (k : CrcKind) (c : Nat) (bs : List Byte) : Nat :=
  match bs with
  | [] => c
  | b :: r => crcRun k (crcBits k 8 (c ^^^ b.toNat)) r

def crcOnes (k : CrcKind) : Nat := 2 ^ k.width - 1

/-- The finished CRC of some bytes. -/
def crc (k : CrcKind) (bs : List Byte) : Nat := crcRun k (crcOnes k) bs ^^^ crcOnes k

/-- A finished CRC carried on over more bytes: the finished CRC of all of them. -/
def crcMore (k : CrcKind) (done : Nat) (bs : List Byte) : Nat := crcRun k (done ^^^ crcOnes k) bs ^^^ crcOnes k

end Sys2Proof.Machine
end

