-- ==== Sys2Proof/Machine/Pipeline.lean ====
section
/-! DEFINITION. Pipelines: the table and its admission, releases and ends of invocations, path tiles, credits, reductions, moves (R148 to R196). -/

namespace Sys2Proof.Machine

/-! ## Routes (R148, R150) -/

/-- The routers of a route, from the source to the destination: along the row, then along the column. -/
def route (a b : Nat) : List Nat :=
  let x0 := coreX a
  let y0 := coreY a
  let x1 := coreX b
  let y1 := coreY b
  let xs := if x0 ≤ x1 then (List.range (x1 - x0 + 1)).map (x0 + ·) else (List.range (x0 - x1 + 1)).map (x0 - ·)
  let ys := if y0 ≤ y1 then (List.range (y1 - y0)).map (y0 + 1 + ·) else (List.range (y0 - y1)).map (y0 - 1 - ·)
  xs.map (fun x => coreAt x y0) ++ ys.map fun y => coreAt x1 y

/-- The steps of a route. -/
def steps (r : List Nat) : List (Nat × Nat) := r.zip (r.drop 1)

/-- UINDEX of the link between two neighbouring routers (R461). -/
def linkIndex (a b : Nat) : Nat :=
  if coreY a = coreY b then 2 * (64 * coreY a + min (coreX a) (coreX b)) else 2 * (64 * min (coreY a) (coreY b) + coreX a) + 1

/-- The step goes toward higher coordinates. -/
def stepHigh (a b : Nat) : Bool := decide (coreX a < coreX b) || decide (coreY a < coreY b)

/-- The die edge that a step crosses, if it crosses one (R461). -/
def edgeOf (a b : Nat) : Option Nat :=
  let d := coreDie a
  let e := coreDie b
  if d = e || d / 4 ≠ e / 4 then none
  else
    let k := match min (d % 4) (e % 4), max (d % 4) (e % 4) with
      | 0, 1 => 0
      | 2, 3 => 1
      | 0, _ => 2
      | _, _ => 3
    some (6 * (d / 4) + k)

/-- The step crosses a link, die edge or seam group in one direction. Which group of an edge a row or column uses is not stated: any of the edge's counts
(DESIGN CHOICE, log 21). -/
def crosses (u : WireUnit) (toHigh : Bool) (x : Nat × Nat) : Bool :=
  toHigh == stepHigh x.1 x.2 && (match u with
    | .mesh l => l.val == linkIndex x.1 x.2
    | .edge e _ => edgeOf x.1 x.2 == some e.val
    | .seam g => decide (coreDie x.1 / 4 ≠ coreDie x.2 / 4) && g.val == coreY x.1)

/-- The step crosses a link, die edge or seam group that runs at half width. -/
def stepHalf (s : State) (x : Nat × Nat) : Bool := s.mesh.wires.any fun w => w.half && crosses w.unit w.toHigh x

/-! ## Plots and paths -/

def StageRec.cores (r : StageRec) : List Nat := rectCores r.px.toNat r.py.toNat (r.pw.toNat + 1) (r.ph.toNat + 1)

/-- Number of cores in a plot. -/
def StageRec.size (r : StageRec) : Nat := (r.pw.toNat + 1) * (r.ph.toNat + 1)

def stageOf (stages : List StageRec) (k : Nat) : Option StageRec := stages.find? fun r => r.stage.toNat == k

/-- Consumer stages of a path in order: TO, then EXTRA (R180). -/
def PathRec.consumers (p : PathRec) : List Nat := p.to_.toNat :: p.extra

/-- ONE and RED deliver to one core (R179). -/
def PathRec.single (p : PathRec) : Bool := p.dist == 1 || p.dist == 4

/-- R of R179. -/
def PathRec.ranks (p : PathRec) (producers : Nat) : Nat := if p.dist == 0 || p.dist == 4 then 1 else producers

/-- The first of the receivers on each core: a router in two rectangles of a multicast receives one copy (R164). Only a stage that EXTRA names again, which
R178 does not rule out, has a core twice; its first position then counts (DESIGN CHOICE, log 115). -/
def onePerCore (l : List (Nat × Nat × Nat)) : List (Nat × Nat × Nat) :=
  l.foldl (fun a r => if a.any fun q => q.2.2 == r.2.2 then a else a ++ [r]) []

/-- Receiving cores: consumer position m, core index i, core. -/
def receivers (stages : List StageRec) (p : PathRec) : List (Nat × Nat × Nat) :=
  onePerCore (p.consumers.zipIdx.flatMap fun c => match stageOf stages c.1 with
    | none => []
    | some r => (r.cores.zipIdx.map fun x => (c.2, x.2, x.1)).filter fun x => !p.single || x.2.1 == p.cidx.toNat)

/-- Producer cores of a path in plot order. -/
def producers (stages : List StageRec) (p : PathRec) : List Nat :=
  match stageOf stages p.from_.toNat with
  | some r => r.cores
  | none => []

/-- Pairs of producer index and receiver that tiles travel between. -/
def pathPairs (stages : List StageRec) (p : PathRec) : List (Nat × Nat × Nat × Nat × Nat) :=
  (producers stages p).zipIdx.flatMap fun x =>
    ((receivers stages p).filter fun r => p.dist != 0 || r.2.1 == x.2).map fun r => (x.2, x.1, r)

/-- The routers of a path, from every producer core to every receiver that it sends to. -/
def pathSteps (stages : List StageRec) (p : PathRec) : List (List Nat) := (pathPairs stages p).map fun x => route x.2.1 x.2.2.2.2

/-- Landing post of core i, rank p, consumer stage m (R180). -/
def landPost (p : PathRec) (consumerSize ranks m i rank : Nat) : Nat := p.dpost.toNat + (m * consumerSize + i) * ranks + rank

/-! ## The table (R176 to R178) -/

def fldAt (bs : List Byte) (o n : Nat) : Nat := leNat ((bs.drop o).take n)

/-- A stage record and whether its fields are accepted (R177). -/
def parseStage (bs : List Byte) : StageRec × Bool :=
  let b (i : Nat) := fldAt bs i 1
  let r : StageRec :=
    { stage := BitVec.ofNat 6 (b 0), depth := BitVec.ofNat 6 (b 1), px := BitVec.ofNat 6 (b 2), py := BitVec.ofNat 4 (b 3), pw := BitVec.ofNat 6 (b 4),
      ph := BitVec.ofNat 4 (b 5), sw := BitVec.ofNat 4 (b 6), sh := BitVec.ofNat 4 (b 6 / 16), shape := BitVec.ofNat 32 (fldAt bs 8 4),
      prog := BitVec.ofNat 64 (fldAt bs 16 8), arg := BitVec.ofNat 64 (fldAt bs 24 8), boundAc := BitVec.ofNat 32 (fldAt bs 32 4),
      boundFc := BitVec.ofNat 32 (fldAt bs 36 4) }
  (r, decide (b 0 < 64 ∧ b 1 < 64 ∧ b 2 < 64 ∧ b 3 < 16 ∧ b 4 < 64 ∧ b 5 < 16 ∧ b 7 = 0 ∧ fldAt bs 12 4 = 0 ∧ fldAt bs 40 8 = 0) &&
      shapeOk r.shape && r.prog.toNat % 16 == 0 && r.boundAc != 0)

/-- A path record and whether its fields are accepted (R178, R179), its stages apart. -/
def parsePath (bs : List Byte) : PathRec × Bool :=
  let b (i : Nat) := fldAt bs i 1
  let dist := b 3 % 8
  let rform := b 3 / 16 % 4
  let ex := [b 23, b 24, b 25].filter (· != 255)
  let r : PathRec :=
    { path := BitVec.ofNat 8 (b 0), from_ := BitVec.ofNat 6 (b 1), to_ := BitVec.ofNat 6 (b 2), dist := BitVec.ofNat 3 dist, postmode := bitOf (b 3) 3,
      rform := BitVec.ofNat 2 rform, cidx := BitVec.ofNat 16 (fldAt bs 4 2), anchor := BitVec.ofNat 10 (fldAt bs 6 2),
      tile := BitVec.ofNat 32 (fldAt bs 8 4), slots := b 12 % 16 + 1, tpi := b 12 / 16 + 1, sbase := BitVec.ofNat 32 (fldAt bs 16 4),
      dpost := BitVec.ofNat 15 (fldAt bs 20 2), extra := ex }
  let tile := fldAt bs 8 4
  let tileOk := if dist = 4 then decide (tile = if rform = 1 then 992 else 1024) else decide (tile % 32 = 0 ∧ 32 ≤ tile ∧ tile ≤ 262144)
  (r, decide (b 1 < 64 ∧ b 2 < 64 ∧ b 3 < 64 ∧ dist ≤ 4 ∧ rform ≠ 3 ∧ fldAt bs 6 2 < 1024 ∧ fldAt bs 13 3 = 0 ∧ fldAt bs 16 4 % 16 = 0 ∧
      fldAt bs 20 2 < 32768 ∧ b 22 = 0 ∧ fldAt bs 26 6 = 0) && tileOk && (dist == 4 || rform == 0) && (dist == 1 || dist == 4 || fldAt bs 4 2 == 0) &&
      ((dist == 4 && rform == 1) || fldAt bs 6 2 == 0) && (dist == 3 || ex.isEmpty) && ex.all fun k => decide (k < 64))

/-- A table read whole: period, stages, paths, and the first record of refused fields, if any. -/
structure Table where
  period : Nat
  stages : List StageRec
  paths  : List PathRec
  bad    : Option Nat
  deriving DecidableEq, Repr

def nodupNat (l : List Nat) : Option Nat :=
  match l with
  | [] => none
  | x :: r => if r.contains x then some x else nodupNat r

/-- The table from its bytes. -/
def parseTable (read : Nat → Nat → List Byte) : Table :=
  let h := read 0 64
  let ns := fldAt h 0 1
  let np := fldAt h 2 2
  let period := fldAt h 4 2
  if ns = 0 || ns > 64 || fldAt h 1 1 ≠ 0 || np > 256 || period = 0 || period > 256 || leNat (h.drop 6) ≠ 0 then
    { period := 1, stages := [], paths := [], bad := some 0 }
  else
    let ss := (List.range ns).map fun i => parseStage (read (64 + 48 * i) 48)
    let ps := (List.range np).map fun i => parsePath (read (64 + 48 * ns + 32 * i) 32)
    let stages := ss.map Prod.fst
    let bad := match ss.find? fun x => !x.2 with
      | some x => some x.1.stage.toNat
      | none => match nodupNat (stages.map fun r => r.stage.toNat) with
        | some k => some k
        | none => match ps.find? fun x => !x.2 || (x.1.single && (match stageOf stages x.1.to_.toNat with
            | some r => decide (r.size ≤ x.1.cidx.toNat)
            | none => false)) with
          | some x => some x.1.path.toNat
          | none => nodupNat (ps.map fun x => x.1.path.toNat)
    { period := period, stages := stages, paths := ps.map Prod.fst, bad := bad }

/-! ## Admission (R187, R188) -/

/-- Bytes of a paddock's commons (R242). -/
def commonsSize (s : State) (pad : Nat) : Nat := match getPad s pad with | some d => 67108864 * (unitList d.commons).length | none => 0

/-- Bytes of a step record buffer (R405). -/
def recordSize (p : PadParams) : Nat := if p.serve = 1 then 64 + 32 * p.maxseq.toNat else 64 + 32 * 1023

/-- Bytes of the record area. -/
def recordArea (p : PadParams) : Nat := if p.serve = 0 then 0 else recordSize p * p.nbuf.toNat

/-- Where a paddock's record area starts in its commons, and its bytes, which the COMMONS check counts as used (R405). -/
def recordHole (s : State) (pad : Nat) : Nat × Nat := match getPad s pad with | some d => (d.p.boff.toNat, recordArea d.p) | none => (0, 0)

/-- Bytes of commons that replay slots may take. -/
def commonsFree (s : State) (pad : Nat) : Nat := commonsSize s pad - (recordHole s pad).2

/-- The clock of R505 that admission counts on, in MHz. -/
def guaranteedMhz (s : State) (pad : Nat) : Nat :=
  match getPad s pad with
  | none => 500
  | some d =>
    let f := if s.pwr.fixed then s.pwr.fixmhz.toNat else if d.p.lc && d.share != 0 then s.pwr.floor.toNat else 500
    (unitList d.quads).foldl (fun f q => min f (s.pwr.dies[(Fin.ofNat 8 (q / 4))]).ceil.toNat) f

/-- The beat length in ns (R331). -/
def beatNs (s : State) : Nat := 1000 * s.beat.force.period.toNat

/-- The budget check of R188, times in ps. -/
def budgetOk (s : State) (pad period : Nat) (stages : List StageRec) (paths : List PathRec) (r : StageRec) : Bool :=
  let half := (paths.filter fun p => p.from_ == r.stage).any fun p => (pathSteps stages p).any fun x => (steps x).any (stepHalf s)
  let fc := if half then 2 * r.boundFc.toNat else r.boundFc.toNat
  let f := guaranteedMhz s pad
  decide (r.boundAc.toNat * 1000000 + (fc * 500 + 1000000) * f ≤ period * beatNs s * 1000 * f)

/-- The plot and its strings are as R187's PLOT and R90 want them; the strings of a stage tile its plot (DEDUCED, log 22). -/
def plotOk (s : State) (pad : Nat) (others : List Nat) (r : StageRec) : Bool :=
  let w := r.sw.toNat + 1
  let h := r.sh.toNat + 1
  decide (r.px.toNat + r.pw.toNat ≤ 63 ∧ r.py.toNat + r.ph.toNat ≤ 15) &&
  r.cores.all (fun n => coreOfPad s pad n && !others.contains n) && decide (w * h = shapeString r.shape) &&
  (r.pw.toNat + 1) % w == 0 && (r.ph.toNat + 1) % h == 0 &&
  (shapeString r.shape == 1 || (List.range ((r.pw.toNat + 1) / w)).all fun i => (List.range ((r.ph.toNat + 1) / h)).all fun j =>
    let c := rectCores (r.px.toNat + i * w) (r.py.toNat + j * h) w h
    match c with
    | [] => true
    | n :: rest => rest.all fun m => coreDie m == coreDie n)

/-- The stages of a path exist, follow its producer in depth and have the shapes of R179. EXTRA may name TO or one of its own stages again, of which the spec
says nothing (DESIGN CHOICE, log 115). -/
def graphOk (stages : List StageRec) (p : PathRec) : Bool :=
  match stageOf stages p.from_.toNat, stageOf stages p.to_.toNat with
  | some f, some t =>
    p.consumers.all fun c => match stageOf stages c with
      | none => false
      | some r => decide (f.depth.toNat < r.depth.toNat) && r.pw == t.pw && r.ph == t.ph && (p.dist != 0 || (r.pw == f.pw && r.ph == f.ph))
  | _, _ => false

def slotsOk (stages : List StageRec) (p : PathRec) : Bool :=
  match stageOf stages p.from_.toNat with
  | none => false
  | some f => p.consumers.all fun c => match stageOf stages c with
    | none => false
    | some r => decide ((r.depth.toNat - f.depth.toNat + 1) * p.tpi ≤ p.slots)

def sizeOfStage (stages : List StageRec) (k : Nat) : Nat := match stageOf stages k with | some r => r.size | none => 0

def landingOk (stages : List StageRec) (p : PathRec) : Bool :=
  p.consumers.all fun c => match stageOf stages c with
    | none => false
    | some r => decide (p.sbase.toNat + p.ranks (sizeOfStage stages p.from_.toNat) * p.slots * p.tile.toNat ≤ 4096 * shapeLocal r.shape)

/-- Bytes of replay slots of a path (R186). -/
def replayBytes (stages : List StageRec) (p : PathRec) : Nat :=
  let np := sizeOfStage stages p.from_.toNat
  if p.dist == 4 then np * p.slots * (if p.rform == 1 then 160 else 1024)
  else (receivers stages p).length * p.ranks np * p.slots * p.tile.toNat

/-- Every router's RED paths need at most its 16 entries. -/
def entriesOk (stages : List StageRec) (paths : List PathRec) (p : PathRec) : Bool :=
  p.dist != 4 || ((pathSteps stages p).flatMap id).all fun n =>
    decide ((paths.filter fun q => q.dist == 4 && (pathSteps stages q).any fun r => r.contains n).foldl (fun a q => a + q.slots) 0 ≤ 16)

def postsOk (s : State) (pad : Nat) (stages : List StageRec) (p : PathRec) : Bool :=
  let n := match getPad s pad with | some d => d.posts.length | none => 0
  let ranks := p.ranks (sizeOfStage stages p.from_.toNat)
  (receivers stages p).all fun r => decide (landPost p (sizeOfStage stages p.to_.toNat) ranks r.1 r.2.1 (ranks - 1) < n)

/-- The first stage, in the order of its records, whose plot fails beside the plots taken by those before it and those reserved from it
(DEDUCED, log 93). -/
def badPlot (s : State) (pad : Nat) (reserved : Nat → List Nat) (taken : List Nat) : List StageRec → Option Nat
  | [] => none
  | r :: rest => if plotOk s pad (taken ++ reserved r.stage.toNat) r then badPlot s pad reserved (taken ++ r.cores) rest else some r.stage.toNat

/-- The first path whose replay slots do not fit in size bytes beside the acc bytes of those before it (DEDUCED, log 93). -/
def badCommons (stages : List StageRec) (size acc : Nat) : List PathRec → Option Nat
  | [] => none
  | p :: rest => if size < acc + replayBytes stages p then some p.path.toNat else badCommons stages size (acc + replayBytes stages p) rest

/-- The first path that takes too many entries of a router beside the paths seen (DEDUCED, log 93). -/
def badEntries (stages : List StageRec) (seen : List PathRec) : List PathRec → Option Nat
  | [] => none
  | p :: rest => if entriesOk stages (p :: seen) p then badEntries stages (p :: seen) rest else some p.path.toNat

/-- The first check of R187 from GRAPH on that fails, over the stages and paths that are checked: its code, and the stage or path concerned. -/
def pathChecks (s : State) (pad : Nat) (t : Table) (stages : List StageRec) (paths : List PathRec) : Option (Nat × Nat) :=
  let badPath (code : Nat) (p : PathRec → Bool) : Option (Nat × Nat) := (paths.find? fun x => !p x).map fun x => (code, x.path.toNat)
  (badPath 3 (graphOk t.stages)).or
  ((badPath 4 fun p => (pathSteps t.stages p).all fun r => r.all fun n => match getPad s pad with
    | some d => d.quads.getLsbD (coreQuad n)
    | none => false).or
  ((badPath 5 (slotsOk t.stages)).or
  ((badPath 6 (landingOk t.stages)).or
  (((badCommons t.stages (commonsFree s pad) 0 t.paths).map fun k => (7, k)).or
  ((if paths.length = t.paths.length then (badEntries t.stages [] t.paths).map fun k => (8, k) else badPath 8 (entriesOk t.stages t.paths)).or
  ((badPath 9 (postsOk s pad t.stages)).or
  ((stages.find? fun r => !budgetOk s pad t.period t.stages t.paths r).map fun r => (10, r.stage.toNat))))))))

/-- The first check of R187 that fails: its code, and the stage or path concerned. -/
def admission (s : State) (pad : Nat) (t : Table) (reserved : Nat → List Nat) : Option (Nat × Nat) :=
  match t.bad with
  | some k => some (1, k)
  | none => match badPlot s pad reserved [] t.stages with
    | some k => some (2, k)
    | none => pathChecks s pad t t.stages t.paths

/-! ## A loaded pipeline -/

def freshStage (r : StageRec) : StageRt := { cfg := r, inv := 0, running := false, told := 0, locals := [], mhz := 0 }

def freshPath (p : PathRec) : PathRt := { cfg := p, gen := 0, pairs := [], commits := [] }

def Pipe.recs (p : Pipe) : List StageRec := p.stages.map fun x => x.cfg

def Pipe.pathRecs (p : Pipe) : List PathRec := p.paths.map fun x => x.cfg

def getPipe (s : State) (pad : Nat) : Option Pipe := match getPad s pad with | some d => d.pipe | none => none

def modPipe (pad : Nat) (f : Pipe → Pipe) (s : State) : State :=
  modPad pad (fun d => { d with pipe := match d.pipe with | some p => some (f p) | none => none }) s

def modStage (pad k : Nat) (f : StageRt → StageRt) (s : State) : State :=
  modPipe pad (fun p => { p with stages := p.stages.map fun x => if x.cfg.stage.toNat == k then f x else x }) s

def modPath (pad k : Nat) (f : PathRt → PathRt) (s : State) : State :=
  modPipe pad (fun p => { p with paths := p.paths.map fun x => if x.cfg.path.toNat == k then f x else x }) s

def stageRt (p : Pipe) (k : Nat) : Option StageRt := p.stages.find? fun x => x.cfg.stage.toNat == k

/-- A pipeline that has not ended is loaded (R171). -/
def pipeActive (d : Pad) : Bool :=
  match d.pipe with
  | none => false
  | some p => match p.start with | some st => !st.ended | none => true

/-- Bytes that the Yardmaster reads from a paddock's STACK as the paddock; where R282 or R284 refuses a part it reads zero, which is counted once. -/
def yardRead (pad tag : Nat) (va n : Nat) (s : State) : State × List Byte :=
  let g : Eng := { pad := pad, tag := tag, epoch := (getSpace s tag).epoch, look := yardLook, hint := 0, last := false, core := none, team := none, stream := false }
  let r := rangeRead g false va n s
  (countRefusal pad r.2.2.2 false r.1, r.2.1)

/-- The table in STACK, read once (R175, R186). -/
def readTable (pad tag va : Nat) (s : State) : State × Table :=
  let h := yardRead pad tag va 64 s
  let n := 64 + 48 * fldAt h.2 0 1 + 32 * fldAt h.2 2 2
  let r := yardRead pad tag va n s
  (r.1, parseTable fun o k => (r.2.drop o).take k)

/-- The landing posts of a pipeline's paths as paddock post numbers. -/
def landingPosts (stages : List StageRec) (p : PathRec) : List Nat :=
  let ranks := p.ranks (sizeOfStage stages p.from_.toNat)
  (receivers stages p).flatMap fun r => (List.range ranks).map fun k => landPost p (sizeOfStage stages p.to_.toNat) ranks r.1 r.2.1 k

/-- A pipeline loaded (R186). -/
def loadPipe (pad : Nat) (table : W64) (tag : Nat) (t : Table) (s : State) : State :=
  modPad pad (fun d => { d with pipe := some { tableAt := table, tag := tag, period := t.period, stages := t.stages.map freshStage,
                                               paths := t.paths.map freshPath, start := none, moves := [] } }) s

/-! ## Releases (R173, R189) -/

def releaseBeat (p : Pipe) (st : StartRt) (x : StageRt) : Int :=
  (st.b0.toNat : Int) + ((x.inv : Int) - st.first + x.cfg.depth.toNat) * p.period

/-- Invocations whose release beat has come are released, unless admission is stalled, the paddock drains, or the count is frozen short of it. -/
def releaseUpto (lim pad : Nat) (s : State) : State :=
  match getPad s pad with
  | none => s
  | some d => match d.pipe with
    | none => s
    | some p => match p.start with
      | none => s
      | some st =>
        if st.ended || d.drain.isSome || s.pwr.stalled.contains pad || restarting s then s
        else
          let due (x : StageRt) : Bool :=
            !x.running && decide (releaseBeat p st x ≤ lim) && (st.count == 0 || decide (x.inv < st.count.toNat))
          modPipe pad (fun p => { p with stages := mapWhere due (fun x => { x with running := true }) p.stages }) s

/-- The releases that have come by the present beat. -/
def releaseStages (pad : Nat) (s : State) : State := releaseUpto s.beat.count.toNat pad s

/-- Deadlines of a stage that have come by a beat: the first invocation number past them. -/
def deadlinesDue (lim : Nat) (p : Pipe) (st : StartRt) (x : StageRt) : Nat :=
  let base := st.b0.toNat + x.cfg.depth.toNat * p.period
  let n := st.first + (if lim < base then 0 else (lim - base) / p.period)
  if st.count == 0 then n else min n st.count.toNat

/-- Invocations of a paddock that have not ended by their deadline, up to a beat, write PACE entries at the boundary (R174). -/
def tellDeadlines (lim pad : Nat) (s : State) : State :=
  match getPipe s pad with
  | none => s
  | some p => match p.start with
    | none => s
    | some st =>
      p.stages.foldl (fun t x =>
        let n := deadlinesDue lim p st x
        if st.ended || n ≤ x.told then t
        else
          let late := (List.range n).filter fun k => decide (x.told ≤ k ∧ x.inv ≤ k)
          late.foldl (fun t k =>
            reportPace 1 0 pad x.cfg.stage.toNat 0 0 k (st.b0.toNat + (k - st.first + x.cfg.depth.toNat + 1) * p.period) t)
            (modStage pad x.cfg.stage.toNat (fun x => { x with told := n }) t)) s

/-- The first block, or string, of a stage's running invocation that core n has still to start (R91, R173). -/
def startStageBlock (pad n : Nat) (s : State) : Option State :=
  match getPipe s pad with
  | none => none
  | some p => match p.start, p.stages.find? fun x => x.running && x.cfg.cores.contains n with
    | some st, some x =>
      let r := x.cfg
      let w := r.sw.toNat + 1
      let h := r.sh.toNat + 1
      let cores := rectCores (r.px.toNat + (coreX n - r.px.toNat) / w * w) (r.py.toNat + (coreY n - r.py.toNat) / h * h) w h
      let i : BlockInit :=
        { pad := pad, tag := p.tag, src := .stage r.stage.toNat x.inv, block := 0, shape := r.shape, prog := r.prog, arg := r.arg, bound := r.boundAc,
          seed := st.seed + BitVec.ofNat 64 x.inv }
      if cores.all (fun c => canHold s i c && (getCore s c).blocks.isEmpty) then
        some (startString i cores (plotIndex r.cores) true (fun k => tget x.locals k []) s)
      else none
    | _, _ => none

/-- BLOCK_START: a block, or a whole string, becomes resident. -/
def blockStart (pad n : Nat) (s : State) : State :=
  match getPad s pad with
  | none => s
  | some d =>
    if restarting s || s.pwr.stalled.contains pad || !(s.pwr.state == .gallop || s.pwr.state == .trot) then s
    else
      let s' := { s with pwr := { s.pwr with state := .gallop } }
      match startStageBlock pad n s' with
      | some t => t
      | none => match d.launches.findSome? fun l => startLaunchBlock pad n l s' with
        | some t => t
        | none => s

/-! ## Packets -/

/-- n reserved bits of a header from bit i on, at bit b of a field (R158). -/
def Pkt.spare (k : Pkt) (i n b : Nat) : Nat := (k.rsv.extractLsb' i n).toNat * 2 ^ b

/-- X and Y of a router as DEST and SRC hold them (R158). -/
def routerField (n : Nat) : Nat := coreX n + 64 * coreY n

/-- Bytes 0 to 27 of a packet's header (R158). A copy of a multicast has its own router in DEST, and a packet has one tile number modulo 2^32 in SEQ
(DESIGN CHOICE, log 116). -/
def Pkt.head (k : Pkt) : List Byte :=
  [BitVec.ofNat 8 (k.kind.toNat + 16 * k.cast.toNat + 64 * b2n k.last + 128 * b2n k.replay), BitVec.ofNat 8 (k.payload.length / 16 % 128 + k.spare 0 1 7)] ++
  leBytes 2 (routerField k.dest + k.spare 1 6 10) ++ leBytes 2 (routerField k.src + k.spare 7 6 10) ++ leBytes 2 k.dest2.toNat ++
  [BitVec.ofNat 8 (k.pad % 32 + k.spare 13 3 5), k.path, k.gen, BitVec.ofNat 8 (k.spare 16 8 0)] ++ leBytes 4 k.seq ++
  leBytes 4 (if k.kind = 1 then k.count else k.offset) ++
  leBytes 2 (k.anchor.toNat + 1024 * k.rform.toNat + 4096 * b2n k.enter + 8192 * b2n k.ovf + 16384 * b2n k.oppinf + k.spare 24 1 15) ++
  leBytes 6 (k.spare 25 48 0)

/-- HCHK of a packet (R158). -/
def Pkt.check (k : Pkt) : W32 := BitVec.ofNat 32 (crc crc32c k.head)

def sendPkt (k : Pkt) (s : State) : State :=
  { s with mesh := { s.mesh with pkts := s.mesh.pkts ++ [{ k with id := s.mesh.nextId, hchk := k.check }], nextId := s.mesh.nextId + 1 } }

def blankPkt (kind : BitVec 4) (pad : Nat) (p : PathRt) (src dest : Nat) : Pkt :=
  { id := 0, kind := kind, last := false, replay := false, dest := dest, src := src, pad := pad, path := p.cfg.path, gen := p.gen, seq := 0, offset := 0,
    anchor := 0, rform := 0, enter := false, ovf := false, oppinf := false, input := 0, m := 0, rank := 0, count := 0, payload := [],
    cast := if kind = 0 && p.cfg.dist == 3 then 2 else 0 }

def dropPkt (id : Nat) (s : State) : State := { s with mesh := { s.mesh with pkts := s.mesh.pkts.filter fun k => k.id != id } }

/-- A field of the header holds a refused value (R158, R159, R5): KIND 7 to 15, CAST 3, LEN above 64, DEST2 without a multicast, a reduction's fields in
another packet or a refused form, or a reserved bit. -/
def Pkt.refused (k : Pkt) : Bool :=
  decide (7 ≤ k.kind.toNat) || k.cast == 3 || decide (1024 < k.payload.length) || (k.cast == 0 && k.dest2 != 0) || k.rform == 3 || k.rsv != 0 ||
  (k.kind != 2 && (k.anchor != 0 || k.rform != 0 || k.enter || k.ovf || k.oppinf)) || (k.rform != 1 && (k.anchor != 0 || k.enter || k.ovf || k.oppinf))

/-- The router lies in the quadrants of a packet's PAD (R162). -/
def Pkt.inside (s : State) (k : Pkt) : Bool := match getPad s k.pad with | some d => d.quads.getLsbD (coreQuad k.dest) | none => false

/-- Where a packet is dropped without notice, the router that counts it (R162, R165): bad is one at which its HCHK fails on the way. -/
def Pkt.dropAt (s : State) (bad : Option (Fin 1024)) (k : Pkt) : Option Nat :=
  match bad with
  | some r => some r.val
  | none => if k.hchk != k.check || k.refused || !k.inside s then some k.dest else none

/-- The packet is the first of its class from its source router to its destination router (R151). -/
def pktFirst (s : State) (k : Pkt) : Bool :=
  !((s.mesh.pkts.takeWhile fun x => x.id != k.id).any fun x => x.src == k.src && x.dest == k.dest && (x.kind == 1) == (k.kind == 1))

/-- A tile cut into packets of up to 1,024 B: offset, bytes, LAST (R182). -/
def tileParts (fuel o : Nat) (bs : List Byte) : List (Nat × List Byte × Bool) :=
  match fuel with
  | 0 => []
  | k + 1 => if bs.length ≤ 1024 then [(o, bs, true)] else (o, bs.take 1024, false) :: tileParts k (o + 1024) (bs.drop 1024)

/-- Key of a pair: producer index and consumer core index, which is 0 where one tile serves every receiver (BCAST, RED). -/
def pairKey (p : PathRec) (producer consumer : Nat) : Nat := 1024 * producer + (if p.dist == 3 || p.dist == 4 then 0 else consumer)

def receiverKey (r : Nat × Nat × Nat) : Nat := 1024 * r.1 + r.2.1

/-- The receivers that a producer's tile goes to. -/
def tileReceivers (stages : List StageRec) (p : PathRec) (producer consumer : Nat) : List (Nat × Nat × Nat) :=
  (receivers stages p).filter fun r => if p.dist == 0 then r.2.1 == producer else if p.dist == 2 then r.2.1 == consumer else true

/-- A pair before its first tile: SLOTS credits at every receiver. -/
def freshPair (stages : List StageRec) (p : PathRec) (producer consumer : Nat) : PairRt :=
  { nextSeq := 0, sentTo := 0, credits := (tileReceivers stages p producer consumer).map fun r => (receiverKey r, p.slots), replay := [] }

def getPair (stages : List StageRec) (p : PathRt) (producer consumer : Nat) : PairRt :=
  tget p.pairs (pairKey p.cfg producer consumer) (freshPair stages p.cfg producer consumer)

/-- The packets of one tile of a producer, to those of its receivers that pass a test (R167, R182, R193). -/
def sendTile (pad : Nat) (pl : Pipe) (p : PathRt) (producer consumer seq : Nat) (bs : List Byte) (replay : Bool) (wants : Nat × Nat × Nat → Bool)
    (s : State) : State :=
  let src := (producers pl.recs p.cfg)[producer]?.getD 0
  if p.cfg.dist == 4 then
    sendPkt { blankPkt 2 pad p src src with last := true, replay := replay, seq := seq, rform := p.cfg.rform, enter := p.cfg.rform == 1,
                                            anchor := if p.cfg.rform == 1 then p.cfg.anchor else 0, payload := bs } s
  else
    let rank := if p.cfg.dist == 0 then 0 else producer
    ((tileReceivers pl.recs p.cfg producer consumer).filter wants).foldl (fun s r =>
      (tileParts (bs.length / 1024 + 1) 0 bs).foldl (fun s x =>
        sendPkt { blankPkt 0 pad p src r.2.2 with last := x.2.2, replay := replay, seq := seq, offset := x.1, m := r.1, rank := rank, payload := x.2.1 } s) s) s

/-! ## Replay slots (R182, R186) -/

/-- Bytes that one tile or contribution of a path occupies in its replay slot. -/
def slotBytes (p : PathRec) : Nat := if p.dist == 4 then (if p.rform == 1 then 160 else 1024) else p.tile.toNat

/-- Where a tile's replay slot starts in the commons that the record area leaves. The slots stand at their end, paths in the order of their records, each with
its receiving cores, producer ranks and slots in order; where in the commons is not stated (DESIGN CHOICE, log 117). -/
def replaySlot (s : State) (pad : Nat) (pl : Pipe) (p : PathRec) (producer consumer seq : Nat) : Nat :=
  let np := sizeOfStage pl.recs p.from_.toNat
  let recs := pl.pathRecs
  let before := ((recs.takeWhile fun q => q.path != p.path).map (replayBytes pl.recs)).sum
  let first := match tileReceivers pl.recs p producer consumer with
    | r :: _ => (receivers pl.recs p).findIdx fun q => q == r
    | [] => 0
  let n := if p.dist == 4 then producer else first * p.ranks np + (if p.dist == 0 then 0 else producer)
  commonsFree s pad - (recs.map (replayBytes pl.recs)).sum + before + (n * p.slots + seq % p.slots) * slotBytes p

/-- The LOFT offsets and lengths that n bytes from x on of the commons beside the record area have. -/
def freePieces (s : State) (pad x n : Nat) : List (Nat × Nat) :=
  let h := recordHole s pad
  if h.2 = 0 || x + n ≤ h.1 then [(x, n)] else if h.1 ≤ x then [(x + h.2, n)] else [(x, h.1 - x), (h.1 + h.2, n - (h.1 - x))]

/-- A replay slot read. -/
def readSlotBytes (s : State) (pad x n : Nat) : List Byte :=
  (freePieces s pad x n).flatMap fun c => (commonsSpan s pad c.1 c.2).map fun b => match b with | some i => mread s.mem.commons i | none => 0

/-- A replay slot written. -/
def writeSlotBytes (pad x : Nat) (bs : List Byte) (s : State) : State :=
  ((freePieces s pad x bs.length).foldl (fun (acc : State × List Byte) c => (commonsWrite pad c.1 (acc.2.take c.2) acc.1, acc.2.drop c.2)) (s, bs)).1

/-- A slice that the bytes lie on is being retired. -/
def slotBytesHold (s : State) (pad x n : Nat) : Bool := (freePieces s pad x n).any fun c => commonsHold s pad c.1 c.2

/-- Tokens drawn for a replay slot's bytes in grants (R398, R399), from the got bytes that have theirs on: how many then have. -/
def drawSlot (fuel pad at_ n got : Nat) (s : State) : State × Nat :=
  match fuel with
  | 0 => (s, got)
  | k + 1 =>
    let m := min (n - got) (grantBytes s pad [2])
    if m = 0 then (s, got)
    else
      let r := draw pad [(2, m)] s
      match r.2 with
      | none => (r.1, got)
      | some l => if outranked s l ((freePieces s pad (at_ + got) m).flatMap fun c => commonsArbiters s pad c.1) then (s, got) else drawSlot k pad at_ n (got + m) r.1

/-- The local store of core n for a stage: of its block, or what persists between invocations (R172). -/
def modStageLocal (pad k n : Nat) (f : Mem → Mem) (s : State) : State :=
  match (getCore s n).blocks.find? fun b => b.2.pad == pad && (match b.2.src with | .stage j _ => j == k | _ => false) with
  | some b => modLocal n b.1 f s
  | none => modStage pad k (fun x => { x with locals := tput x.locals (plotIndex x.cfg.cores n) (f (tget x.locals (plotIndex x.cfg.cores n) [])) }) s

def stageLocal (s : State) (pad k n : Nat) : Mem :=
  match (getCore s n).blocks.find? fun b => b.2.pad == pad && (match b.2.src with | .stage j _ => j == k | _ => false) with
  | some b => b.2.loc
  | none => match getPipe s pad with
    | none => []
    | some p => match stageRt p k with
      | none => []
      | some x => tget x.locals (plotIndex x.cfg.cores n) []

/-- Bytes of a tile land at a receiver, and an add to its post goes out (R180). -/
def landTile (pad : Nat) (pl : Pipe) (p : PathRt) (m i core rank seq offset : Nat) (last : Bool) (bs : List Byte) (s : State) : State :=
  match p.cfg.consumers[m]? with
  | none => s
  | some k =>
    let ranks := p.cfg.ranks (sizeOfStage pl.recs p.cfg.from_.toNat)
    let a := p.cfg.sbase.toNat + (rank * p.cfg.slots + seq % p.cfg.slots) * p.cfg.tile.toNat + offset
    let s := modStageLocal pad k core (fun mem => mwrites mem a bs) s
    let n := if p.cfg.postmode then b2n last else bs.length
    if n = 0 then s
    else match padPost s pad (landPost p.cfg (sizeOfStage pl.recs p.cfg.to_.toNat) ranks m i rank) with
      | some d => { s with posts := { s.posts with upds := s.posts.upds ++ [{ id := s.posts.nextId, post := d, isSet := false, value := n, pad := some pad,
                                                                               after := [], sends := [], path := some p.cfg.path }],
                                                   nextId := s.posts.nextId + 1 } }
      | none => bumpPad pad 7 1 s

/-- A packet's path, where its paddock still has it. -/
def pktPath (s : State) (k : Pkt) : Option (Pipe × PathRt) :=
  match getPipe s k.pad with
  | none => none
  | some pl => (pl.paths.find? fun p => p.cfg.path == k.path).map fun p => (pl, p)

/-- A packet of a kind comes to its router, first of its class: it is dropped and counted where R162 says so (a refused KIND by any of the rows), or where
its generation is an older one (R192); else it is handed on with its path. -/
def arrive (kind : BitVec 4) (id : Nat) (bad : Option (Fin 1024)) (s : State) : State × Option (Pkt × Pipe × PathRt) :=
  match s.mesh.pkts.find? fun k => k.id == id && (k.kind == kind || decide (7 ≤ k.kind.toNat)) with
  | none => (s, none)
  | some k =>
    if !pktFirst s k then (s, none)
    else
      let s' := dropPkt id s
      match k.dropAt s bad with
      | some r => (bump (1024 + coreDie r) 1 s', none)
      | none => match pktPath s k with
        | none => (s', none)
        | some (pl, p) => if k.gen ≠ p.gen then (bumpPad k.pad 11 1 s', none) else (s', some (k, pl, p))

/-- PATH_DATA: a packet of the current generation lands (R180). -/
def pathData (id : Nat) (bad : Option (Fin 1024)) (s : State) : State :=
  match arrive 0 id bad s with
  | (s, some (k, pl, p)) => match (receivers pl.recs p.cfg).find? fun r => r.1 == k.m && r.2.2 == k.dest with
    | some r => landTile k.pad pl p r.1 r.2.1 r.2.2 k.rank k.seq k.offset k.last k.payload s
    | none => s
  | (s, none) => s

/-! ## path.send (R182, R183, R194) -/

/-- The stage and plot index of a block, and its paddock's pipeline. -/
def blockStage (s : State) (b : Block) : Option (Nat × Pipe) :=
  match b.src, getPipe s b.pad with
  | .stage k _, some p => some (k, p)
  | _, _ => none

/-- A credit is held at every receiver of the next tile, or the tile is suppressed (R182, R194). -/
def pairReady (r : PairRt) : Bool := decide (r.nextSeq < r.sentTo) || r.credits.all fun c => decide (0 < c.2)

/-- The path that a path.send names, where it is not dropped (R183). -/
def sendPath (s : State) (b : Block) (path len cons : Nat) : Option (Pipe × PathRt) :=
  match blockStage s b with
  | none => none
  | some (k, pl) => match pl.paths.find? fun p => p.cfg.path.toNat == path && p.cfg.from_.toNat == k with
    | none => none
    | some p =>
      let tile := p.cfg.tile.toNat
      if len % 16 ≠ 0 || len < 16 || len > tile || ((!p.cfg.postmode || p.cfg.dist == 4) && len ≠ tile) ||
          (p.cfg.dist == 2 && decide (sizeOfStage pl.recs p.cfg.to_.toNat ≤ cons)) then none
      else some (pl, p)

/-- The consumer core index that a pair's key takes (R179). -/
def pairConsumer (p : PathRec) (producer cons : Nat) : Nat := if p.dist == 2 then cons else if p.dist == 0 then producer else p.cidx.toNat

/-- The tile of a path.send that is suppressed at its source: its post and the count alone (R194). -/
def suppressSend (pl : Pipe) (p : PathRt) (b : Block) (len : Nat) (post : W32) (cons : Nat) (s : State) : State :=
  let c := pairConsumer p.cfg b.plotIdx cons
  let r := getPair pl.recs p b.plotIdx c
  addOpt b.pad post len (bumpPad b.pad 10 1 (modPath b.pad p.cfg.path.toNat (fun x =>
    { x with pairs := tput x.pairs (pairKey p.cfg b.plotIdx c) { r with nextSeq := r.nextSeq + 1 } }) s))

/-- The bytes that a path.send sends (R168, R182). -/
def sentBytes (p : PathRec) (len : Nat) : Nat := if p.dist == 4 && p.rform == 1 then 160 else len

/-- Steps 2 to 4 of R182, with the credit held and the tokens of the replay slot drawn. -/
def doSend (pl : Pipe) (p : PathRt) (b : Block) (addr len : Nat) (post : W32) (cons : Nat) (s : State) : State :=
  let c := pairConsumer p.cfg b.plotIdx cons
  let r := getPair pl.recs p b.plotIdx c
  let bs := mreads b.loc (addr % 524288) (sentBytes p.cfg len)
  let seq := r.nextSeq
  let r := { r with nextSeq := seq + 1, credits := r.credits.map (fun e => (e.1, e.2 - 1)), replay := r.replay ++ [(seq, bs.length)] }
  let s := modPath b.pad p.cfg.path.toNat (fun x => { x with pairs := tput x.pairs (pairKey p.cfg b.plotIdx c) r }) s
  let s := writeSlotBytes b.pad (replaySlot s b.pad pl p.cfg b.plotIdx c seq) bs s
  addOpt b.pad post len (sendTile b.pad pl p b.plotIdx c seq bs false (fun _ => true) s)

/-- A group that waits in a path.send sends once its credit is held, its replay slot can be written and the tokens for it are drawn, in the order of its
team's accesses (R182, R212, R399). -/
def trySend (core slot team : Nat) (g : TGroup) (s : State) : State :=
  match getBlock s core slot, g.wait with
  | some b, some (.send path addr len post cons since got) =>
    match sendPath s b path len cons with
    | none => modTeam core slot team (Team.release g.born) (bumpPad b.pad 9 1 s)
    | some (pl, p) =>
      let x := pairConsumer p.cfg b.plotIdx cons
      let r := getPair pl.recs p b.plotIdx x
      if !pairReady r then s
      else if since > 0 && blockedBy s core slot team (since - 1) (compactPad s b.pad) (spansAt s b.pad b.tag 0 core slot 0 addr len) then s
      else if r.nextSeq < r.sentTo then modTeam core slot team (Team.release g.born) (suppressSend pl p b len post cons s)
      else
        let n := sentBytes p.cfg len
        let at_ := replaySlot s b.pad pl p.cfg b.plotIdx x r.nextSeq
        if slotBytesHold s b.pad at_ n then s
        else
          let y := drawSlot (n + 1) b.pad at_ n got s
          if y.2 < n then
            let w : GWait := .send path addr len post cons since y.2
            modTeam core slot team (fun t => { t with ring := mapWhere (fun h => h.born == g.born) (fun h => { h with wait := some w }) t.ring }) y.1
          else modTeam core slot team (Team.release g.born) (doSend pl p b addr len post cons y.1)
  | _, _ => s

/-- Every group of a paddock's producer cores that waits in a path.send is looked at, core by core (R184). -/
def retrySends (pad : Nat) (s : State) : State :=
  (s.cores.filter fun c => c.2.blocks.any fun b => b.2.pad == pad).foldl (fun s c =>
    c.2.blocks.foldl (fun s b => b.2.teams.foldl (fun s t =>
      (t.2.ring.filter fun g => match g.wait with | some (.send ..) => true | _ => false).foldl (fun s g => trySend c.1 b.1 t.1 g s) s) s) s) s

/-! ## Credits (R184) -/

/-- CREDIT: slots return to a producer and waiting sends go on; of an older generation it is dropped and counted. -/
def credit (id : Nat) (bad : Option (Fin 1024)) (s : State) : State :=
  match arrive 1 id bad s with
  | (s, some (k, pl, p)) =>
    let r := getPair pl.recs p k.rank (k.m % 1024)
    let key := pairKey p.cfg k.rank (k.m % 1024)
    let r := { r with credits := r.credits.map (fun e => if e.1 = k.m then (e.1, e.2 + k.count) else e),
                      replay := r.replay.filter fun x => decide (k.seq ≤ x.1) }
    retrySends k.pad (modPath k.pad p.cfg.path.toNat (fun x => { x with pairs := tput x.pairs key r }) s)
  | (s, none) => s

/-- The invocation from which a pipeline's tiles are numbered: 0, or the one an auto-resume began at. There sequence numbers begin at 0 again, as the posts
do (R471), and R184 and R194 count from it (DESIGN CHOICE, log 118). -/
def Pipe.firstInv (pl : Pipe) : Nat := match pl.start with | some st => st.first | none => 0

/-- The first tile of a path that is not committed: with EXTRA stages, by the last of its consumer stages (R184). -/
def PathRt.committed (p : PathRt) : Nat :=
  ((List.range p.cfg.consumers.length).map fun j => tget p.commits j 0).foldl min (tget p.commits 0 0)

/-- The tiles that a stage's invocation consumed are committed: CREDIT packets to every producer rank (R184). Under BCAST a tile is committed once the last of
its consumer stages has committed it; under RED every producer core is told (DEDUCED, log 23). SEQ holds the first tile not committed. -/
def commitPath (pad : Nat) (pl : Pipe) (k inv : Nat) (p : PathRt) (s : State) : State :=
  let mine := (p.cfg.consumers.zipIdx.filter fun c => c.1 == k).map Prod.snd
  if mine.isEmpty then s
  else
    let commits := mine.foldl (fun t m => tput t m ((inv + 1 - pl.firstInv) * p.cfg.tpi)) p.commits
    let old := p.committed
    let new := PathRt.committed { p with commits := commits }
    let s := modPath pad p.cfg.path.toNat (fun x => { x with commits := commits }) s
    if new ≤ old then s
    else
      (pathPairs pl.recs p.cfg).foldl (fun s x =>
        let r := x.2.2
        sendPkt { blankPkt 1 pad p r.2.2 x.2.1 with last := true, seq := new, m := receiverKey r, rank := x.1, count := new - old } s) s

/-! ## Reductions (R166 to R168) -/

/-- The input port of router b at which a packet from a neighbouring router a arrives. -/
def inputFrom (a b : Nat) : Fin 5 :=
  if coreY a < coreY b then 1 else if coreX a > coreX b then 2 else if coreY a > coreY b then 3 else 4

/-- Fan-in of a router for a RED path: its own core, and each neighbour that the tree leads in from. -/
def fanIn (stages : List StageRec) (p : PathRec) (n : Nat) : Nat :=
  let own := b2n ((producers stages p).contains n)
  let prev := ((pathSteps stages p).flatMap steps).filterMap fun x => if x.2 = n then some x.1 else none
  own + prev.eraseDups.length

/-- The next router of the tree toward the consumer core. -/
def nextHop (n dest : Nat) : Nat := ((route n dest)[1]?).getD n

/-- FP32 values of a payload. -/
def words (n : Nat) (bs : List Byte) (i : Nat) : Nat := fldAt bs (n * i) n

/-- Long forms and status of a contribution (R167, R168). -/
def pktLongs (k : Pkt) : List LongForm :=
  (List.range 40).map fun i =>
    if k.enter then longEnter k.anchor (fp32.decode (words 4 k.payload i))
    else { bits := BitVec.ofNat 192 (words 24 k.payload i), ovf := false, oppinf := false }

/-- Contributions combined left to right in the input order. The combination is no team's, and no team's NV is set by a signalling NaN (DESIGN CHOICE,
log 119). -/
def combinePkts (p : PathRec) (ks : List Pkt) : List Byte × Bool × Bool :=
  match ks with
  | [] => ([], false, false)
  | k :: r =>
    if p.rform = 1 then
      let fs := r.foldl (fun acc x => (acc.zip (pktLongs x)).map fun y => longCombine y.1 y.2) (pktLongs k)
      (fs.flatMap fun f => leBytes 24 f.bits.toNat, ks.any (fun x => x.ovf) || fs.any (fun f => f.ovf), ks.any (fun x => x.oppinf) || fs.any fun f => f.oppinf)
    else if p.rform = 0 then
      ((List.range 256).flatMap fun i => leBytes 4 (r.foldl (fun a x => (fAdd fp32 .rn a (words 4 x.payload i)).1) (words 4 k.payload i)), false, false)
    else
      ((List.range 512).flatMap fun i => leBytes 2 (r.foldl (fun a x =>
        if toSigned 16 a < toSigned 16 (words 2 x.payload i) then words 2 x.payload i else a) (words 2 k.payload i)), false, false)

/-- The tile that a reduction delivers (R168). -/
def deliveredTile (p : PathRec) (x : List Byte × Bool × Bool) : List Byte :=
  if p.rform = 1 then x.1 ++ leBytes 4 (b2n x.2.1 + 2 * b2n x.2.2) ++ List.replicate 28 0 else x.1

/-- RED: a contribution arrives at a router; at full fan-in the router combines and forwards, or delivers. -/
def red (id : Nat) (bad : Option (Fin 1024)) (s : State) : State :=
  match arrive 2 id bad s with
  | (s, some (k, pl, p)) =>
    let here := k.dest
    let same (e : RedEntry) : Bool := e.router == here && e.pad == k.pad && e.path == k.path && e.gen == k.gen && e.seq == k.seq && e.offset == k.offset
    let got := (match s.mesh.red.find? same with | some e => e.got | none => []) ++ [k]
    let rest := s.mesh.red.filter fun e => !same e
    if got.length < fanIn pl.recs p.cfg here then
      { s with mesh := { s.mesh with red := { router := here, pad := k.pad, path := k.path, gen := k.gen, seq := k.seq, offset := k.offset, got := got } :: rest } }
    else
      let s := { s with mesh := { s.mesh with red := rest } }
      let x := combinePkts p.cfg ((List.range 5).flatMap fun i => got.filter fun g => g.input.val == i)
      match receivers pl.recs p.cfg with
      | [] => s
      | r :: _ =>
        if here = r.2.2 then landTile k.pad pl p r.1 r.2.1 here 0 k.seq 0 true (deliveredTile p.cfg x) s
        else
          let next := nextHop here r.2.2
          sendPkt { k with src := here, dest := next, input := inputFrom here next, enter := false, ovf := x.2.1, oppinf := x.2.2, payload := x.1,
                           replay := got.all fun g => g.replay } s
  | (s, none) => s

/-! ## Ends of invocations (R174) -/

/-- The pipeline ends: EPOST gets its 1 and a job is completed (R171, R380, R403). -/
def endPipe (pad : Nat) (s : State) : State :=
  match getPipe s pad with
  | none => s
  | some p => match p.start with
    | none => s
    | some st =>
      if !st.ended && st.count != 0 && p.stages.all fun x => decide (st.count.toNat ≤ x.inv) then
        addOpt pad st.epost 1 (countCompleted pad (modPipe pad (fun p => { p with start := some { st with ended := true } }) s))
      else s

/-- Every block of the invocation has exited, and no path.send of it still waits. -/
def invocationOver (s : State) (pad : Nat) (x : StageRt) : Bool :=
  x.cfg.cores.all fun n => (getCore s n).blocks.any fun b => b.2.pad == pad && b.2.src == .stage x.cfg.stage.toNat x.inv && b.2.exited &&
    b.2.teams.all fun t => t.2.ring.all fun g => match g.wait with | some (.send ..) => false | _ => true

/-- An invocation ends: its local stores persist, its tiles commit, retirements are made, the next invocation may be released (R172, R174, R184, R459). -/
def invocationEnd (pad k : Nat) (s : State) : State :=
  match getPipe s pad with
  | none => s
  | some pl => match stageRt pl k with
    | none => s
    | some x =>
      if !x.running || !invocationOver s pad x then s
      else
        let locals := x.cfg.cores.zipIdx.foldl (fun t c => tput t c.2 (stageLocal s pad k c.1)) x.locals
        let s := x.cfg.cores.foldl (fun s n =>
          let c := getCore s n
          setCore n { c with blocks := c.blocks.filter fun b => !(b.2.pad == pad && b.2.src == .stage k x.inv) } s) s
        let s := modStage pad k (fun x => { x with inv := x.inv + 1, running := false, locals := locals.filter fun e => !e.2.isEmpty }) s
        let s := pl.paths.foldl (fun s p => commitPath pad pl k x.inv p s) s
        let s := x.cfg.cores.foldl (fun s n => retireIfFree n s) s
        releaseStages pad (endPipe pad s)

/-! ## Moves (R190 to R195) -/

/-- The first tile of a pair that is not complete at the consumer's present placement, by its landing post; a moved consumer keeps none, and the first
uncommitted tile counts (R191, R193). -/
def firstMissing (s : State) (pad : Nat) (pl : Pipe) (p : PathRt) (movedConsumer : Bool) (r : Nat × Nat × Nat) (rank : Nat) : Nat :=
  if movedConsumer then p.committed
  else
    let ranks := p.cfg.ranks (sizeOfStage pl.recs p.cfg.from_.toNat)
    match padPost s pad (landPost p.cfg (sizeOfStage pl.recs p.cfg.to_.toNat) ranks r.1 r.2.1 rank) with
    | some d => if p.cfg.postmode then (postValue s d).toNat else (postValue s d).toNat / p.cfg.tile.toNat
    | none => 0

/-- One path of a moved stage: new generation, posts, credits, replays to the receivers that lack a tile, suppression (R191, R193, R194). Adds on their way
that packets of the old generation made are not counted (R192). pl is the pipeline with the new plot. -/
def movePath (pad : Nat) (pl : Pipe) (k inv : Nat) (p : PathRt) (s : State) : State :=
  let asConsumer := p.cfg.consumers.contains k
  let asProducer := p.cfg.from_.toNat == k
  if !asConsumer && !asProducer then s
  else
    let discarded := (s.mesh.red.filter fun e => e.pad == pad && e.path == p.cfg.path).length
    let s := { s with mesh := { s.mesh with red := s.mesh.red.filter fun e => !(e.pad == pad && e.path == p.cfg.path) },
                      posts := { s.posts with upds := s.posts.upds.filter fun u => !(u.pad == some pad && u.path == some p.cfg.path) } }
    let s := bumpPad pad 12 discarded s
    let p := { p with gen := p.gen + 1 }
    let s := modPath pad p.cfg.path.toNat (fun x => { x with gen := p.gen }) s
    let ranks := p.cfg.ranks (sizeOfStage pl.recs p.cfg.from_.toNat)
    let movedAt (m : Nat) : Bool := p.cfg.consumers[m]? == some k
    let first (r : Nat × Nat × Nat) (rank : Nat) : Nat := firstMissing s pad pl p (movedAt r.1) r rank
    let posts : List (Nat × Nat) := (receivers pl.recs p.cfg).flatMap fun r => (List.range ranks).map fun rank =>
      (landPost p.cfg (sizeOfStage pl.recs p.cfg.to_.toNat) ranks r.1 r.2.1 rank, first r rank * (if p.cfg.postmode then 1 else p.cfg.tile.toNat))
    let pairs := ((pathPairs pl.recs p.cfg).map fun x => (x.1, x.2.2.2.1)).map (fun x => (x.1, if p.cfg.dist == 3 || p.cfg.dist == 4 then 0 else x.2)) |>.eraseDups
    let s' := pairs.foldl (fun s x =>
      let r := getPair pl.recs p x.1 x.2
      let rank := if p.cfg.dist == 0 || p.cfg.dist == 4 then 0 else x.1
      let recvs := tileReceivers pl.recs p.cfg x.1 x.2
      let sent := max r.nextSeq r.sentTo
      let credits := recvs.map fun c => (receiverKey c, p.cfg.slots - (sent - first c rank))
      let r := if asProducer then { r with sentTo := sent, nextSeq := (inv - pl.firstInv) * p.cfg.tpi, credits := credits } else { r with credits := credits }
      let s := modPath pad p.cfg.path.toNat (fun y => { y with pairs := tput y.pairs (pairKey p.cfg x.1 x.2) r }) s
      (r.replay.filter fun t => recvs.any fun c => decide (first c rank ≤ t.1)).foldl (fun s t =>
        sendTile pad pl p x.1 x.2 t.1 (readSlotBytes s pad (replaySlot s pad pl p.cfg x.1 x.2 t.1) t.2) true (fun c => decide (first c rank ≤ t.1)) s) s) s
    posts.foldl (fun s x => match padPost s pad x.1 with
      | some d => releaseWaits d (setPostValue d (BitVec.ofNat 48 x.2) s)
      | none => s) s'

/-- A move takes effect at a boundary (R191, R194). -/
def takeMove (pad : Nat) (m : MoveRt) (s : State) : State :=
  match getPipe s pad with
  | none => s
  | some pl => match stageRt pl m.stage with
    | none => s
    | some x =>
      let mine (b : Block) : Bool := b.pad == pad && (match b.src with | .stage k _ => k == m.stage | _ => false)
      let at_ (core slot : Nat) : Bool := match getBlock s core slot with | some b => mine b | none => false
      let s := dropWaits (fun w => match w.who with | .group c k _ _ => at_ c k | _ => false) s
      let s := dropAccesses (fun a => at_ a.core a.slot) (fun c => at_ c.core c.slot) s
      let new := ({ x.cfg with px := BitVec.ofNat 6 m.px, py := BitVec.ofNat 4 m.py } : StageRec).cores
      let s := localsGone pad (fun n => x.cfg.cores.contains n && !new.contains n) (endBlocks mine s)
      let s := modStage pad m.stage (fun x => { x with cfg := { x.cfg with px := BitVec.ofNat 6 m.px, py := BitVec.ofNat 4 m.py }, locals := [] }) s
      let s := modPipe pad (fun p => { p with moves := p.moves.map fun y => if y == m then { m with took := true, inv := x.inv } else y }) s
      match getPipe s pad with
      | none => s
      | some pl => retrySends pad (pl.paths.foldl (fun s p => movePath pad pl m.stage x.inv p s) s)

/-- MOVE_REPLAYS_LANDED: the replays have landed and the blocks of the restarted invocation have started: DONE (R195). -/
def moveReplaysLanded (pad k : Nat) (s : State) : State :=
  match getPipe s pad with
  | none => s
  | some pl => match pl.moves.find? fun m => m.took && m.stage == k, stageRt pl k with
    | some m, some x =>
      let paths := (pl.paths.filter fun p => p.cfg.from_.toNat == k || p.cfg.consumers.contains k).map fun p => p.cfg.path
      let inFlight := s.mesh.pkts.any fun q => q.pad == pad && q.replay && paths.contains q.path
      let started := decide (m.inv < x.inv) || x.cfg.cores.all fun n => (getCore s n).blocks.any fun b => b.2.pad == pad && b.2.src == .stage k x.inv
      if inFlight || !started then s
      else
        let s := modPipe pad (fun p => { p with moves := p.moves.filter fun y => y != m }) s
        statusOpt m.cmd done [] s
    | _, _ => s

/-- The table of a loaded pipeline with one stage on another plot. -/
def movedTable (pl : Pipe) (k px py : Nat) : Table :=
  { period := pl.period, stages := pl.recs.map fun r => if r.stage.toNat = k then { r with px := BitVec.ofNat 6 px, py := BitVec.ofNat 4 py } else r,
    paths := pl.pathRecs, bad := none }

/-- Cores that a pipeline's moves of other stages than k have reserved (R190). -/
def reservedPlots (pl : Pipe) (k : Nat) : List Nat :=
  (pl.moves.filter fun m => !m.took && m.stage != k).flatMap fun m => match stageRt pl m.stage with
    | some x => ({ x.cfg with px := BitVec.ofNat 6 m.px, py := BitVec.ofNat 4 m.py } : StageRec).cores
    | none => []

/-- The cores of the plots of a loaded pipeline, those that its moves have reserved among them (R186, R190). -/
def Pipe.plots (pl : Pipe) : List Nat := pl.recs.flatMap StageRec.cores ++ reservedPlots pl 64

/-- The admission of a move (R190): the checks of R187 of the new plot with the stage's paths. -/
def moveAdmission (s : State) (pad : Nat) (pl : Pipe) (k px py : Nat) : Option (Nat × Nat) :=
  let t := movedTable pl k px py
  match stageOf t.stages k with
  | none => some (1, k)
  | some r =>
    if !plotOk s pad (((t.stages.filter fun x => x.stage != r.stage).flatMap StageRec.cores) ++ reservedPlots pl k) r then some (2, k)
    else pathChecks s pad t [r] (t.paths.filter fun p => p.from_.toNat == k || p.consumers.contains k)

/-- An admitted move is reserved (R190). -/
def reserveMove (cmd : Option Nat) (pad k px py : Nat) (s : State) : State :=
  modPipe pad (fun p => { p with moves := p.moves ++ [{ cmd := cmd, stage := k, px := px, py := py, took := false, inv := 0 }] }) s

/-! ## Cores judged failed (R459, R460) -/

/-- A free plot of a stage's shape in its paddock that admits it. -/
def freePlot (s : State) (pad : Nat) (pl : Pipe) (k : Nat) : Option (Nat × Nat) :=
  ((List.range 16).flatMap fun y => (List.range 64).map fun x => (x, y)).find? fun c =>
    let busy := match getPad s pad with | some d => d.launches.flatMap (fun (l : Launch) => launchCores l.p) | none => []
    let plot := match stageRt pl k with | some x => ({ x.cfg with px := BitVec.ofNat 6 c.1, py := BitVec.ofNat 4 c.2 } : StageRec).cores | none => []
    !plot.any (fun n => busy.contains n) && (moveAdmission s pad pl k c.1 c.2).isNone

/-- The paddock and stage on whose plot a core stands. -/
def plotOf (s : State) (n : Nat) : Option (Nat × Pipe × StageRt) :=
  s.pads.findSome? fun e => match e.2.pipe with
    | none => none
    | some pl => (pl.stages.find? fun x => x.cfg.cores.contains n).map fun x => (e.1, pl, x)

/-- A core is judged failed: retired onto a spare site at once or when it is free; with no spare it leaves service, and its stage moves where it can. -/
def judgeCore (n : Nat) (s : State) : State :=
  let c := getCore s n
  if c.out then s
  else if (freeSites s (coreQuad n)).isEmpty then
    match plotOf s n with
    | none =>
      if c.blocks.isEmpty then outOfService n false s else setCore n { c with retire := true } s
    | some (pad, pl, x) =>
      let s' := setCore n { c with out := true } s
      match freePlot s' pad pl x.cfg.stage.toNat with
      | some q => reserveMove none pad x.cfg.stage.toNat q.1 q.2 (outOfService n true s)
      | none => setCore n { c with retire := true } s
  else if c.blocks.isEmpty then retireNow n s
  else setCore n { c with retire := true } s

end Sys2Proof.Machine
end

