-- ==== Sys2Proof/Machine/Drays.lean ====
section
/-! DEFINITION. Drays: descriptors, queues, transfers (R200 to R209), the COPY command (R376), bounce pages (R528 to R531), check units (R449 to R452). -/

namespace Sys2Proof.Machine

/-! ## Descriptors (R204) -/

/-- A descriptor from its 64 bytes. -/
def parseDesc (bs : List Byte) : DrayDesc :=
  let f := fldAt bs
  { op := BitVec.ofNat 4 (f 0 1), dspace := BitVec.ofNat 3 (f 1 1), sspace := BitVec.ofNat 3 (f 1 1 / 8), hint := BitVec.ofNat 2 (f 1 1 / 64),
    crypt := BitVec.ofNat 2 (f 2 1), chk := BitVec.ofNat 4 (f 2 1 / 4), wait := bitOf (f 2 1) 6, dcore := BitVec.ofNat 10 (f 4 2),
    score := BitVec.ofNat 10 (f 6 2), daddr := BitVec.ofNat 64 (f 8 8), saddr := BitVec.ofNat 64 (f 16 8), len := BitVec.ofNat 32 (f 24 4),
    rows := BitVec.ofNat 16 (f 28 2), sstride := BitVec.ofNat 32 (f 32 4), dstride := BitVec.ofNat 32 (f 36 4), dpost := BitVec.ofNat 32 (f 40 4),
    wpost := BitVec.ofNat 32 (f 44 4), wtarget := BitVec.ofNat 48 (f 48 6), tag := BitVec.ofNat 32 (f 56 4),
    rsv := bitsOf (f 0 1) 7 4 != 0 || bitOf (f 2 1) 7 || f 3 1 != 0 || bitsOf (f 4 2) 15 10 != 0 || bitsOf (f 6 2) 15 10 != 0 || f 30 2 != 0 || f 54 2 != 0,
    dchkOk := crc crc32c (bs.take 60) == f 60 4 }

/-- The operation accesses a source; a destination (R206). -/
def descReads (d : DrayDesc) : Bool := decide (d.op.toNat ≤ 1)

def descWrites (d : DrayDesc) : Bool := decide (d.op.toNat ≤ 2)

def descRows (d : DrayDesc) : Nat := if d.op = 1 then d.rows.toNat else 1

/-- Bytes that the descriptor moves. -/
def descTotal (d : DrayDesc) : Nat := if d.op = 3 then 0 else descRows d * d.len.toNat

def descSrc (d : DrayDesc) (i : Nat) : Nat := d.saddr.toNat + i / d.len.toNat * d.sstride.toNat + i % d.len.toNat

def descDst (d : DrayDesc) (i : Nat) : Nat := d.daddr.toNat + i / d.len.toNat * d.dstride.toNat + i % d.len.toNat

/-- A field holds a refused value, or one that its operation wants zero. -/
def descBad (d : DrayDesc) : Bool :=
  d.rsv || decide (3 < d.op.toNat) || decide (4 < d.dspace.toNat) || decide (4 < d.sspace.toNat) || d.crypt == 3 || decide (8 < d.chk.toNat) ||
  (!descWrites d && (d.dspace != 0 || d.daddr != 0)) || (!descReads d && d.sspace != 0) || (d.op == 3 && d.saddr != 0) ||
  (!(descWrites d && d.dspace == 0) && d.dcore != 0) || (!(descReads d && d.sspace == 0) && d.score != 0) ||
  (d.op == 1 && d.rows == 0) || (d.op != 1 && (d.rows != 0 || d.sstride != 0 || d.dstride != 0)) || (!d.wait && (d.wpost != 0 || d.wtarget != 0))

/-- An alignment or length rule of R204 is broken. -/
def descMisaligned (d : DrayDesc) : Bool :=
  (descWrites d && (d.daddr.toNat % 16 != 0 || d.len.toNat % 16 != 0)) || (descReads d && d.saddr.toNat % 16 != 0) || d.len == 0 ||
  d.sstride.toNat % 16 != 0 || d.dstride.toNat % 16 != 0

/-- The stage of the paddock's pipeline whose plot holds a core. -/
def stageAtCore (s : State) (pad n : Nat) : Option StageRt :=
  match getPipe s pad with
  | some p => p.stages.find? fun x => x.cfg.cores.contains n
  | none => none

/-- A LOCAL side names no core of a plot; or its range is not in the stage block's local store (R206). -/
def sideCore (s : State) (pad : Nat) (core : BitVec 10) : Bool := (stageAtCore s pad core.toNat).isNone

def sideRange (s : State) (pad : Nat) (core : BitVec 10) (last : Nat) : Bool :=
  match stageAtCore s pad core.toNat with
  | some x => decide (4096 * shapeLocal x.cfg.shape < last)
  | none => false

/-- DPOST or a WPOST that is waited on names no post (R206). -/
def descPosts (s : State) (pad : Nat) (d : DrayDesc) : Bool :=
  (d.dpost != noneHandle && (handlePost s pad d.dpost).isNone) || (d.wait && (handlePost s pad d.wpost).isNone)

/-- The first case of R206 that a descriptor meets. copy: it is a COPY's, to which HOST and CRYPT are permitted (R376). -/
def skipReason (s : State) (pad die : Nat) (copy : Bool) (d : DrayDesc) : Option SkipReason :=
  let host := (descWrites d && d.dspace == 4) || (descReads d && d.sspace == 4)
  let last (a stride : Nat) : Nat := a + (descRows d - 1) * stride + d.len.toNat
  if !d.dchkOk then some .dchk
  else if descBad d then some .field
  else if descMisaligned d then some .alignment
  else if !copy && (host || d.crypt != 0) then some .queue3
  else if host && decide (die < 8) then some .hostDie
  else if d.chk != 0 && decide (die < 8) then some .checkDie
  else if (descWrites d && d.dspace == 0 && sideCore s pad d.dcore) || (descReads d && d.sspace == 0 && sideCore s pad d.score) then some .core
  else if (descWrites d && d.dspace == 0 && sideRange s pad d.dcore (last d.daddr.toNat d.dstride.toNat)) ||
      (descReads d && d.sspace == 0 && sideRange s pad d.score (last d.saddr.toNat d.sstride.toNat)) then some .range
  else if descPosts s pad d then some .post
  else none

/-- The case of R206 that a dray meets as it reads a descriptor. What concerns the pipeline's plots can change while a WAIT holds the descriptor, and is
checked when it starts (DEDUCED, log 57). -/
def readReason (s : State) (pad die : Nat) (d : DrayDesc) : Option SkipReason :=
  match skipReason s pad die false d with
  | some .core => if descPosts s pad d then some .core else none
  | some .range => if descPosts s pad d then some .range else none
  | r => r

/-! ## Queues -/

/-- Key of a dray queue. -/
def queueKey (die dray queue : Nat) : Nat := 128 * die + 4 * dray + queue

def QueueRec.key (r : QueueRec) : Nat := queueKey r.die.toNat r.dray.toNat r.queue.toNat

def getQueue (s : State) (k : Nat) : Option DrayQ := tfind s.drays.queues k

def setQueue (k : Nat) (q : DrayQ) (s : State) : State := { s with drays := { s.drays with queues := tput s.drays.queues k q } }

/-- A skipped descriptor is counted, and its TAG, reason and slot stand in the queue's skip record (R206). -/
def noteSkip (pad k : Nat) (tag : W32) (r : SkipReason) (slot : Nat) (s : State) : State :=
  let s := match getQueue s k with | some q => setQueue k { q with skip := some (tag, r, slot) } s | none => s
  bumpPad pad 5 1 s

/-! ## Transfers in flight -/

def findXfer (s : State) (id : Nat) : Option Xfer := s.drays.xfers.find? fun x => x.id == id

def putXfer (x : Xfer) (s : State) : State :=
  { s with drays := { s.drays with xfers := s.drays.xfers.map fun y => if y.id == x.id then x else y } }

def XferOf.isCopy (o : XferOf) : Bool := match o with | .copy _ _ => true | .queue _ _ _ => false

/-- Another transfer of the same dray queue. -/
def Xfer.with (x y : Xfer) : Bool := match x.src with | .queue _ _ _ => x.src == y.src | .copy _ _ => false

/-- Earlier descriptors of the transfer's queue that have not completed. -/
def xfersBefore (s : State) (x : Xfer) : List Xfer := s.drays.xfers.filter fun y => Xfer.with x y && decide (y.id < x.id)

/-- The unit of a dray (R461); a COPY runs on dray 0 of its die (DESIGN CHOICE, log 24). -/
def Xfer.unit (x : Xfer) : JobUnit :=
  let k := match x.src with | .queue _ k _ => k | .copy _ _ => 0
  { utype := 5, uindex := if x.die < 8 then 16 * x.die + k else 128 + 8 * (x.die - 8) + k, pad := x.pad, block := 0, team := 0, stage := 0xFF, pc := 0 }

/-- The dray that serves a transfer, at 16 × die + dray, and its queue; a COPY is on queue 3 (R200, R376). -/
def Xfer.dray (x : Xfer) : Nat := match x.src with | .queue d k _ => 16 * d + k | .copy _ _ => 16 * x.die

def Xfer.queue (x : Xfer) : Nat := match x.src with | .queue _ _ q => q | .copy _ _ => 3

/-- The engine of a transfer, whose tokens are drawn for both of its sides at once. -/
def Xfer.eng (x : Xfer) : Eng :=
  { pad := x.pad, tag := x.tag, epoch := x.epoch, look := drayLook (x.dray / 16) (x.dray % 16), hint := x.desc.hint, last := false, core := none, team := none,
    stream := true, paid := true }

/-- The key of the check unit that a descriptor names. -/
def Xfer.chk (x : Xfer) : Option Nat := if x.desc.chk = 0 then none else some (8 * (x.die - 8) + x.desc.chk.toNat - 1)

/-! ## Check units (R449 to R452) -/

/-- An arm takes effect: POLY is set, value and count are cleared, its command is done. -/
def armUnit (k : Nat) (poly : BitVec 2) (cmd : Option Nat) (s : State) : State :=
  statusOpt cmd done [] (setChk k { getChk s k with armed := true, poly := poly, bytes := 0, value := 0, run := [] } s)

/-- An arm: of a busy unit it takes effect when the unit's descriptor completes (R452). -/
def askUnit (k : Nat) (poly : BitVec 2) (cmd : Option Nat) (s : State) : State :=
  let c := getChk s k
  if c.user.isSome then setChk k { c with arms := c.arms ++ [(cmd, poly)] } s else armUnit k poly cmd s

/-- The descriptor that uses a unit is over: its bytes are taken into the value if it completed, and arms that waited take effect. -/
def freeUnit (k : Nat) (completed : Bool) (s : State) : State :=
  let c := getChk s k
  let c' := if completed then { c with bytes := c.bytes + BitVec.ofNat 64 c.run.length,
                                       value := BitVec.ofNat 64 (crcMore (crcOf c.poly.toNat) c.value.toNat c.run) } else c
  let s := setChk k { c' with user := none, run := [], arms := [] } s
  c.arms.foldl (fun t a => armUnit k a.2 a.1 t) s

/-- Bytes that a descriptor delivers to its unit. -/
def feedUnit (x : Xfer) (bs : List Byte) (s : State) : State :=
  match x.chk with
  | none => s
  | some k => setChk k { getChk s k with run := (getChk s k).run ++ bs } s

/-- Transfers removed without completing, with their waits and units. -/
def dropXfers (p : Xfer → Bool) (s : State) : State :=
  let gone := s.drays.xfers.filter p
  let s := sweepWaits { s with drays := { s.drays with xfers := s.drays.xfers.filter fun x => !p x } }
  gone.foldl (fun t x => match x.chk with
    | some k => if (getChk t k).user == some x.id then freeUnit k false t else t
    | none => t) s

/-! ## Starting (R202, R451, R531) -/

/-- An earlier-accepted CRYPT 2 COPY of the paddock has not written its entry (R531). -/
def cryptBehind (s : State) (x : Xfer) : Bool :=
  match x.src with
  | .queue _ _ _ => false
  | .copy seq _ => x.desc.crypt == 2 && s.ym.cmds.any fun c => decide (c.seq < seq) && c.hdr.paddock.toNat == x.pad && (match c.body with
      | .copy p => p.desc.crypt == 2
      | _ => false)

/-- A descriptor of a paddock queue may not start: a compute restart runs, or the paddock drains (R415, R469). -/
def queueStopped (s : State) (pad : Nat) : Bool := restarting s || (match getPad s pad with | some d => d.drain.isSome | none => true)

/-- The descriptor starts: it translates under the epoch of now (R290), and takes its check unit. -/
def beginXfer (x : Xfer) (s : State) : State :=
  let s := putXfer { x with started := true, epoch := (getSpace s x.tag).epoch } s
  match x.chk with
  | some k => setChk k { getChk s k with user := some x.id, run := [] } s
  | none => s

/-- A descriptor that was held and fails the checks of R206 as it would start is skipped. -/
def skipXfer (x : Xfer) (r : SkipReason) (s : State) : State :=
  let s := { s with drays := { s.drays with xfers := s.drays.xfers.filter fun y => y.id != x.id } }
  match x.src with
  | .queue d k q => noteSkip x.pad (queueKey d k q) x.desc.tag r x.slot s
  | .copy _ _ => s

/-- A descriptor starts if it can: every earlier one of its queue has started, its wait is over, its check unit is free. Its wait is registered when the
earlier ones have started. A COPY has passed the checks of R206 as it was accepted (R376). -/
def startXfer (id : Nat) (s : State) : State :=
  match findXfer s id with
  | none => s
  | some x =>
    if x.started || (xfersBefore s x).any (fun y => !y.started) || cryptBehind s x || (!x.src.isCopy && queueStopped s x.pad) then s
    else
      let s := if x.desc.wait && !x.waited && !(s.posts.waits.any fun w => w.who == .xfer id) then
          registerWait (.xfer id) x.die (handlePost s x.pad x.desc.wpost) x.desc.wtarget s else s
      match findXfer s id with
      | none => s
      | some x =>
        if x.desc.wait && !x.waited then s
        else match (if x.src.isCopy then none else skipReason s x.pad x.die false x.desc) with
        | some r => skipXfer x r s
        | none =>
        if (match x.chk with | some k => (getChk s k).user.isSome | none => false) then s
        else beginXfer x s

/-- Every descriptor of a transfer's queue that can start does. -/
def startDue (x : Xfer) (s : State) : State := ((xfersBefore s x).map Xfer.id ++ [x.id]).foldl (fun t i => startXfer i t) s

/-! ## Ends -/

/-- Confidential data of a paddock changed by f. -/
def modConf (pad : Nat) (f : Conf → Conf) (s : State) : State :=
  modPad pad (fun d => { d with conf := match d.conf with | some c => some (f c) | none => none }) s

/-- A transfer is over: its unit is free, a COPY writes its entry with the bytes landed and, where a page failed, 1 in result byte 8 (R376, R531). -/
def finishXfer (x : Xfer) (failed : Bool) (s : State) : State :=
  let s := { s with drays := { s.drays with xfers := s.drays.xfers.filter fun y => y.id != x.id } }
  let s := match x.chk with
    | some k => if (getChk s k).user == some x.id then freeUnit k true s else s
    | none => s
  match x.src with
  | .queue _ _ _ => s
  | .copy seq _ => writeStatus seq done (leBytes 8 x.landed ++ [if failed then 1 else 0]) s

/-! ## Engine order (R211 to R214) -/

/-- The bytes of n bytes on one side of a transfer. -/
def sideSpans (s : State) (x : Xfer) (space : Nat) (core : BitVec 10) (addr n : Nat) : List Span :=
  if space = 0 then [(50000 + core.toNat, addr, n)]
  else if space = 1 then [(0, addr, n)]
  else if space = 4 then [(40000, addr, n)]
  else (chunks addr n).filterMap fun c =>
    (reach s (tableSeen s x.eng.look x.tag x.epoch) x.pad x.tag (space == 3) false c.1).map fun y => (if space = 3 then 30000 + b2n y.1.half else 1 + b2n y.1.half, y.2, c.2)

/-- The bytes of a transfer from offset i on, row by row for k rows of n bytes. -/
def rowSpans (s : State) (x : Xfer) (i k n : Nat) : List Span :=
  (List.range k).flatMap fun r =>
    let o := i + r * x.desc.len.toNat
    (if descReads x.desc then sideSpans s x x.desc.sspace.toNat x.desc.score (descSrc x.desc o) n else []) ++
    (if descWrites x.desc then sideSpans s x x.desc.dspace.toNat x.desc.dcore (descDst x.desc o) n else [])

/-- What a transfer has still to move, from its present row on. -/
def Xfer.rest (s : State) (x : Xfer) : List Span :=
  let n := x.desc.len.toNat
  rowSpans s x (x.landed / n * n) (descRows x.desc - x.landed / n) n

/-- An earlier descriptor of the queue comes first: any in a compact paddock, else one that touches a byte of these. -/
def xferBlocked (s : State) (x : Xfer) (n : Nat) : Bool :=
  match x.src with
  | .copy _ _ => false
  | .queue _ _ _ => (xfersBefore s x).any fun y => compactPad s x.pad || (rowSpans s x x.landed 1 n).any fun a => (y.rest s).any fun b => Span.meets a b

/-! ## Parts (R205, R207) -/

/-- The port and function whose bus address a COPY's HOST side is (R376). -/
def Xfer.host (s : State) (x : Xfer) : Option (Fin 2 × Nat) :=
  match x.src with
  | .queue _ _ _ => none
  | .copy seq port => match findCmd s seq with
    | some c => match ringFunc s c.hdr.ring.val with
      | some (_, fn) => some (port, fn)
      | none => none
    | none => none

/-- The HOST side can be reached now. -/
def hostReady (s : State) (x : Xfer) : Bool := match x.host s with | some (h, fn) => !x.stopped && funcUp s h fn | none => false

def hostPort (s : State) (x : Xfer) : Fin 2 := match x.host s with | some (h, _) => h | none => 0

/-- n source bytes of a transfer from offset i on. -/
def xferRead (x : Xfer) (i n : Nat) (s : State) : ReadOut :=
  let d := x.desc
  if d.op = 2 then .done s ((List.range n).map fun j => BitVec.ofNat 8 (d.saddr.toNat / 2 ^ (8 * ((i + j) % 8)))) [] false
  else if d.sspace = 0 then
    match (if x.sgone then none else stageAtCore s x.pad d.score.toNat) with
    | some k => .done s (mreads (stageLocal s x.pad k.cfg.stage.toNat d.score.toNat) (descSrc d i) n) [] false
    | none => .done s (List.replicate n 0) [] false
  else if d.sspace = 4 then
    if hostReady s x then .done s (hostReads s (hostPort s x) (descSrc d i) n) [] false else .wait s
  else engineRead x.eng d.sspace.toNat 0 0 (descSrc d i) n (d.dspace != 2 && d.dspace != 3) s

/-- Bytes of a transfer written from offset i on: held, and whether a refusal was met. -/
def xferWrite (x : Xfer) (i : Nat) (bs : List Byte) (psn : List Nat) (s : State) : State × Bool × Bool :=
  let d := x.desc
  if d.dspace = 0 then
    match (if x.dgone then none else stageAtCore s x.pad d.dcore.toNat) with
    | some k => (modStageLocal x.pad k.cfg.stage.toNat d.dcore.toNat (fun m => mwrites m (descDst d i) bs) s, false, false)
    | none => (s, false, false)
  else if d.dspace = 4 then
    if hostReady s x then (hostWrites (hostPort s x) (descDst d i) bs s, false, false) else (s, true, false)
  else engineWrite x.eng d.dspace.toNat 0 0 (descDst d i) bs psn s

/-- What n bytes of a transfer draw on, and the arbiters that they meet. -/
def xferUse (x : Xfer) (n : Nat) : List (Fin 4 × Nat) :=
  (if descReads x.desc then bucketUse x.desc.sspace.toNat n false else []) ++ (if descWrites x.desc then bucketUse x.desc.dspace.toNat n true else [])

def xferArbiters (s : State) (x : Xfer) (i n : Nat) : List Nat :=
  let side (space : BitVec 3) (write : Bool) (a : Nat) : List Nat := if space = 4 then [] else rangeArbiters s x.eng space.toNat write a n
  (if descReads x.desc then side x.desc.sspace false (descSrc x.desc i) else []) ++ (if descWrites x.desc then side x.desc.dspace true (descDst x.desc i) else [])

/-- n bytes of a transfer leave its dray. -/
def leaveDray (x : Xfer) (n : Nat) (s : State) : State × Bool := leaveWith x.pad (xferUse x n) (xferArbiters s x x.landed n) s

/-- Runs of a transfer land up to an offset, within a row and a Stack line each. Tokens are drawn for a run once neither of its sides is held. -/
def landXfer (fuel id upto : Nat) (s : State) : State :=
  match fuel with
  | 0 => s
  | k + 1 => match findXfer s id with
    | none => s
    | some x =>
      if upto ≤ x.landed then s
      else
        let n := min (min (upto - x.landed) (x.desc.len.toNat - x.landed % x.desc.len.toNat)) (min 1024 (grantBytes s x.pad ((xferUse x 1).map Prod.fst)))
        if n = 0 || xferBlocked s x n then s
        else match xferRead x x.landed n s with
          | .wait s => s
          | .fault s => jobFault x.unit uncorrectableFault 0 s
          | .done _ bs psn _ =>
            let w := xferWrite x x.landed bs psn s
            if w.2.1 then w.1
            else
              let l := leaveDray x n s
              if !l.2 then l.1
              else match xferRead x x.landed n l.1 with
                | .done s bs psn ref =>
                  let w := xferWrite x x.landed bs psn s
                  let s := countRefusal x.pad (ref || w.2.2) x.refused w.1
                  landXfer k id upto (feedUnit x bs (putXfer { x with landed := x.landed + n, refused := x.refused || ref || w.2.2 } s))
                | _ => l.1

/-! ## Turns (R209, R400) -/

/-- The transfer wants its dray: it has started, and has bytes to move. -/
def wantsTurn (x : Xfer) : Bool := x.started && !x.stopped && x.desc.op != 3 && decide (x.landed < descTotal x.desc)

/-- The level of a transfer at the turns of its dray: in the best-effort class by whether the tokens for its next bytes are there (R399, R400). -/
def xferLevel (s : State) (x : Xfer) : Level :=
  match getPad s x.pad with
  | none => .funded
  | some d =>
    if d.p.lc then .critical
    else if (xferUse x (min 1024 (descTotal x.desc - x.landed))).all (bucketHolds d) then .funded else .unfunded

/-- The bytes that a transfer may move now in a turn of its queue: queues take turns of 64 KiB in round-robin order, those of the highest level first; none
where another queue has the turn. -/
def turnFor (s : State) (x : Xfer) : Option Nat :=
  let rivals := s.drays.xfers.filter fun y => y.dray == x.dray && wantsTurn y && y.queue != x.queue
  let same := rivals.filter fun y => xferLevel s y == xferLevel s x
  let t := tget s.drays.turns x.dray (3, 0)
  if rivals.any fun y => (xferLevel s y).over (xferLevel s x) then none
  else if t.1 = x.queue ∧ 0 < t.2 then some t.2
  else if 0 < t.2 ∧ same.any (fun y => y.queue == t.1) then none
  else
    let next := ((List.range 4).map fun i => (t.1 + 1 + i) % 4).find? fun q => q == x.queue || same.any fun y => y.queue == q
    if next = some x.queue then some 65536 else none

/-- A transfer has moved bytes of its turn; one that moved none, as its tokens or its memory made it wait, loses the turn (R399). -/
def tookTurn (x : Xfer) (left moved : Nat) (s : State) : State :=
  { s with drays := { s.drays with turns := tput s.drays.turns x.dray (x.queue, if moved = 0 then 0 else left - moved) } }

/-! ## Bounce pages (R528 to R531) -/

/-- CTR as the IV of R529: four zero bytes, then CTR big-endian. -/
def bounceIv (ctr : Nat) : BitVec 96 := BitVec.ofNat 96 ctr

/-- The first 16 bytes of a tag entry. -/
def tagAad (ctr : Nat) (d2h : Bool) : List Byte := leBytes 8 ctr ++ leBytes 8 (b2n d2h)

/-- Pages of the tag table. -/
def tagPages (pages : Nat) : Nat := ceilDiv pages 128

/-- The host address of the tag entry of data page i. -/
def tagEntry (c : Conf) (i : Nat) : Nat := c.bounce.toNat + 4096 * (c.pages.toNat - tagPages c.pages.toNat) + 32 * i

/-- One page encrypted to the bounce area (R531). -/
def sendPage (x : Xfer) (c : Conf) (s : State) : State :=
  match xferRead x x.landed 4096 s with
  | .wait s => s
  | .fault s => jobFault x.unit uncorrectableFault 0 s
  | .done s' bs _ ref =>
    let l := leaveDray x 4096 s'
    if !hostReady s x then s
    else if !l.2 then (leaveDray x 4096 s).1
    else
      let s := l.1
      let a := x.desc.daddr.toNat + x.landed
      let ctr := c.ctrD2h.toNat
      let out := Config.gcmCipher c.keyD2h (bounceIv ctr) (tagAad ctr true) bs
      let tag := Config.gcmTag c.keyD2h (bounceIv ctr) (tagAad ctr true) out
      let h := hostPort s x
      let s := hostWrites h (tagEntry c ((a - c.bounce.toNat) / 4096)) (tagAad ctr true ++ leBytes 16 tag.toNat) (hostWrites h a out s)
      let s := countRefusal x.pad ref x.refused (modConf x.pad (fun c => { c with ctrD2h := c.ctrD2h + 1 }) s)
      addOpt x.pad x.desc.dpost 4096 (feedUnit x out (putXfer { x with landed := x.landed + 4096, refused := x.refused || ref } s))

/-- One page decrypted from the bounce area; the first that fails ends the COPY (R531). -/
def takePage (x : Xfer) (c : Conf) (s : State) : State :=
  if !hostReady s x then s
  else
    let h := hostPort s x
    let a := x.desc.saddr.toNat + x.landed
    let e := hostReads s h (tagEntry c ((a - c.bounce.toNat) / 4096)) 32
    let text := hostReads s h a 4096
    let ctr := fldAt e 0 8
    let iv := bounceIv ctr
    if fldAt e 8 1 = 0 ∧ c.ctrH2d.toNat < ctr ∧ fldAt e 16 16 = (Config.gcmTag c.keyH2d iv (e.take 16) text).toNat then
      let bs := Config.gcmPlain c.keyH2d iv (e.take 16) text
      let w := xferWrite x x.landed ((List.range 4096).map fun i => bs[i]?.getD 0) [] s
      let l := leaveDray x 4096 w.1
      if w.2.1 then w.1
      else if !l.2 then (leaveDray x 4096 s).1
      else
        let s := countRefusal x.pad w.2.2 x.refused (modConf x.pad (fun c => { c with ctrH2d := BitVec.ofNat 64 ctr }) l.1)
        addOpt x.pad x.desc.dpost 4096
          (feedUnit x ((List.range 4096).map fun i => bs[i]?.getD 0) (putXfer { x with landed := x.landed + 4096, refused := x.refused || w.2.2 } s))
    else finishXfer x true (modConf x.pad (fun c => { c with authfail := BitVec.ofNat 32 (satAdd 32 c.authfail.toNat 1) }) s)

/-! ## The rows -/

/-- What the memory that a part reads first finds (R271, R308, R318). -/
def xferEcc (x : Xfer) (found : EccResult) (s : State) : State :=
  let a := descSrc x.desc x.landed
  if !descReads x.desc then s
  else if x.desc.sspace = 1 then commonsEcc x.pad a found s
  else if x.desc.sspace = 2 || x.desc.sspace = 3 then
    match reach s (tableSeen s x.eng.look x.tag x.epoch) x.pad x.tag (x.desc.sspace == 3) false a with
    | some (e, p) => if e.barn then barnEcc e.half p found s else lineEcc e.half p found s
    | none => s
  else s

/-- A part of a started transfer lands (R207); a post-only descriptor adds to its post once its queue's earlier ones are over (R205). -/
def drayPart (id bytes : Nat) (found : EccResult) (s : State) : State :=
  match findXfer s id with
  | none => s
  | some x =>
    let s := startDue x s
    match findXfer s id with
    | none => s
    | some x =>
      if !x.started || x.stopped then s
      else if x.dropped && descCompute x.desc then finishXfer x false s
      else if x.desc.op = 3 then
        if (xfersBefore s x).isEmpty then addOpt x.pad x.desc.dpost x.desc.len.toNat (finishXfer x false s) else s
      else match turnFor s x with
      | none => s
      | some left =>
        let s := xferEcc x found s
        let s := match x.desc.crypt.toNat, (match getPad s x.pad with | some d => d.conf | none => none) with
          | 1, some c => if left < 4096 then s else sendPage x c s
          | 2, some c => if left < 4096 then s else takePage x c s
          | _, _ =>
            let t := landXfer (descRows x.desc + bytes + 2) id (min (x.landed + min bytes left) (descTotal x.desc)) s
            match findXfer t id with
            | some y => if y.landed = x.landed then t else addOpt x.pad x.desc.dpost (y.landed - x.landed) t
            | none => t
        match findXfer s id with
        | some y =>
          let s := tookTurn x left (y.landed - x.landed) s
          if y.landed = descTotal y.desc then finishXfer y false s else s
        | none => tookTurn x left 0 s

/-- A new transfer, of a descriptor from a slot of its ring. -/
def newXfer (src : XferOf) (pad tag die slot : Nat) (d : DrayDesc) (s : State) : State :=
  let x : Xfer := { id := s.drays.nextId, src := src, pad := pad, tag := tag, epoch := (getSpace s tag).epoch, desc := d, die := die, landed := 0,
                    waited := false, started := false, dropped := false, stopped := false, dgone := false, sgone := false, refused := false, slot := slot }
  startXfer x.id { s with drays := { s.drays with xfers := s.drays.xfers ++ [x], nextId := s.drays.nextId + 1 } }

/-- The engine of a queue's own reads, by a lookaside. paid: no bucket counts them. -/
def ringEng (s : State) (pad tag look : Nat) (paid : Bool) : Eng :=
  { pad := pad, tag := tag, epoch := (getSpace s tag).epoch, look := look, hint := 0, last := false, core := none, team := none, stream := false, paid := paid }

/-- A device in TROT that takes up work is in GALLOP from then on (R493). -/
def gallop (s : State) : State := if s.pwr.state == .trot then { s with pwr := { s.pwr with state := .gallop } } else s

/-- DRAY_DESCRIPTOR_READ: the next descriptor is read once KICK allows; it is counted in CPOST, and skipped, or held and started when it can (R202, R206). -/
def drayRead (die dray queue : Nat) (s : State) : State :=
  match getQueue s (queueKey die dray queue) with
  | none => s
  | some q =>
    let src : XferOf := .queue die dray queue
    let kick := match handlePost s q.pad q.cfg.kick with | some d => (postValue s d).toNat | none => 0
    if queueStopped s q.pad || kick < q.next + 1 || 4 ≤ (s.drays.xfers.filter fun x => x.src == src).length then s
    else
      let tag := q.cfg.aspace.toNat
      let slot := q.next % 2 ^ q.cfg.log2size.toNat
      match engineRead (ringEng s q.pad tag (drayLook die dray) false) (if q.cfg.rspace then 2 else 1) 0 0 (q.cfg.rbase.toNat + 64 * slot) 64 false s with
      | .wait s => s
      | .fault s => s
      | .done s bs _ ref =>
        let d := parseDesc bs
        let s := updHandle q.pad q.cfg.cpost false 1 [] [] (countRefusal q.pad ref false (gallop s))
        let s := setQueue (queueKey die dray queue) { q with next := q.next + 1 } s
        match readReason s q.pad die d with
        | some r => noteSkip q.pad (queueKey die dray queue) d.tag r slot s
        | none => newXfer src q.pad tag die slot d s

/-- The paddock's queues are emptied (R202): descriptors read and not started go, the next index is 0. -/
def emptyQueues (pad : Nat) (s : State) : State :=
  let s := dropXfers (fun x => x.pad == pad && !x.src.isCopy && !x.started) s
  { s with drays := { s.drays with queues := s.drays.queues.map fun e => if e.2.pad == pad then (e.1, { e.2 with next := 0 }) else e } }

/-! ## COPY (R376, R422, R423, R530) -/

def descHost (d : DrayDesc) : Bool := (descWrites d && d.dspace == 4) || (descReads d && d.sspace == 4)

/-- The I/O die that a COPY runs on: under "either", that of the issuing port. -/
def copyDie (iodie : Byte) (port : Fin 2) : Nat := if iodie = 0 then 8 else if iodie = 1 then 9 else 8 + port.val

/-- A COPY with HOST in a confidential paddock keeps R530. -/
def bounceOk (c : Conf) (padPort port : Nat) (d : DrayDesc) : Bool :=
  if !descHost d then true
  else
    let a := if d.sspace == 4 && descReads d then d.saddr.toNat else d.daddr.toNat
    decide (port = padPort) && d.op == 0 && !(d.dspace == 4 && d.sspace == 4) && d.crypt == (if d.sspace == 4 then 2 else 1) &&
    decide (c.bounce.toNat ≤ a ∧ (a - c.bounce.toNat) % 4096 = 0 ∧ d.len.toNat % 4096 = 0 ∧
      a + d.len.toNat ≤ c.bounce.toNat + 4096 * (c.pages.toNat - tagPages c.pages.toNat))

/-- A COPY is accepted (R376). -/
def copyOk (s : State) (ring : Nat) (port : Fin 2) (pad : Nat) (p : CopyParams) : Bool :=
  match getPad s pad with
  | none => false
  | some d =>
    decide (p.iodie.toNat ≤ 2) && decide (d.p.taglo.toNat ≤ p.tag.toNat ∧ p.tag.toNat < d.p.taglo.toNat + d.p.ntag.toNat) &&
    (skipReason s pad (copyDie p.iodie port) true p.desc).isNone && (p.desc.chk == 0 || (decide (ring < 2) && p.iodie != 2)) &&
    (p.desc.crypt == 0 || d.conf.isSome) && (match d.conf with | some c => bounceOk c (b2n d.p.port) port.val p.desc | none => true)

/-- COPY commands that a predicate names stop (R422, R423). -/
def stopCopies (p : Fin 2 → Nat → Bool) (s : State) : State :=
  { s with drays := { s.drays with xfers := s.drays.xfers.map fun x =>
      if (descHost x.desc && (match x.host s with | some (h, fn) => p h fn | none => false)) then { x with stopped := true } else x } }

/-- Stopped COPY commands whose port and function are up again complete with the bytes landed so far. -/
def endStopped (s : State) : State :=
  (s.drays.xfers.filter fun x => x.stopped && (match x.host s with | some (h, fn) => funcUp s h fn | none => false)).foldl (fun t x => finishXfer x false t) s

/-- A COPY begins. Where its port or function cannot be reached it is stopped from the start. -/
def beginCopy (seq : Nat) (port : Fin 2) (pad : Nat) (p : CopyParams) (s : State) : State :=
  let s := newXfer (.copy seq port) pad p.tag.toNat (copyDie p.iodie port) 0 p.desc s
  stopCopies (fun h fn => !funcUp s h fn) s

end Sys2Proof.Machine
end

