-- ==== Sys2Proof/Machine/Links.lean ====
section
/-! DEFINITION. The I/O rings: link ports, lanes, flits (R424 to R431), windows (R295, R296), transaction packets (R432 to R436), send queues
(R439 to R443), storage targets and Ethernet (R444 to R447). -/

namespace Sys2Proof.Machine

/-! ## Whether the device runs -/

/-- Every start step is done, the dies are powered, and the device is not in STABLED. -/
def awake (s : State) : Bool := s.pins.p48vOk && s.pins.pwrOk && s.start.step == 11 && s.pwr.state != .stabled

/-- An exit to GALLOP starts from WALK, STAND or STABLED (R495, R496). -/
def startExit (s : State) : State :=
  if (s.pwr.state == .walk || s.pwr.state == .stand || s.pwr.state == .stabled) && !s.pwr.exiting then { s with pwr := { s.pwr with exiting := true } } else s

/-- Work is performed only in GALLOP and TROT (R493). -/
def atWork (s : State) : Bool := awake s && (s.pwr.state == .gallop || s.pwr.state == .trot)

/-! ## Ports -/

def portHalf (p : Fin 36) : Nat := p.val / 18

/-- The port's cage is seen: the module has power and the port's half is in service. An entry is written and training falls due in every state of the device;
out of STABLED the port trains at the exit (R30, R40, R493). -/
def portPowered (s : State) (p : Fin 36) : Bool := s.pins.p48vOk && s.pins.pwrOk && halfIn s (portHalf p)

def portLive (s : State) (p : Fin 36) : Bool := awake s && halfIn s (portHalf p)

/-- A LINK entry of a port with its width, mode and peer (R489). -/
def portEntry (code : Byte) (sev : BitVec 2) (p : Fin 36) (lane : Nat) (s : State) : State :=
  let x := getPort s p
  report (linkErr code sev 9 p.val p.val x.width.toNat x.mode.toNat lane x.peerId) s

/-- The partner of a port in a 1.6TbE pair (R424). -/
def partner (p : Fin 36) : Fin 36 := if p.val % 2 = 0 then Fin.ofNat 36 (p.val + 1) else Fin.ofNat 36 (p.val - 1)

/-- The ports that go down with a port: both of a 1.6TbE pair. -/
def pairOf (s : State) (p : Fin 36) : List (Fin 36) := if (getPort s p).mode = 2 then [p, partner p] else [p]

/-- A flit counter or error counter of w bits that stops at its top. -/
def satW (w : Nat) (x : BitVec w) (n : Nat) : BitVec w := BitVec.ofNat w (satAdd w x.toNat n)

/-- Storage targets of a port that goes down are not ready until they are connected again (R446). -/
def dropTargets (p : Fin 36) (s : State) : State :=
  { s with links := { s.links with tgts := s.links.tgts.map fun e =>
      if e.2.port.toNat == p.val && e.2.state == 2 then (e.1, { e.2 with state := 1 }) else e } }

/-- A port that is up goes down: one entry DOWN, and a recovery retrain while its cable is present and it is enabled (R40, R431). -/
def portDown1 (p : Fin 36) (s : State) : State :=
  let x := getPort s p
  if x.state != .up then s
  else
    let s := portEntry 0x05 0 p 0 s
    dropTargets p (setPort p { x with state := .training, width := 0, recovering := true, retried := false } s)

def portDown (p : Fin 36) (s : State) : State := (pairOf s p).foldl (fun t q => portDown1 q t) s

/-! ## Send operations -/

def findOp (s : State) (id : Nat) : Option SendOp := s.links.ops.find? fun o => o.id == id

def putOp (o : SendOp) (s : State) : State := { s with links := { s.links with ops := s.links.ops.map fun x => if x.id == o.id then o else x } }

def isStore (d : SendDesc) : Bool := d.op == 6 || d.op == 7

/-- A target whose disconnection waits becomes idle once no command is in progress (R446). -/
def settleTarget (t : Nat) (s : State) : State :=
  let x := getTgt s t
  if !x.connect && x.state != 0 && x.state != 3 && !(s.links.ops.any fun o => isStore o.desc && o.desc.win.toNat % 16 == t) then
    setTgt t { x with state := 0 } s
  else s

/-- An operation is over. -/
def endOp (o : SendOp) (s : State) : State :=
  let s := { s with links := { s.links with ops := s.links.ops.filter fun x => x.id != o.id } }
  if isStore o.desc then settleTarget (o.desc.win.toNat % 16) s else s

/-- A send descriptor fails (R443). -/
def failSend (queue slot pad : Nat) (tag : W32) (reason : Nat) (s : State) : State :=
  let q := getSq s queue
  bumpPad pad 6 1 (setSq queue { q with ftag := tag, reason := BitVec.ofNat 8 reason, slot := BitVec.ofNat 12 slot, fails := satW 12 q.fails 1 } s)

def failOp (o : SendOp) (reason : Nat) (s : State) : State := failSend o.queue o.slot o.pad o.desc.tag reason (endOp o s)

/-- A port discards what it holds: its flits, its queued packets, and the operations on it, which fail with LINK_LOST (R431, R443). -/
def portLoses (p : Fin 36) (s : State) : State :=
  let s := modPort p (fun x => { x with txNext := 0, txAcked := 0, resends := [], rxNext := 0, recovering := false }) s
  (s.links.ops.filter fun o => o.desc.port.toNat == p.val).foldl (fun t o => failOp o 3 t) s

/-- Training starts in the configured mode. -/
def startTraining (p : Fin 36) (s : State) : State :=
  modPort p (fun x => { x with state := if x.enabled then .training else .disabled, width := 0, recovering := false, retried := false, quiet := false }) s

/-! ## Cages (R39 to R41) -/

def setBit {w : Nat} (x : BitVec w) (i : Nat) (on : Bool) : BitVec w :=
  if on then x ||| BitVec.ofNat w (2 ^ i) else x &&& ~~~(BitVec.ofNat w (2 ^ i))

/-- A change of CAGE_PRES_N starts or restarts the debounce. -/
def cageEdge (p : Fin 36) (low : Bool) (s : State) : State :=
  { s with pins := { s.pins with cageLow := setBit s.pins.cageLow p.val low, cageDeb := setBit s.pins.cageDeb p.val true } }

/-- CAGE_PRES_N has been low for 100 ms: where no cable was taken to be present, one entry, and training in the configured mode. -/
def insertion (p : Fin 36) (s : State) : State :=
  if !(s.pins.cageLow.getLsbD p.val && s.pins.cageDeb.getLsbD p.val) then s
  else
    let s := { s with pins := { s.pins with cageDeb := setBit s.pins.cageDeb p.val false } }
    if (getPort s p).present then s
    else
      let s := modPort p (fun x => { x with present := true }) s
      if portPowered s p then startTraining p (portEntry 0x02 0 p 0 s) else modPort p (fun x => { x with state := .disabled }) s

/-- CAGE_PRES_N has been high for 100 ms: one entry, the training stops, and what the port holds is discarded. -/
def removal (p : Fin 36) (s : State) : State :=
  if s.pins.cageLow.getLsbD p.val || !s.pins.cageDeb.getLsbD p.val then s
  else
    let s := { s with pins := { s.pins with cageDeb := setBit s.pins.cageDeb p.val false } }
    if !(getPort s p).present then s
    else
      let live := portPowered s p
      let s := if live then portEntry 0x01 0 p 0 (portDown p s) else s
      portLoses p (modPort p (fun x => { x with present := false, state := .noCable, width := 0, recovering := false, retried := false }) s)

def signalLost (p : Fin 36) (s : State) : State := if portLive s p then portDown p s else s

/-! ## Training (R426, R431) -/

/-- The port of an active lane of a die, and the lane's number in it. -/
def lanePort (die : Fin 2) (lane : Fin 72) : Fin 36 := Fin.ofNat 36 (18 * die.val + lane.val / 4)

/-- The width that a port at width w keeps once its lanes are whole as given. -/
def narrowed (w : Nat) (whole : Nat → Bool) (used : Nat × Nat) : Nat :=
  if w = 4 then
    if whole 0 && whole 1 && whole 2 && whole 3 then 4
    else if (whole 0 && whole 1) || (whole 2 && whole 3) then 2
    else if whole 0 || whole 1 || whole 2 || whole 3 then 1 else 0
  else if w = 2 then
    if whole used.1 && whole used.2 then 2
    else if whole 0 || whole 1 || whole 2 || whole 3 then 1 else 0
  else if whole 0 || whole 1 || whole 2 || whole 3 then w else 0

/-- The lanes of the port's I/O die, and the number in them of the port's lane 0 (R420). -/
def portLanes (s : State) (p : Fin 36) : Lanes := s.links.lanes[(Fin.ofNat 2 (portHalf p) : Fin 2)]

def laneBase (p : Fin 36) : Nat := 4 * (p.val % 18)

/-- A width that the port can train to: no wider than it is configured and than the lanes whose die side works allow; an Ethernet port, and both of a
pair, need all four (R428). -/
def widthOk (s : State) (p : Fin 36) (w : Nat) : Bool :=
  let x := getPort s p
  let reach (q : Fin 36) : Nat := narrowed 4 (fun j => !(portLanes s q).failed.contains (laneBase q + j)) (0, 1)
  if x.mode = 0 then (w == 1 || w == 2 || w == 4) && decide (w ≤ x.cfgw.toNat ∧ w ≤ reach p)
  else w == 4 && (pairOf s p).all fun q => reach q == 4

/-- A training that ends at four lanes finds them all whole: what had failed outside the die is gone (DEDUCED, log 134). -/
def freshLanes (p : Fin 36) (w : Nat) (s : State) : State :=
  if w != 4 then s
  else
    let l := portLanes s p
    let l := { l with outside := l.outside.filter fun i => decide (i / 4 ≠ p.val % 18) }
    { s with links := { s.links with lanes := s.links.lanes.set (Fin.ofNat 2 (portHalf p) : Fin 2) l } }

/-- The link is up: one entry gives the width, but where STABLED had taken it down (R493). A Kilalmir link learns its peer and starts a new sequence of flits. -/
def trained (p : Fin 36) (w : Nat) (peer : BitVec 48) (peerPort : BitVec 6) (s : State) : State :=
  let x := getPort s p
  if !(portLive s p && x.state == .training && !x.recovering && x.present && x.enabled && widthOk s p w) then s
  else
    let told := if x.quiet then id else portEntry 0x03 0 p 0
    told (setPort p { x with state := .up, width := BitVec.ofNat 3 w, retried := false, quiet := false, txNext := 0, txAcked := 0, resends := [], rxNext := 0,
                                             peerId := if x.mode = 0 then peer else x.peerId, peerPort := if x.mode = 0 then peerPort else x.peerPort } (freshLanes p w s))

/-- An attempt fails: one entry until the port comes up. -/
def trainFailed (p : Fin 36) (s : State) : State :=
  let x := getPort s p
  if !(portLive s p && x.state == .training && !x.recovering) then s
  else
    let s := if x.retried then s else portEntry 0x04 0 p 0 s
    setPort p { x with state := .failed, retried := true } s

def trainRetry (p : Fin 36) (s : State) : State :=
  let x := getPort s p
  if portLive s p && x.state == .failed && x.present && x.enabled then setPort p { x with state := .training } s else s

/-- The port comes up within 100 ms with the same peer: nothing is lost, and the sender resumes from the peer's next expected flit. -/
def recovered (p : Fin 36) (w : Nat) (peer : BitVec 48) (peerPort : BitVec 6) (expected : Nat) (s : State) : State :=
  let x := getPort s p
  if !(portLive s p && x.state == .training && x.recovering && widthOk s p w && (x.mode != 0 || (x.peerId == peer && x.peerPort == peerPort))) then s
  else
    let acked := max x.txAcked (min expected x.txNext)
    portEntry 0x06 0 p 0 (setPort p { x with state := .up, width := BitVec.ofNat 3 w, recovering := false, txAcked := acked,
                                             resends := x.resends.filter fun e => decide (acked ≤ e.1) } (freshLanes p w s))

def recoveryOver (p : Fin 36) (s : State) : State := if (getPort s p).recovering then portLoses p s else s

/-! ## Flits (R429, R430) -/

def sendOut (m : OutMsg) (s : State) : State := { s with links := { s.links with out := m :: s.links.out } }

/-- Flits below n are acknowledged. -/
def ackFlits (n : Nat) (x : Port) : Port :=
  let a := max x.txAcked (min n x.txNext)
  { x with txAcked := a, resends := x.resends.filter fun e => decide (a ≤ e.1) }

/-- A flit arrives: the acknowledgement of a good one is taken, the next one expected is accepted, one accepted before is discarded, and a bad one is
answered with a NAK. -/
def flit (p : Fin 36) (f : Flit) (s : State) : State :=
  let x := getPort s p
  if !(portLive s p && x.state == .up && x.mode == 0) then s
  else
    let x := { x with feccorr := satW 32 x.feccorr f.fecCorr, fecunc := satW 16 x.fecunc f.fecUnc, traffic := 10 }
    if !f.crcOk then sendOut (.nak p.val x.rxNext) (setPort p x s)
    else
      let x := match f.ack with | some n => ackFlits n x | none => x
      setPort p (if f.seq = x.rxNext then { x with rxNext := x.rxNext + 1 } else x) s

/-- A NAK: the sender resends from that flit on; a flit resent 16 times takes the port down. -/
def nak (p : Fin 36) (seq : Nat) (s : State) : State :=
  let x := getPort s p
  if !(portLive s p && x.state == .up && x.mode == 0 && decide (x.txAcked ≤ seq ∧ seq < x.txNext)) then s
  else
    let fs := (List.range (x.txNext - seq)).map (seq + ·)
    let r := fs.foldl (fun t i => tmod t i 0 (· + 1)) x.resends
    let s := setPort p { x with retries := satW 16 x.retries fs.length, resends := r } s
    if r.any fun e => decide (16 ≤ e.2) then portDown p s else s

/-- 1 ms without any acknowledgement. -/
def ackTimedOut (p : Fin 36) (s : State) : State :=
  let x := getPort s p
  if portLive s p && x.state == .up && x.mode == 0 && decide (x.txAcked < x.txNext) then portDown p s else s

/-- Bytes sent on a port take flits whose number, from one up, depends on what shares a flit with them (log 2). -/
def takeFlits (p : Fin 36) (s : State) : State :=
  modPort p (fun x => { x with txNext := x.txNext + 1 + Config.freeChoice s.free, traffic := 10 }) (useFree s)

/-- A transaction packet sent. -/
def sendTx (p : Fin 36) (type : Nat) (h : TxHdr) (bs : List Byte) (s : State) : State := takeFlits p (sendOut (.packet p.val type h bs) s)

/-! ## Lanes (R420, R427, R428) -/

def laneFails (die : Fin 2) (lane : Fin 72) (s : State) : State :=
  let l := s.links.lanes[die]
  if !(awake s && halfIn s die.val) || l.testing.contains lane.val || l.failed.contains lane.val || l.outside.contains lane.val then s
  else { s with links := { s.links with lanes := s.links.lanes.set die { l with testing := lane.val :: l.testing } } }

/-- A lane that no spare replaces, for want of one or because the fault lies outside the die: a Kilalmir port narrows or goes down, an Ethernet port goes
down (R427, R428). -/
def laneGone (die : Fin 2) (lane : Fin 72) (dieSide : Bool) (s : State) : State :=
  let p := lanePort die lane
  let l := s.links.lanes[die]
  let base := laneBase p
  let x := getPort s p
  let gone (l : Lanes) (j : Nat) : Bool := l.failed.contains (base + j) || l.outside.contains (base + j)
  let used : Nat × Nat := if !gone l 0 && !gone l 1 then (0, 1) else (2, 3)
  let l := if dieSide then { l with failed := lane.val :: l.failed } else { l with outside := lane.val :: l.outside }
  let s := { s with links := { s.links with lanes := s.links.lanes.set die l } }
  if x.state != .up then s
  else if x.mode != 0 then portDown p s
  else
    let w := narrowed x.width.toNat (fun j => !gone l j) used
    if w = 0 then portDown p s
    else if w = x.width.toNat then s
    else portEntry 0x07 2 p (lane.val % 4) (setPort p { x with width := BitVec.ofNat 3 w } s)

/-- The loopback result of a lane: a free spare of the die replaces it, which the port takes in through a recovery retrain, or none stands in. -/
def loopback (die : Fin 2) (lane : Fin 72) (dieSide : Bool) (s : State) : State :=
  let l := s.links.lanes[die]
  if !l.testing.contains lane.val then s
  else
    let l := { l with testing := l.testing.filter (· != lane.val) }
    let s := { s with links := { s.links with lanes := s.links.lanes.set die l } }
    let free := if dieSide then (List.finRange 4).find? fun k => l.spare[k] == 0x7F else none
    match free with
    | some k =>
      let s := { s with links := { s.links with lanes := s.links.lanes.set die { l with spare := l.spare.set k (BitVec.ofNat 7 lane.val) } } }
      let p := lanePort die lane
      portDown p (portEntry 0x08 1 p (lane.val % 4) s)
    | none => laneGone die lane dieSide s

/-! ## LINK.STATE (R425, R386) -/

def linkEnable (p : Fin 36) (s : State) : State :=
  let x := getPort s p
  let s := setPort p { x with enabled := true } s
  if x.present && x.state != .up && portLive s p then startTraining p (if x.recovering then portLoses p s else s) else s

/-- A port taken down by LINK.STATE: its operations fail with LINK_LOST. -/
def takeDown (p : Fin 36) (s : State) : State := portLoses p (if (getPort s p).state == .up then portEntry 0x05 0 p 0 (dropTargets p s) else s)

def linkDisable (p : Fin 36) (s : State) : State :=
  (pairOf s p).foldl (fun t q =>
    modPort q (fun x => { x with enabled := q != p && x.enabled, state := if x.present then .disabled else .noCable, width := 0 }) (takeDown q t)) s

/-- A port set to a mode and width, down and retraining. -/
def setMode (p : Fin 36) (mode : BitVec 2) (width : BitVec 3) (s : State) : State :=
  let s := modPort p (fun x => { x with mode := mode, cfgw := width, width := 0 }) (takeDown p s)
  if (getPort s p).present && portLive s p then startTraining p s else s

def linkSet (p : Fin 36) (mode : BitVec 2) (width : BitVec 3) (s : State) : State :=
  let was := (getPort s p).mode
  let w : BitVec 3 := if mode = 0 then width else 4
  let s := setMode p mode w s
  if mode = 2 then
    let q := partner p
    setMode q 2 4 s
  else if was = 2 then setMode (partner p) 1 4 s
  else s

def PortState.code (x : PortState) : Nat := match x with | .noCable => 0 | .disabled => 1 | .training => 2 | .up => 3 | .failed => 4

def linkResult (x : Port) : List Byte :=
  [BitVec.ofNat 8 x.state.code, BitVec.ofNat 8 x.width.toNat, BitVec.ofNat 8 x.mode.toNat, BitVec.ofNat 8 (b2n x.present)]

/-! ## Operations at a window (R293 to R296) -/

/-- The kinds of permission of an operation. -/
inductive WinOp where
  | read | write | add | post
  deriving DecidableEq, Repr

/-- The operation passes the checks of R295; span is its length in the window. -/
def windowPasses (s : State) (op : WinOp) (t : TxHdr) (span : Nat) : Bool :=
  let w := getWin s t.win.toNat
  let e := w.entry
  w.isOpen && w.wgen == t.wgen && (match op with | .read => e.rd | .write => e.wr | .add => e.add | .post => true) &&
  decide (t.offset.toNat + span ≤ granBytes * e.len.toNat) && decide (t.rpost.toNat < e.npost.toNat)

/-- A drop is counted (R295). -/
def windowDrop (t : TxHdr) (s : State) : State :=
  let w := getWin s t.win.toNat
  let s := setWin t.win.toNat { w with drops := satW 32 w.drops 1 } s
  if w.given then bumpPad w.pad 15 1 s else s

/-- The engine of an operation through a window at a port, that began under an epoch. -/
def windowEng (w : Window) (p : Fin 36) (tag : Nat) (epoch : W16) : Eng :=
  { pad := w.pad, tag := tag, epoch := epoch, look := windowLook (8 + portHalf p), hint := 0, last := false, core := none, team := none, stream := false }

/-- A request waits at memory, behind those that wait already. -/
def holdReq (src : HeldFrom) (began : Option (Nat × W16)) (s : State) : State :=
  { s with xlt := { s.xlt with held := s.xlt.held ++ [{ id := s.xlt.nextHeld, src := src, began := began }], nextHeld := s.xlt.nextHeld + 1 } }


/-- The window post that an operation names, as a paddock post. -/
def windowPost (w : Window) (t : TxHdr) : Nat := w.entry.post0.toNat + t.rpost.toNat

def countLanded (w : Window) (t : TxHdr) (n : Nat) (s : State) : State := updHandle w.pad (BitVec.ofNat 32 (windowPost w t)) false n [] [] s

/-- A remote operation arrives on a Kilalmir link that is up. While a compute restart or an exit to GALLOP runs it is held by REQ credits (R432, R469, R495);
in WALK and STAND it starts the exit. -/
def arrives (p : Fin 36) (f : State → State) (s : State) : State :=
  let x := getPort s p
  if !(portLive s p && x.state == .up && x.mode == 0) || restarting s then s
  else if !atWork s then startExit s
  else f (gallop (setPort p { x with traffic := 10 } s))

/-- A payload of LEN bytes. -/
def payload (t : TxHdr) (bs : List Byte) : List Byte := (List.range t.len.toNat).map fun i => bs[i]?.getD 0

/-- READ_RSP goes back on the same port. -/
def respond (p : Fin 36) (t : TxHdr) (bs : List Byte) (s : State) : State :=
  sendTx p 3 { last := t.last, win := 0, wgen := 0, rpost := 0, anchor := 0, offset := 0, len := t.len, rtag := t.rtag } bs s

/-- A write that passed its window, tried at memory: true where it waits. -/
def tryWrite (g : Eng) (w : Window) (t : TxHdr) (bs : List Byte) (s : State) : State × Bool :=
  let va := w.entry.vbase.toNat + t.offset.toNat
  let h := rangeHold g false true va t.len.toNat s
  if h.2 then h
  else
    let r := rangeWrite g false va (payload t bs) [] h.1
    (countLanded w t t.len.toNat (countRefusal w.pad r.2 false r.1), false)

/-- A read that passed its window, tried at memory: true where it waits. -/
def tryRead (p : Fin 36) (g : Eng) (w : Window) (t : TxHdr) (s : State) : State × Bool :=
  let va := w.entry.vbase.toNat + t.offset.toNat
  let h := rangeHold g false false va t.len.toNat s
  if h.2 then h
  else match rangePoison h.1 g false va t.len.toNat with
    | .refetch half gr lostw => (startRefetch half gr lostw h.1, true)
    | .consume _ _ _ =>
      (jobFault { utype := 0x0C, uindex := portHalf p, pad := w.pad, block := 0, team := 0, stage := 0xFF, pc := 0 } uncorrectableFault 0 h.1, false)
    | .clean =>
      let r := rangeRead g false va t.len.toNat h.1
      (respond p t r.2.1 (countLanded w t t.len.toNat (countRefusal w.pad r.2.2.2 false r.1)), false)

/-- Elements of an add grouped by line of the receiver: the address of the first, and how many. -/
def elementRuns (va n : Nat) : List (Nat × Nat × Nat) :=
  ((chunks (va / 4 * 4) (4 * n)).foldl (fun (acc : List (Nat × Nat × Nat) × Nat) c => (acc.1 ++ [(c.1, acc.2, c.2 / 4)], acc.2 + c.2 / 4)) ([], 0)).1

/-- An add that passed its window: one add-to-line request for each line (R258, R435), unless it waits. A long form has 24 bytes of payload. -/
def tryAdd (g : Eng) (w : Window) (t : TxHdr) (anchor : Option (BitVec 10)) (vals : List W32) (longs : List (BitVec 192)) (s : State) : State × Bool :=
  let n := max vals.length longs.length
  let size := if longs.isEmpty then 4 else 24
  let runs := elementRuns (w.entry.vbase.toNat + t.offset.toNat) n
  let goes (s : State) (va : Nat) : Option (Extent × Nat) := reach s (tableSeen s g.look g.tag g.epoch) g.pad g.tag false true va
  let h := runs.foldl (fun (acc : State × Bool) r => if acc.2 then acc else
    match goes acc.1 r.1 with
    | some (e, _) => migrHold g.tag e ((r.1 - e.vbase) / granBytes) acc.1
    | none => acc) (s, false)
  if h.2 then h
  else
    let x := runs.foldl (fun (acc : State × Bool) r =>
      let s := setWin t.win.toNat { getWin acc.1 t.win.toNat with inflight := (getWin acc.1 t.win.toNat).inflight + 1 } acc.1
      match goes s r.1 with
      | none => (windowLanded t.win.toNat (some (windowPost w t)) (size * r.2.2) t.wgen s, true)
      | some (e, a) =>
        let at_ (i : Nat) : Nat := a % 1024 / 4 + i
        let q : AddReq :=
          { id := s.loft.nextAdd, pad := w.pad, half := e.half, line := a / 1024, cls := classOf 0 e, anchor := anchor,
            vals := ((vals.drop r.2.1).take r.2.2).zipIdx.map fun v => (at_ v.2, v.1),
            longs := ((longs.drop r.2.1).take r.2.2).zipIdx.map fun v => (at_ v.2, v.1),
            src := .window t.win.toNat (some (windowPost w t)) (size * r.2.2) t.wgen, waits := false }
        (g.noteLook r.1 0 { s with loft := { s.loft with adds := s.loft.adds ++ [q], nextAdd := s.loft.nextAdd + 1 } }, acc.2)) (h.1, false)
    (countRefusal w.pad x.2 false x.1, false)

/-- An operation that passed its window, tried at memory. -/
def tryRemote (p : Fin 36) (t : TxHdr) (op : RemoteOp) (tag : Nat) (epoch : W16) (s : State) : State × Bool :=
  let w := getWin s t.win.toNat
  let g := windowEng w p tag epoch
  match op with
  | .write bs => tryWrite g w t bs s
  | .read => tryRead p g w t s
  | .add anchor vals longs => tryAdd g w t anchor vals longs s

/-- An operation that passes its window begins: it is performed, or waits as one that the window still has in flight (R290, R295, R296). -/
def beginRemote (p : Fin 36) (t : TxHdr) (op : RemoteOp) (s : State) : State :=
  let w := getWin s t.win.toNat
  let tag := w.entry.tag.toNat
  let epoch := (getSpace s tag).epoch
  let r := tryRemote p t op tag epoch s
  if r.2 then
    let w := getWin r.1 t.win.toNat
    holdReq (.remote p t op) (some (tag, epoch)) (setWin t.win.toNat { w with inflight := w.inflight + 1 } r.1)
  else r.1

def remoteWriteOp (p : Fin 36) (t : TxHdr) (bs : List Byte) : State → State := arrives p fun s =>
  if !windowPasses s .write t t.len.toNat then windowDrop t s else beginRemote p t (.write bs) s

def readReqOp (p : Fin 36) (t : TxHdr) : State → State := arrives p fun s =>
  if !windowPasses s .read t t.len.toNat then respond p t (List.replicate t.len.toNat 0) (windowDrop t s) else beginRemote p t .read s

def remoteAddOp (p : Fin 36) (t : TxHdr) (anchor : Option (BitVec 10)) (vals : List W32) (longs : List (BitVec 192)) : State → State := arrives p fun s =>
  if !windowPasses s .add t (4 * max vals.length longs.length) then windowDrop t s else beginRemote p t (.add anchor vals longs) s

/-- A remote POST_ADD; its LEN is an amount and takes no room in the window (DEDUCED, log 25). -/
def remotePostOp (p : Fin 36) (t : TxHdr) : State → State := arrives p fun s =>
  if !windowPasses s .post t 0 then windowDrop t s else countLanded (getWin s t.win.toNat) t t.len.toNat s

/-- A packet that R434 drops is counted. -/
def badPacket (p : Fin 36) (s : State) : State :=
  let x := getPort s p
  if portLive s p && x.state == .up && x.mode == 0 then bump (1096 + p.val) 1 s else s

/-- WIN.CLOSE: closed at once; its entry waits for the operations that passed before (R296). -/
def closeWindow (w : Nat) (cmd : Option Nat) (s : State) : State :=
  let x := getWin s w
  if x.inflight = 0 then statusOpt cmd done [] (setWin w { x with isOpen := false } s)
  else setWin w { x with isOpen := false, closing := cmd } s

/-- WINDOW_DRAINED: the entries of the closes that have nothing left in flight are written, the present opening's and those of earlier ones. -/
def windowDrainedOp (w : Nat) (s : State) : State :=
  let x := getWin s w
  let s := if x.inflight = 0 then statusOpt x.closing done [] (setWin w { x with closing := none } s) else s
  (x.old.filter fun o => o.2.1 == 0).foldl (fun t o =>
    let y := getWin t w
    statusOpt o.2.2 done [] (setWin w { y with old := y.old.filter fun q => q.1 != o.1 } t)) s

/-! ## Send queues (R439 to R443) -/

def parseSend (bs : List Byte) : SendDesc :=
  let f := fldAt bs
  { op := BitVec.ofNat 4 (f 0 1), port := BitVec.ofNat 6 (f 1 1), win := BitVec.ofNat 8 (f 2 1), wgen := BitVec.ofNat 8 (f 3 1), rpost := BitVec.ofNat 12 (f 4 2),
    anchor := BitVec.ofNat 10 (f 6 2), roff := BitVec.ofNat 64 (f 8 8), laddr := BitVec.ofNat 64 (f 16 8), len := BitVec.ofNat 32 (f 24 4),
    lpost := BitVec.ofNat 32 (f 28 4), tag := BitVec.ofNat 32 (f 56 4),
    rsv := decide (16 ≤ f 0 1) || decide (64 ≤ f 1 1) || decide (4096 ≤ f 4 2) || decide (1024 ≤ f 6 2) || f 32 24 != 0,
    dchkOk := crc crc32c (bs.take 60) == f 60 4 }

/-- The alignment and length rules of R441. -/
def sendAligned (d : SendDesc) : Bool :=
  let l := d.laddr.toNat
  let r := d.roff.toNat
  let n := d.len.toNat
  match d.op.toNat with
  | 0 => l % 16 == 0 && r % 16 == 0 && n % 16 == 0 && decide (n ≤ 2 ^ 28)
  | 1 => l % 16 == 0 && r % 16 == 0 && n % 16 == 0 && decide (n ≤ 2 ^ 28)
  | 2 => l % 4 == 0 && r % 4 == 0 && n % 4 == 0 && decide (n ≤ 2 ^ 28)
  | 3 => l % 4 == 0 && r % 4 == 0 && n % 4 == 0 && decide (n ≤ 2 ^ 28)
  | 4 => l % 8 == 0 && r % 4 == 0 && n % 24 == 0 && decide (n ≤ 2 ^ 28)
  | 5 => l == 0 && r == 0 && n != 0
  | _ => l % 16 == 0 && r % 4096 == 0 && n % 4096 == 0 && decide (n ≤ 2 ^ 28)

/-- FIELD of R443. -/
def sendFieldBad (s : State) (q : SendQ) (half : Nat) (d : SendDesc) : Bool :=
  !d.dchkOk || d.rsv || decide (7 < d.op.toNat) || !sendAligned d || (d.anchor != 0 && d.op != 3 && d.op != 4) ||
  (isStore d && (decide (16 ≤ d.win.toNat) || d.wgen != 0)) ||
  !(decide (18 * half ≤ d.port.toNat ∧ d.port.toNat < 18 * half + 18) && q.ports.getLsbD (d.port.toNat - 18 * half)) ||
  (d.lpost != noneHandle && (handlePost s q.pad.toNat d.lpost).isNone)

/-- The first reason of R443 for which a descriptor fails at its start. -/
def sendReason (s : State) (q : SendQ) (half : Nat) (d : SendDesc) : Option Nat :=
  if sendFieldBad s q half d then some 1
  else
    let x := getPort s (Fin.ofNat 36 d.port.toNat)
    if x.state != .up || !x.enabled then some 2
    else if isStore d == (x.mode == 0) then some 4
    else if isStore d && !(q.targets.getLsbD d.win.toNat && (getTgt s d.win.toNat).state == 2 && (getTgt s d.win.toNat).connect) then some 5
    else none

/-- An operation cut into packets of at most most bytes, and for adds within the receiver's lines, where every unit bytes take 4: offset, length. -/
def sendCuts (fuel o n roff : Nat) (d : SendDesc) : List (Nat × Nat) :=
  match fuel with
  | 0 => []
  | k + 1 =>
    if n = 0 then []
    else
      let m := match d.op.toNat with
        | 2 => min n (1024 - roff % 1024)
        | 3 => min n (1024 - roff % 1024)
        | 4 => min n (min 4080 (6 * (1024 - roff % 1024)))
        | _ => min n 4096
      (o, m) :: sendCuts k (o + m) (n - m) (roff + (if d.op = 4 then m / 6 else m)) d

def packets (d : SendDesc) : List (Nat × Nat) := sendCuts (d.len.toNat / 4 + 1) 0 d.len.toNat d.roff.toNat d

/-- TYPE of an operation's packets (R434). -/
def sendType (op : Nat) : Nat := match op with | 0 => 1 | 1 => 2 | 2 => 4 | 3 => 5 | 4 => 6 | _ => 7

/-- The request tag of packet i of an operation (DESIGN CHOICE, log 26). -/
def requestTag (id i : Nat) : W32 := BitVec.ofNat 32 (65536 * id + i)

/-- The packets or commands of an operation enter its port. -/
def emit (o : SendOp) (bs : List Byte) (s : State) : State :=
  let d := o.desc
  let p : Fin 36 := Fin.ofNat 36 d.port.toNat
  let hdr (off n : Nat) (last : Bool) (rtag : W32) : TxHdr :=
    { last := last, win := d.win, wgen := d.wgen, rpost := d.rpost, anchor := d.anchor, offset := d.roff + BitVec.ofNat 64 off, len := BitVec.ofNat 32 n,
      rtag := rtag }
  if isStore d then sendOut (.store d.win.toNat (d.op == 6) d.roff.toNat d.len.toNat bs) (modPort p (fun x => { x with traffic := 10 }) s)
  else if d.op = 5 then sendTx p 7 (hdr 0 d.len.toNat true 0) [] s
  else
    let ps := packets d
    ps.zipIdx.foldl (fun s c =>
      let last := decide (c.2 + 1 = ps.length)
      let off := if d.op = 4 then c.1.1 / 6 else c.1.1
      if d.op = 1 then sendTx p 2 (hdr off c.1.2 last (requestTag o.id c.2)) [] s
      else sendTx p (sendType d.op.toNat) (hdr off c.1.2 last 0) ((bs.drop c.1.1).take c.1.2) s) s

/-- The operation is over once all its bytes are counted. -/
def checkOp (id : Nat) (s : State) : State :=
  match findOp s id with
  | some o => if o.desc.op != 5 && o.done == o.desc.len.toNat then endOp o s else s
  | none => s

/-- A descriptor starts (R439, R441). -/
def startSend (queue slot : Nat) (q : SendQ) (d : SendDesc) (bs : List Byte) (ref : Bool) (s : State) : State :=
  let o : SendOp := { id := s.links.nextId, queue := queue, slot := slot, pad := q.pad.toNat, tag := q.aspace.toNat, epoch := (getSpace s q.aspace.toNat).epoch,
                      desc := d, done := 0, landed := [], refused := ref }
  let s := countRefusal q.pad.toNat ref false { s with links := { s.links with ops := s.links.ops ++ [o], nextId := s.links.nextId + 1 } }
  checkOp o.id (emit o bs s)

def setSqNext (queue : Nat) (s : State) : State := setSq queue { getSq s queue with next := (getSq s queue).next + 1, drawn := 0 } s

/-- Admission of a paddock is stalled (R503). -/
def admissionStalled (s : State) (pad : Nat) : Bool := s.pwr.stalled.contains pad

/-- Tokens of link egress drawn in grants for the next descriptor of a queue, from the got bytes that have theirs on (R398, R399). -/
def drawEgress (fuel pad n got : Nat) (s : State) : State × Nat :=
  match fuel with
  | 0 => (s, got)
  | k + 1 =>
    let m := min (n - got) (grantBytes s pad [3])
    if m = 0 then (s, got)
    else match draw pad [(3, m)] s with
      | (s, none) => (s, got)
      | (s, some _) => drawEgress k pad n (got + m) s

/-- SEND_DESCRIPTOR_READ: the next descriptor is read once KICK allows, counted in CPOST, and starts or fails. While its port recovers it waits to start. -/
def sendRead (queue : Fin 64) (s : State) : State :=
  let q := getSq s queue.val
  let pad := q.pad.toNat
  let half := queue.val / 32
  let kick := match handlePost s pad q.kick with | some d => (postValue s d).toNat | none => 0
  if !(atWork s && halfIn s half) || !q.enable || queueStopped s pad || admissionStalled s pad || kick < q.next + 1 ||
      4 ≤ (s.links.ops.filter fun o => o.queue == queue.val).length then s
  else
    let slot := q.next % 2 ^ q.log2size.toNat
    match engineRead (ringEng s pad q.aspace.toNat (windowLook (8 + half)) true) 1 0 0 (q.rbase.toNat + 64 * slot) 64 false s with
    | .wait s => s
    | .fault s => s
    | .done s bs _ _ =>
      let d := parseSend bs
      let counted (s : State) : State := updHandle pad q.cpost false 1 [] [] (setSqNext queue.val (gallop s))
      if sendFieldBad s q half d then failSend queue.val slot pad d.tag 1 (counted s)
      else if (getPort s (Fin.ofNat 36 d.port.toNat)).recovering then s
      else match sendReason s q half d with
        | some r => failSend queue.val slot pad d.tag r (counted s)
        | none =>
          let n := d.len.toNat
          let reads := d.op != 1 && d.op != 5 && d.op != 7
          let g := ringEng s pad q.aspace.toNat (windowLook (8 + half)) true
          let h := if reads then rangeHold g false false d.laddr.toNat n s else (s, false)
          let need := if reads then n else 0
          if h.2 then h.1
          else
            let e := drawEgress (need + 1) pad need q.drawn h.1
            if e.2 < need then setSq queue.val { getSq e.1 queue.val with drawn := e.2 } e.1
            else if reads then
              let r := rangeRead g false d.laddr.toNat n e.1
              startSend queue.val slot q d r.2.1 r.2.2.2 (counted r.1)
            else startSend queue.val slot q d [] false (counted e.1)

/-- Bytes that an operation's count takes. -/
def countOp (o : SendOp) (n : Nat) (s : State) : State := addOpt o.pad o.desc.lpost n s

/-- LINK_ACK: the peer's link layer acknowledges packets of a WRITE or an add, or a POST_ADD (R442). -/
def linkAckOp (id bytes : Nat) (s : State) : State :=
  match findOp s id with
  | none => s
  | some o =>
    if (getPort s (Fin.ofNat 36 o.desc.port.toNat)).state != .up then s
    else if o.desc.op = 5 then countOp o 1 (endOp o s)
    else if o.desc.op = 1 || isStore o.desc then s
    else
      let n := min bytes (o.desc.len.toNat - o.done)
      checkOp id (if n = 0 then s else countOp o n (putOp { o with done := o.done + n } s))

/-- Bytes that land at an operation's LADDR from an offset on, tried at memory: true where they wait. -/
def tryLand (o : SendOp) (off : Nat) (bs : List Byte) (s : State) : State × Bool :=
  let g : Eng := { pad := o.pad, tag := o.tag, epoch := o.epoch, look := windowLook (8 + o.queue / 32), hint := 0, last := false, core := none, team := none,
                   stream := false }
  let va := o.desc.laddr.toNat + off
  let h := rangeHold g false true va bs.length s
  if h.2 then h
  else
    let r := rangeWrite g false va bs [] h.1
    let s := countRefusal o.pad r.2 o.refused r.1
    (checkOp o.id (countOp o bs.length (putOp { o with done := o.done + bs.length, refused := o.refused || r.2 } s)), false)

/-- Bytes land at an operation's LADDR, or wait to. mark: the packets of a read that have come. -/
def landOp (o : SendOp) (off : Nat) (bs : List Byte) (mark : List Nat) (s : State) : State :=
  let o := { o with landed := mark }
  let r := tryLand o off bs s
  if r.2 then holdReq (.landing o.id off bs) (some (o.tag, o.epoch)) (putOp o r.1) else r.1

/-- READ_RSP: read data land at the requester, once for each request (R442). -/
def readRspOp (p : Fin 36) (t : TxHdr) (bs : List Byte) (s : State) : State :=
  let x := getPort s p
  if !(portLive s p && x.state == .up && x.mode == 0) then s
  else match s.links.ops.find? fun o => o.desc.op == 1 && o.desc.port.toNat == p.val && o.id % 65536 == t.rtag.toNat / 65536 with
    | none => s
    | some o =>
      let i := t.rtag.toNat % 65536
      match (packets o.desc)[i]? with
      | none => s
      | some c => if o.landed.contains i then s
                  else landOp o c.1 ((List.range c.2).map fun j => bs[j]?.getD 0) (i :: o.landed) (setPort p { x with traffic := 10 } s)

/-- Bytes of an operation that wait to land. -/
def heldBytes (s : State) (id : Nat) : Nat :=
  (s.xlt.held.map fun r => match r.src with | .landing o _ bs => if o = id then bs.length else 0 | _ => 0).sum

/-- STORE_COMMAND_COMPLETE: a target completes a command of an operation, whose bytes are counted, or reports an error (R442, R443). -/
def storeDone (id : Nat) (ok : Bool) (data : List Byte) (s : State) : State :=
  match findOp s id with
  | none => s
  | some o =>
    if !isStore o.desc || (getPort s (Fin.ofNat 36 o.desc.port.toNat)).state != .up then s
    else if !ok then failOp o 6 s
    else
      let off := o.done + heldBytes s id
      let bs := data.take (o.desc.len.toNat - off)
      if bs.isEmpty then s
      else if o.desc.op = 7 then landOp o off bs [] s
      else checkOp id (countOp o bs.length (putOp { o with done := o.done + bs.length } s))

/-- Send queues of a paddock are emptied with its posts (R202, R439): the next index is 0. -/
def emptySends (pad : Nat) (s : State) : State :=
  { s with links := { s.links with sqs := s.links.sqs.map fun e => if e.2.pad.toNat == pad then (e.1, { e.2 with next := 0, drawn := 0 }) else e } }

/-! ## Storage targets (R446) -/

/-- A reserved field of a target record is nonzero. -/
def recordBad (bs : List Byte) : Bool := decide (4096 ≤ fldAt bs 34 2) || fldAt bs 42 22 != 0 || fldAt bs 576 448 != 0

/-- The target is left failed, with one entry. -/
def targetFailed (t : Fin 16) (s : State) : State :=
  let x := getTgt s t.val
  let w := getPort s (Fin.ofNat 36 x.port.toNat)
  report (linkErr 0x0B 2 0x0B t.val t.val w.width.toNat w.mode.toNat 0 w.peerId) (setTgt t.val { x with state := 3 } s)

/-- CONNECT set: the record is read once, from the port through which the register was written, and the target connects. -/
def connectTarget (h : Fin 2) (t : Fin 16) (s : State) : State :=
  let x := getTgt s t.val
  if x.state = 1 || x.state = 2 then setTgt t.val { x with connect := true } s
  else
    let bs := hostReads s h x.haddr.toNat 1024
    let s := setTgt t.val { x with connect := true, state := 1, record := mwrites [] 0 bs } s
    if !funcUp s h 0 || recordBad bs then targetFailed t s else s

def disconnectTarget (t : Fin 16) (s : State) : State := settleTarget t.val (setTgt t.val { getTgt s t.val with connect := false } s)

/-- A connection becomes ready, or fails. -/
def targetDone (t : Fin 16) (ok : Bool) (s : State) : State :=
  let x := getTgt s t.val
  let p := getPort s (Fin.ofNat 36 x.port.toNat)
  if x.state != 1 || !x.connect then s
  else if !ok then targetFailed t s
  else if x.port.toNat < 36 && p.state == .up && p.mode != 0 then setTgt t.val { x with state := 2, rate := 1000, halved := false } s
  else s

/-! ## Ethernet (R444, R445, R448) -/

def countFrame (p : Fin 36) (s : State) : State := bump (1096 + p.val) 1 s

/-- A received frame; beat handles a PTP message on port 0. -/
def ethernet (p : Fin 36) (frame : EthFrame) (s : State) : State :=
  let x := getPort s p
  if !(portLive s p && x.state == .up && x.mode != 0) then s
  else
    let s := setPort p { x with traffic := 10 } s
    match frame with
    | .roce t ecn =>
      let y := getTgt s t.val
      if y.port.toNat == p.val && (y.state == 1 || y.state == 2) then
        if ecn then setTgt t.val { y with rate := y.rate / 2, halved := true } s else s
      else countFrame p s
    | .arp => s
    | .neighbour => s
    | .ptp => if p = 0 then s else countFrame p s
    | .other => countFrame p s

/-- Every 55 µs a halved rate recovers by 5 percent, of the full rate (DEDUCED, log 27). -/
def ecnRecovery (t : Fin 16) (s : State) : State :=
  let y := getTgt s t.val
  if y.halved then setTgt t.val { y with rate := min 1000 (y.rate + 50), halved := decide (y.rate + 50 < 1000) } s else s

end Sys2Proof.Machine
end

