-- ==== Sys2Proof/Machine/Spaces.lean ====
section
/-! DEFINITION. Extents and their changes (R278 to R292, R373 to R375, R396, R408, R527), migration (R298 to R303), and the host aperture (R297). -/

namespace Sys2Proof.Machine

/-! ## What a command may name -/

/-- The tag belongs to the paddock (R276). -/
def tagOf (s : State) (pad tag : Nat) : Bool := let sp := getSpace s tag; sp.valid && sp.pad == pad

def findExt (s : State) (tag index : Nat) : Option Extent := (getSpace s tag).table.find? fun e => e.index == index

/-- The spill indices of a paddock's first tag (R396). -/
def spillIndex (s : State) (pad tag index : Nat) : Bool :=
  match getPad s pad with
  | some d => tag == d.p.taglo.toNat && decide (4094 ≤ index)
  | none => false

/-- The index is one that the mixer holds (R408). -/
def mixerIndex (s : State) (tag index : Nat) : Bool := (getSpace s tag).table.any fun e => e.mixer && e.index == index

/-- The range touches the key/value range of an ordinary channel's KVTAG (R408). -/
def kvRange (s : State) (pad tag vbase len : Nat) : Bool :=
  match getPad s pad with
  | some d => d.p.serve == 1 && tag == d.p.kvtag.toNat && decide (vbase < 2 ^ 47 - 2 ^ 36 ∧ 2 ^ 46 < vbase + len * granBytes)
  | none => false

/-- The range overlaps an extent or share entry of the tag other than one index (R279, R285). -/
def overlaps (s : State) (tag : Nat) (but : Option Nat) (vbase len : Nat) : Bool :=
  (getSpace s tag).table.any fun e => some e.index != but && decide (vbase < e.vbase + e.len * granBytes ∧ e.vbase < vbase + len * granBytes)

/-- VBASE and LEN lie in the address space (R278, R279). -/
def rangeOk (vbase len : Nat) : Bool := decide (vbase % granBytes = 0 ∧ 1 ≤ len ∧ len ≤ 1048576 ∧ vbase + len * granBytes ≤ 2 ^ 47)

/-- The fields of an extent descriptor hold no refused value (R278). -/
def extFields (d : ExtDesc) : Bool :=
  d.hint != 0 && decide (d.vbase.toNat % granBytes = 0 ∧ d.vbase.toNat < 2 ^ 47 ∧ 1 ≤ d.len.toNat ∧ d.len.toNat ≤ 1048576) && (d.backed || d.bkidx == 0) &&
  (if d.migr then decide (d.hbase.toNat % 4096 = 0) else d.hbase == 0 && d.raddr == 0)

/-- An EXT.MAP is not refused (R279, R396, R408, R527). -/
def mapOk (s : State) (pad : Nat) (d : ExtDesc) : Bool :=
  let tag := d.tag.toNat
  extFields d && tagOf s pad tag && rangeOk d.vbase.toNat d.len.toNat && !overlaps s tag (some d.index.toNat) d.vbase.toNat d.len.toNat &&
  (!d.backed || (!d.space && (match findExt s tag d.bkidx.toNat with | some b => b.barn && b.share.isNone && b.len == d.len.toNat | none => false))) &&
  (!d.shared || d.backed) && (!d.migr || (!d.space && !d.shared && !d.conf && (getSpace s tag).mig != 0)) &&
  !spillIndex s pad tag d.index.toNat && !mixerIndex s tag d.index.toNat && !kvRange s pad tag d.vbase.toNat d.len.toNat &&
  !(d.shared && d.conf) && (d.conf || !isConf s pad)

/-! ## Granules given and taken -/

/-- Granules of a run. -/
def inRun (first len g : Nat) : Bool := decide (first ≤ g ∧ g < first + len)

/-- A mark copies one pending granule to its generation: bytes as the Loft holds them, and poison as poison (R465, R475). -/
def baleGran (g : MarkedGran) (s : State) : State :=
  match s.snaps.mark with
  | none => s
  | some m =>
    let c := cleanFrames (keyInGran g.half g.gran) s
    let a := granBytes * g.gran
    let d := genAddr m.gen.val a
    let c := copyPoison g.half false a true d granBytes c
    let s := setBarnMem g.half (mcopy (stackMem c g.half) a (barnMem s g.half) d granBytes) s
    let moved := c.mem.poison.filter fun x => x.1 == g.half && x.2.1 && inRun (d / 64) 32768 x.2.2
    let others := s.mem.poison.filter fun x => !(x.1 == g.half && x.2.1 && inRun (d / 64) 32768 x.2.2)
    let m := { m with pending := m.pending.filter (fun x => !(x.half == g.half && x.gran == g.gran)),
                      wanted := m.wanted.filter (fun x => x != (g.half, g.gran)), bytes := m.bytes + granBytes }
    bump 1156 granBytes { s with mem := { s.mem with poison := moved ++ others }, snaps := { s.snaps with mark := some m } }

/-- Pending granules of a range are copied before what is about to overwrite them (R476). -/
def baleRun (half : Bool) (first len : Nat) (s : State) : State :=
  match s.snaps.mark with
  | none => s
  | some m => (m.pending.filter fun x => x.half == half && inRun first len x.gran).foldl (fun t g => baleGran g t) s

/-- Open lines that a predicate names go, and the spill slots that they hold. -/
def dropOpen (p : Nat → Bool) (s : State) : State :=
  let gone := s.loft.openLines.filter fun e => p e.1
  let s := setOpenLines (s.loft.openLines.filter fun e => !p e.1) s
  gone.foldl (fun t e => match e.2.place with | .slot n => useSlot e.2.pad n false t | .spilling n => useSlot e.2.pad n false t | .pinned => t) s

/-- Every byte of some granules is set to zero: the Loft's copies and the poison go with them (R280). -/
def clearGranules (barn half : Bool) (first len : Nat) (s : State) : State :=
  let s := if barn then s else baleRun half first len s
  let s := { s with mem := { s.mem with poison := s.mem.poison.filter fun x => !(x.1 == half && x.2.1 == barn && inRun first len (x.2.2 / 32768)) } }
  if barn then setBarnMem half (mzero (barnMem s half) (granBytes * first) (granBytes * len)) s
  else
    let mine (k : Nat) : Bool := keyHalf k == half && inRun first len (keyLine k / 2048)
    setStackMem half (mzero (stackMem s half) (granBytes * first) (granBytes * len))
      (dropOpen mine (discardFrames mine s))

/-- Both dirty bits of some Stack granules (R474). -/
def dirtyRun (half : Bool) (first len : Nat) (s : State) : State :=
  { s with mem := { s.mem with dirty := (List.range len).foldl (fun t i => tput t (dirtyKey half (first + i)) 3) s.mem.dirty } }

/-- Zero runs with some granules taken out. -/
def cutZero (barn half : Bool) (first len : Nat) (l : List ZeroRun) : List ZeroRun :=
  l.flatMap fun r =>
    if r.barn == barn && r.half == half && decide (r.first < first + len ∧ first < r.first + r.len) then
      (if r.first < first then [{ r with len := first - r.first }] else []) ++
      (if first + len < r.first + r.len then [{ r with first := first + len, len := r.first + r.len - (first + len) }] else [])
    else [r]

/-- The granule was freed by an earlier sequence of the paddock and nothing has been placed on it since (R408). -/
def kvKept (s : State) (pad : Nat) (half : Bool) (g : Nat) : Bool :=
  match getPad s pad with
  | some d => d.kvFreed.any fun z => z.half == half && inRun z.first z.len g
  | none => false

/-- Granules are given to an owner: their record, their bytes zero, their dirty bits set (R280, R283, R474). keep: the granules whose bytes stay (R408). -/
def placeRun (r : GranRun) (keep : Nat → Bool) (s : State) : State :=
  let kept := (List.range r.len).all fun i => keep (r.first + i)
  let s := if kept then s
    else if (List.range r.len).any fun i => keep (r.first + i) then
      (List.range r.len).foldl (fun t i => if keep (r.first + i) then t else clearGranules r.barn r.half (r.first + i) 1 t) s
    else clearGranules r.barn r.half r.first r.len s
  let s := if r.barn then s else dirtyRun r.half r.first r.len s
  addRun r { s with pads := s.pads.map fun e => (e.1, { e.2 with kvFreed := if r.barn then e.2.kvFreed else cutZero false r.half r.first r.len e.2.kvFreed }) }

/-- An EXT.MAP has placed Stack granules (R479). -/
def notePlaced (half : Bool) (first len : Nat) (s : State) : State :=
  let add (g : Gen) : Gen := { g with placed := (List.range len).map (fun i => (half, first + i)) ++ g.placed }
  { s with snaps := { s.snaps with gens := s.snaps.gens.map add } }

/-- A granule of a run still waits for its background zeroing (R545). -/
def runZeroing (s : State) (barn half : Bool) (first len : Nat) : Bool :=
  s.mem.tozero.any fun z => z.barn == barn && z.half == half && decide (z.first < first + len ∧ first < z.first + z.len)

/-- The run of an extent's own granules. -/
def Extent.run (e : Extent) : GranRun :=
  { barn := e.barn, half := e.half, first := e.pbase, len := e.len, ctx := e.owner, share := 0, conf := e.conf }

/-! ## Changes of a tag (R289 to R292) -/

def setTable (tag : Nat) (t : List Extent) (s : State) : State := setSpace tag { getSpace s tag with table := t } s

/-- Steps 1 to 4 of R291: the new table, the next epoch, and the wait for transfers of the old phase. -/
def changeTag (tag : Nat) (table : List Extent) (c : Change) (s : State) : State :=
  let sp := getSpace s tag
  dropOldLook tag (sp.epoch + 1) (setSpace tag { sp with epoch := sp.epoch + 1, table := table, prev := (sp.epoch, sp.table) :: sp.prev, draining := some c } s)

/-- A change waits for its turn (R292). -/
def waitTag (tag : Nat) (c : TagChange) (s : State) : State :=
  let sp := getSpace s tag
  setSpace tag { sp with waiting := sp.waiting ++ [c] } s

/-- The share entries of a source extent in one tag go. -/
def unshareTag (src : Nat × Nat) (tag : Nat) (s : State) : State :=
  let sp := getSpace s tag
  let gone := sp.table.filter fun e => e.share == some src
  if gone.isEmpty then s
  else if sp.draining.isSome then waitTag tag (.unshare src.1 src.2) s
  else
    changeTag tag (sp.table.filter fun e => e.share != some src)
      { cmd := none, freed := [], unshare := gone.map (fun e => (sp.pad, e.run)), indices := [], mapped := none } s

/-- Every share entry of a source extent goes (R285). -/
def unshareAll (src : Nat × Nat) (s : State) : State :=
  ((s.xlt.spaces.filter fun t => t.2.table.any fun e => e.share == some src).map Prod.fst).foldl (fun t k => unshareTag src k t) s

/-- What the removal of an extent or share entry leaves for step 5; own: the share entries of the extent in its own tag, which go with it. -/
def removal1 (pad : Nat) (e : Extent) (own : List Extent) (cmd : Option Nat) (mapped : Option (Nat × Nat)) : Change :=
  { cmd := cmd, freed := if e.share.isNone then [e.run] else [],
    unshare := (if e.share.isSome then [(pad, e.run)] else []) ++ own.map fun x => (pad, x.run),
    indices := if e.migr then [e.index] else [], mapped := mapped }

/-- An extent, with its share entries, or a share entry is taken out of a tag that is not draining, and one may take its place (R285, R291). -/
def replaceExt (tag : Nat) (old : Extent) (new : List Extent) (cmd : Option Nat) (mapped : Option (Nat × Nat)) (s : State) : State :=
  let sp := getSpace s tag
  let mine (e : Extent) : Bool := old.share.isNone && e.share == some (tag, old.index)
  let s := changeTag tag (sp.table.filter (fun e => e.index != old.index && !mine e) ++ new) (removal1 sp.pad old (sp.table.filter mine) cmd mapped) s
  if old.share.isNone then unshareAll (tag, old.index) s else s

/-- The share bit of a paddock goes from a run that no other share entry of it reaches. -/
def dropShare (pad : Nat) (r : GranRun) (s : State) : State :=
  if (s.xlt.spaces.any fun t => t.2.valid && t.2.pad == pad && t.2.table.any fun e => e.share.isSome && e.pbase == r.first && e.half == r.half) then s
  else { s with xlt := { s.xlt with granules := s.xlt.granules.map fun g =>
      if !g.barn && g.half == r.half && r.first ≤ g.first && decide (g.first + g.len ≤ r.first + r.len) then
        { g with share := g.share &&& ~~~BitVec.ofNat 32 (2 ^ pad) } else g } }

/-- Freed granules leave their owner: records cleared, and zeroed where CONF was set (step 5 of R291). -/
def freeRuns (rs : List GranRun) (s : State) : State :=
  rs.foldl (fun t r => dropRun r (if r.conf then clearGranules r.barn r.half r.first r.len t else t)) s

/-- Commands that a granule's moves serve. -/
def MigGran.cmds (m : MigGran) : List Nat := m.cmd.toList ++ m.asked.map Prod.snd

/-- The entry of a command is written once no move of it is left (R299). -/
def movesOver (cmds : List Nat) (s : State) : State :=
  cmds.eraseDups.foldl (fun t c => if t.xlt.mig.any fun m => m.cmds.contains c then t else writeStatus c done [] t) s

/-- Residence records of the granules that a change frees go with them; a command whose last move they were completes (R303). -/
def dropMig (tag : Nat) (c : Change) (s : State) : State :=
  let mine (m : MigGran) : Bool := m.tag == tag && c.indices.contains m.index && c.freed.any fun r => !r.barn && r.half == m.half && inRun r.first r.len m.place
  let cmds := (s.xlt.mig.filter mine).flatMap MigGran.cmds
  movesOver cmds { s with xlt := { s.xlt with mig := s.xlt.mig.filter fun m => !mine m } }

/-- Share entries of the granules that a change frees have been removed from another tag and old transfers through them may still run (R290, R291). One whose
removal waits for its own tag's turn does not hold the change back: tags proceed independently (R292). -/
def shareInUse (s : State) (tag : Nat) (c : Change) : Bool :=
  s.xlt.spaces.any fun t => t.1 != tag && (match t.2.draining with
    | some d => d.unshare.any fun u => c.freed.any fun r => !r.barn && r.half == u.2.half && r.first == u.2.first
    | none => false)

/-- Granules to be zeroed wait for a held stack or a stand-in (R314, R324). -/
def runWaits (s : State) (rs : List GranRun) : Bool :=
  rs.any fun r => !r.barn && (stackHeldIn s r.half || (List.range r.len).any fun i => installingIn s r.half (r.first + i))

/-- The result of the command that made a change (R373, R375). -/
def changeResult (body : Body) (sp : AddrSpace) (c : Change) : List Byte :=
  match body with
  | .extMap _ => match c.mapped with
    | some (i, p) => leBytes 2 i ++ leBytes 2 sp.epoch.toNat ++ leBytes 4 p
    | none => []
  | .confEnter _ => []
  | _ => leBytes 2 sp.epoch.toNat

/-- PBASE as an entry of a ring shows it (R373): zero to a tenant. -/
def shownBase (ring pbase : Nat) : Nat := if ring < 2 then pbase else 0

/-! ## EXT commands -/

/-- The extent that an EXT.MAP makes on granules from pbase on. -/
def extentOf (pad : Nat) (d : ExtDesc) (pbase : Nat) : Extent :=
  { index := d.index.toNat, barn := d.space, half := d.half, shared := d.shared, backed := d.backed, conf := d.conf, hint := d.hint, migr := d.migr,
    bkidx := d.bkidx.toNat, vbase := d.vbase.toNat, len := d.len.toNat, pbase := pbase, hbase := d.hbase, raddr := d.raddr,
    owner := ctxOf pad d.tag.toNat, share := none, mixer := false, spill := false }

/-- A new extent's granules: placed, and DEV where they can migrate (R280, R299). -/
def giveExtent (pad : Nat) (d : ExtDesc) (e : Extent) (s : State) : State :=
  let s := placeRun e.run (fun _ => false) s
  let s := if d.space then s else notePlaced d.half e.pbase e.len s
  if d.migr then
    let h := padPort s pad
    setHost h { s.hosts[h] with mem := mzero s.hosts[h].mem d.raddr.toNat e.len } s
  else s

/-- EXT.MAP, once its checks have passed (R279, R280, R292, R314, R324, R545): it waits for granules that are not yet zeroed or cannot be now, and is looked at
again after every event (retryMaps). -/
def mapExtent (c : Cmd) (pad : Nat) (d : ExtDesc) (s : State) : State :=
  let tag := d.tag.toNat
  let sp := getSpace s tag
  match freeRun s d.space d.half d.len.toNat with
  | none => writeStatus c.seq noResource [] s
  | some pbase =>
    if budgetLeft s pad d.space d.half < d.len.toNat then writeStatus c.seq noResource [] s
    else if runZeroing s d.space d.half pbase d.len.toNat || runWaits s [(extentOf pad d pbase).run] then s
    else
      let e := extentOf pad d pbase
      let shown := (e.index, shownBase c.hdr.ring.val pbase)
      match findExt s tag e.index with
      | some old => replaceExt tag old [e] (some c.seq) (some shown) (giveExtent pad d e s)
      | none =>
        let s := setTable tag (sp.table ++ [e]) (giveExtent pad d e s)
        writeStatus c.seq done (leBytes 2 shown.1 ++ leBytes 2 sp.epoch.toNat ++ leBytes 4 shown.2) s

/-- EXT.SHARE is not refused (R285, R396, R408, R527). -/
def shareOk (s : State) (pad : Nat) (p : ShareParams) : Bool :=
  tagOf s p.spad.toNat p.stag.toNat && tagOf s pad p.ttag.toNat && decide (p.tvbase.toNat % granBytes = 0) &&
  (match findExt s p.stag.toNat p.sindex.toNat with
   | some e => e.share.isNone && e.shared && e.backed && !e.conf && rangeOk p.tvbase.toNat e.len && !overlaps s p.ttag.toNat none p.tvbase.toNat e.len &&
       !kvRange s pad p.ttag.toNat p.tvbase.toNat e.len
   | none => false) &&
  (findExt s p.ttag.toNat p.tindex.toNat).isNone && !spillIndex s pad p.ttag.toNat p.tindex.toNat

/-- EXT.SHARE: a read-only entry of the source's granules, and the target's bit in their share mask (R285). -/
def shareExtent (pad : Nat) (p : ShareParams) (s : State) : State :=
  match findExt s p.stag.toNat p.sindex.toNat with
  | none => s
  | some e =>
    let n := { e with index := p.tindex.toNat, vbase := p.tvbase.toNat, share := some (p.stag.toNat, p.sindex.toNat) }
    let s := { s with xlt := { s.xlt with granules := s.xlt.granules.map fun g =>
      if !g.barn && g.half == e.half && inRun e.pbase e.len g.first then { g with share := g.share ||| BitVec.ofNat 32 (2 ^ pad) } else g } }
    setTable p.ttag.toNat ((getSpace s p.ttag.toNat).table ++ [n]) s

/-- EXT.UNMAP is not refused (R375, R396, R408). -/
def unmapOk (s : State) (pad tag index : Nat) : Bool :=
  tagOf s pad tag && (findExt s tag index).isSome && !spillIndex s pad tag index && !mixerIndex s tag index

def unmapExtent (seq tag index : Nat) (s : State) : State :=
  match findExt s tag index with
  | some e => replaceExt tag e [] (some seq) none s
  | none => s

/-- An extent of the tag, not a share entry. -/
def ownExt (s : State) (pad tag index : Nat) : Option Extent :=
  if tagOf s pad tag then (findExt s tag index).filter fun e => e.share.isNone else none

/-- HINT of an extent set: a change that frees nothing (R289, R298). -/
def setHint (seq tag index : Nat) (hint : BitVec 2) (s : State) : State :=
  changeTag tag (mapWhere (fun e => e.index == index) (fun e => { e with hint := hint }) (getSpace s tag).table)
    { cmd := some seq, freed := [], unshare := [], indices := [], mapped := none } s

/-- A range of a MIGR extent (R375). -/
def rangeExt (s : State) (pad : Nat) (r : ExtRange) : Option Extent :=
  (ownExt s pad r.tag.toNat r.index.toNat).filter fun e => e.migr && decide (1 ≤ r.count.toNat ∧ r.first.toNat + r.count.toNat ≤ e.len)

def rangeGrans (r : ExtRange) : List Nat := (List.range r.count.toNat).map (r.first.toNat + ·)

/-- The moves of EXT.ADVISE with HOST or of EXT.PREFETCH begin; a granule that is moving the other way moves again afterwards. With none to make the entry is
written (R299). -/
def beginMoves (seq : Nat) (r : ExtRange) (e : Extent) (into : Bool) (s : State) : State :=
  let tag := r.tag.toNat
  let s := (rangeGrans r).foldl (fun t g =>
    match residence t tag e g with
    | .dev => if into then t else startMove tag e g false (some seq) t
    | .host => if into then startMove tag e g true (some seq) t else t
    | _ => modMig tag e g (fun m => { m with asked := m.asked ++ [(into, seq)] }) t) s
  movesOver [seq] s

/-- MIGMODE is not refused (R298). -/
def migModeOk (s : State) (pad tag : Nat) (mode : BitVec 2) (hot : W16) : Bool :=
  mode != 3 && hot != 0 && tagOf s pad tag && !((getSpace s tag).table.any fun e => e.migr)

/-- The aperture selection of a function (R297, R298): its key. -/
def apertKey (h : Fin 2) (fn : Nat) : Nat := 32 * h.val + fn

/-! ## Steps 5 and 6 of R291, and the next change -/

/-- A command's change of a tag, made now, or the wait for its turn, its checks being passed when it is made. -/
def makeChange (tag : Nat) (c : Cmd) (make : State → State) (s : State) : State :=
  if (getSpace s tag).draining.isSome then waitTag tag (.cmd c.seq) s else make s

/-- Refusal of a command that has been accepted: its checks of device state are made when it begins (R359). -/
def refuseCmd (seq : Nat) (s : State) : State :=
  match findCmd s seq with
  | none => s
  | some c =>
    let r := c.hdr.ring.val
    let s := ringStatus r c.hdr.tag 0 0 [] false true (dropCmd seq s)
    let g := getRing s r
    setRing r { g with refused := satW 32 g.refused 1 } s

/-- EXT.MAP: over an index in use of a draining tag it waits its turn; of a free index it is made at once where its checks pass (R292). -/
def beginMap (c : Cmd) (d : ExtDesc) (s : State) : State :=
  let pad := c.hdr.paddock.toNat
  let tag := d.tag.toNat
  if (getSpace s tag).draining.isSome && ((findExt s tag d.index.toNat).isSome || (!(getSpace s tag).waiting.isEmpty && !mapOk s pad d)) then
    (if (getSpace s tag).waiting.contains (.cmd c.seq) then s else waitTag tag (.cmd c.seq) s)
  else if mapOk s pad d then mapExtent c pad d s else refuseCmd c.seq s

def beginUnmap (c : Cmd) (tag : BitVec 10) (index : BitVec 12) (s : State) : State :=
  makeChange tag.toNat c (fun s =>
    if unmapOk s c.hdr.paddock.toNat tag.toNat index.toNat then unmapExtent c.seq tag.toNat index.toNat s else refuseCmd c.seq s) s

def beginHint (c : Cmd) (tag : BitVec 10) (index : BitVec 12) (hint : BitVec 2) (s : State) : State :=
  makeChange tag.toNat c (fun s =>
    if hint != 0 && (ownExt s c.hdr.paddock.toNat tag.toNat index.toNat).isSome then setHint c.seq tag.toNat index.toNat hint s
    else refuseCmd c.seq s) s

/-- CONF on the spill extents, as a change of the first tag (R526). -/
def confSpill (c : Cmd) (tag : Nat) (s : State) : State :=
  let sp := getSpace s tag
  let s := { s with xlt := { s.xlt with granules := s.xlt.granules.map fun g =>
      if (sp.table.any fun e => e.spill && !g.barn && g.half == e.half && inRun e.pbase e.len g.first) then { g with conf := true } else g } }
  changeTag tag (mapWhere (fun e => e.spill) (fun e => { e with conf := true }) sp.table)
    { cmd := some c.seq, freed := [], unshare := [], indices := [], mapped := none } s

/-- The changes that wait for a tag, until one is at step 4 (R292). -/
def nextChange (fuel tag : Nat) (s : State) : State :=
  match fuel with
  | 0 => s
  | k + 1 =>
    let sp := getSpace s tag
    if sp.draining.isSome then s
    else match sp.waiting with
      | [] => s
      | w :: r =>
        let s := setSpace tag { sp with waiting := r } s
        let s := match w with
          | .unshare t i => unshareTag (t, i) tag s
          | .cmd seq => match findCmd s seq with
            | none => s
            | some c => match c.body with
              | .extMap d => beginMap c d s
              | .extUnmap t i => beginUnmap c t i s
              | .adviseHint t i h => beginHint c t i h s
              | .confEnter _ => confSpill c tag s
              | _ => s
        nextChange k tag s

/-- TAG_DRAIN_DONE: no transfer of the old phase remains; freed granules leave, the entry is written, and the next change of the tag is made (R291). -/
def tagDrainOp (tag : Nat) (s : State) : State :=
  let sp := getSpace s tag
  match sp.draining with
  | none => s
  | some c =>
    if !tagDrained s tag || shareInUse s tag c || runWaits s (c.freed.filter fun r => r.conf) then s
    else
      let s := freeRuns c.freed s
      let s := setSpace tag { sp with draining := none, prev := [] } s
      let s := c.unshare.foldl (fun t u => dropShare u.1 u.2 t) s
      let s := dropMig tag c s
      let s := match c.cmd with
        | some seq => match findCmd s seq with
          | some k => writeStatus seq done (changeResult k.body (getSpace s tag) c) s
          | none => s
        | none => s
      nextChange ((getSpace s tag).waiting.length + 1) tag s

/-- EXT.MAP commands that have begun and wait for their granules are looked at again (R280). -/
def retryMaps (s : State) : State :=
  (s.ym.cmds.filter Cmd.began).foldl (fun t c => match c.body with
    | .extMap d =>
      let sp := getSpace t d.tag.toNat
      if (findCmd t c.seq).isNone || sp.waiting.contains (.cmd c.seq) || sp.draining.any (fun x => x.cmd == some c.seq) then t else beginMap c d t
    | _ => t) s

/-! ## Migration -/

/-- A granule's bytes go from the Stack to the host buffer, its open lines closed (R262, R299). -/
def moveOut (e : Extent) (gran : Nat) (s : State) : State :=
  let g := e.pbase + gran
  let h := padPort s (e.owner.toNat / 1024)
  let s := cleanFrames (keyInGran e.half g) (closeGranule e.half g s)
  let s := setHost h { s.hosts[h] with mem := mcopy (stackMem s e.half) (granBytes * g) s.hosts[h].mem (e.hbase.toNat + granBytes * gran) granBytes } s
  discardFrames (keyInGran e.half g) s

/-- A granule's bytes come from the host buffer to the Stack. -/
def moveIn (e : Extent) (gran : Nat) (s : State) : State :=
  let g := e.pbase + gran
  let h := padPort s (e.owner.toNat / 1024)
  let src := s.hosts[h].mem
  let s := dirtyRun e.half g 1 (clearGranules false e.half g 1 s)
  setStackMem e.half (mcopy src (e.hbase.toNat + granBytes * gran) (stackMem s e.half) (granBytes * g) granBytes) s

/-- A move is over: its residence byte, the move asked for next, and the entries of the commands whose last move it was (R299). -/
def moveOver (tag : Nat) (e : Extent) (gran : Nat) (into : Bool) (s : State) : State :=
  match s.xlt.mig.find? (MigGran.names tag e gran) with
  | none => s
  | some m =>
    let s := writeResidence e gran (if into then 0 else 1)
      (modMig tag e gran (fun m => { m with res := if into then .dev else .host, cmd := none, count := 0, asked := [] }) s)
    let rest := m.asked.dropWhile fun a => a.1 == into
    let s := match rest with
      | [] => s
      | a :: r => modMig tag e gran (fun m => { m with asked := r }) (startMove tag e gran a.1 (some a.2) s)
    movesOver m.cmds s

/-- The extent of a granule that is moving, in the tag's table or in one that an old transfer translates from (R290, R300). -/
def movingExt (s : State) (tag index gran : Nat) : Option (Extent × MigGran) :=
  match s.xlt.mig.find? fun m => m.tag == tag && m.index == index && m.granule == gran && (m.res == .movingIn || m.res == .movingOut) with
  | none => none
  | some m =>
    let sp := getSpace s tag
    ((sp.table ++ sp.prev.flatMap Prod.snd).find? fun e => MigGran.names tag e gran m).map fun e => (e, m)

/-- MIGRATION_MOVE_DONE and DEMAND_FETCH_DONE: the move of a granule completes. demand: it was a demand fetch, or a move by command or by the sampling
period. A write into a granule that a mark still has to copy waits (R476), and so does a move while the host cannot be reached or a stack is held (R314,
R324). -/
def moveDone (tag index gran : Nat) (demand : Bool) (s : State) : State :=
  match movingExt s tag index gran with
  | none => s
  | some (e, m) =>
    let g := e.pbase + gran
    if !s.hosts[padPort s (e.owner.toNat / 1024)].up || refetching s e.half g || granWaits s e.half g then s
    else if m.res == .movingIn then
      if demand == m.cmd.isSome then s
      else if markPending s e.half g then wantGranule e.half g s
      else moveOver tag e gran true (moveIn e gran s)
    else if demand then s else moveOver tag e gran false (moveOut e gran s)

/-- A granule that the sampling period moves to HOST. -/
def hotGranule (s : State) (m : MigGran) : Bool :=
  m.res == .dev && !m.touched && (getSpace s m.tag).mig == 2 && decide ((getSpace s m.tag).hot.toNat ≤ m.count)

def moveHot (s : State) (m : MigGran) : State :=
  match (findExt s m.tag m.index).filter fun e => MigGran.names m.tag e m.granule m with
  | some e => startMove m.tag e m.granule false none s
  | none => s

/-- MIGRATION_SAMPLE_PERIOD: DEV granules of COUNTED tags whose count reached HOTCOUNT and that no engine accessed move to HOST; counts restart (R302). -/
def samplePeriod (s : State) : State :=
  let s := (s.xlt.mig.filter (hotGranule s)).foldl moveHot s
  { s with xlt := { s.xlt with mig := (s.xlt.mig.map fun m => { m with count := 0, touched := false }).filter fun m => m.res != .dev } }

/-! ## The aperture (R297, R300, R302) -/

/-- The aperture address space of a function. -/
def apertTag (s : State) (h : Fin 2) (fn : Nat) : Option Nat :=
  match tfind s.xlt.apert (apertKey h fn) with
  | some t => some t
  | none => if fn = 0 then none else match s.pads.find? fun e => (e.2.p.port == decide (h.val = 1)) && e.2.vf == fn with
    | some e => some e.2.p.taglo.toNat
    | none => none

/-- The engine of an aperture request of a port. -/
def apertEng (s : State) (h : Fin 2) (tag : Nat) (epoch : W16) : Eng :=
  { pad := (getSpace s tag).pad, tag := tag, epoch := epoch, look := apertureLook (8 + h.val), hint := 0, last := false, core := none, team := none,
    stream := false }

/-- The extent that covers an aperture address for an engine. -/
def apertExt (s : State) (g : Eng) (va : Nat) : Option Extent :=
  if 2 ^ 41 ≤ va then none else (tableSeen s g.look g.tag g.epoch).find? fun e => e.covers va

/-- An aperture access waits: for a granule that is HOST or moving, for zeroing, or for what holds its line. -/
def apertHold (g : Eng) (va n : Nat) (write : Bool) (s : State) : State × Bool :=
  (chunks va n).foldl (fun (acc : State × Bool) c =>
    if acc.2 then acc
    else match apertExt acc.1 g c.1 with
      | none => acc
      | some e =>
        if e.conf then acc
        else if e.barn then (acc.1, zeroing acc.1 true e.half (e.place c.1 / granBytes))
        else
          let h := lineHold e.half (e.place c.1) write acc.1
          if h.2 then h
          else if addsAhead h.1 (lineKey e.half (e.place c.1 / 1024)) then (h.1, true)
          else if !e.migr then h
          else
            let k := (c.1 - e.vbase) / granBytes
            match residence h.1 g.tag e k with
            | .dev => h
            | .host => (startMove g.tag e k true none h.1, true)
            | _ => (h.1, true)) (s, false)

/-- An aperture access that is performed counts once at each DEV granule that it accesses (R302). -/
def apertCount (g : Eng) (va n : Nat) (s : State) : State :=
  let grans := (chunks va n).filterMap fun c => match apertExt s g c.1 with
    | some e => if e.migr && !e.conf then some (e, (c.1 - e.vbase) / granBytes) else none
    | none => none
  grans.eraseDups.foldl (fun t x => modMig g.tag x.1 x.2 (fun m => { m with count := m.count + 1 }) t) s

/-- Aperture reads and writes by line: CONF extents read zero and drop writes, uncounted; a refusal is counted once (R282, R297). -/
def apertRead (g : Eng) (va n : Nat) (s : State) : State × List Byte × Bool :=
  (chunks va n).foldl (fun (acc : State × List Byte × Bool) c =>
    match apertExt acc.1 g c.1 with
    | some e =>
      if e.conf then (acc.1, acc.2.1 ++ List.replicate c.2 0, acc.2.2)
      else
        let r := rangeRead g e.barn c.1 c.2 acc.1
        (r.1, acc.2.1 ++ r.2.1, acc.2.2 || r.2.2.2)
    | none => (acc.1, acc.2.1 ++ List.replicate c.2 0, true)) (s, [], false)

def apertWrite (g : Eng) (va : Nat) (bs : List Byte) (s : State) : State × Bool :=
  (chunks va bs.length).foldl (fun (acc : State × Bool) c =>
    match apertExt acc.1 g c.1 with
    | some e =>
      if e.conf then acc
      else
        let r := rangeWrite g e.barn c.1 ((bs.drop (c.1 - va)).take c.2) [] acc.1
        (r.1, acc.2 || r.2)
    | none => (acc.1, true)) (s, false)

/-- Bytes of an aperture request. -/
def reqSize (r : ApReq) : Nat := match r with | .read len => len | .write bs => bs.length

def reqWrites (r : ApReq) : Bool := match r with | .read _ => false | .write _ => true

/-- The bytes that an aperture request touches. -/
def apertSpans (s : State) (g : Eng) (va n : Nat) : List Span :=
  (chunks va n).filterMap fun c => (apertExt s g c.1).map fun e => (if e.barn then 30000 + b2n e.half else 1 + b2n e.half, e.place c.1, c.2)

/-- The tag and epoch under which an aperture request of a function translates: those it began with, or those of now. -/
def apertUnder (s : State) (f : Func) (began : Option (Nat × W16)) : Option (Nat × W16) :=
  began.or ((apertTag s f.port f.vf.val).map fun t => (t, (getSpace s t).epoch))

/-- Before request id, a request of the port that touches a byte of these waits (R211, R212), or one that has not begun. -/
def apertBehind (s : State) (h : Fin 2) (id : Nat) (xs : List Span) : Bool :=
  s.xlt.held.any fun r => decide (r.id < id) && (match r.src, r.began with
    | .aperture f va req, some (t, e) => f.port == h && xs.any fun x => (apertSpans s (apertEng s h t e) va (reqSize req)).any fun y => Span.meets x y
    | .aperture f _ _, none => f.port == h
    | _, _ => false)

/-- An aperture request tried at memory, as number id of those that wait: what a read returns, or that it waits. -/
def tryAperture (f : Func) (id va : Nat) (req : ApReq) (tag : Nat) (epoch : W16) (s : State) : State × Option (List Byte) :=
  let g := apertEng s f.port tag epoch
  let h := apertHold g va (reqSize req) (reqWrites req) s
  if h.2 || apertBehind s f.port id (apertSpans s g va (reqSize req)) then (h.1, none)
  else
    let s := apertCount g va (reqSize req) h.1
    match req with
    | .read len =>
      let r := apertRead g va len s
      (countRefusal g.pad r.2.2 false r.1, some r.2.1)
    | .write bs =>
      let r := apertWrite g va bs s
      (countRefusal g.pad r.2 false r.1, some [])

/-- APERTURE_REQUEST (R297): where no address space is selected, reads give zero and writes are dropped. A request waits for an exit to GALLOP (R495), and at
memory (R300). -/
def aperture (f : Func) (va : Nat) (req : ApReq) (s : State) : State :=
  if !awake s || !funcUp s f.port f.vf.val then s
  else if !atWork s then holdReq (.aperture f va req) none (startExit s)
  else match apertUnder s f none with
    | none => match req with | .read len => withReply (List.replicate len 0) s | .write _ => s
    | some (tag, epoch) =>
      let r := tryAperture f s.xlt.nextHeld va req tag epoch (gallop s)
      match r.2, req with
      | none, _ => holdReq (.aperture f va req) (some (tag, epoch)) r.1
      | some bs, .read _ => withReply bs r.1
      | some _, .write _ => r.1

/-! ## Requests that wait (R300, R314, R467, R476, R495) -/

def dropHeld (id : Nat) (s : State) : State := { s with xlt := { s.xlt with held := s.xlt.held.filter fun r => r.id != id } }

/-- What a waited read returns goes to its host. -/
def answerHeld (f : Func) (id : Nat) (bs : List Byte) (s : State) : State :=
  setHost f.port { s.hosts[f.port] with answers := (id, bs) :: s.hosts[f.port].answers } s

/-- A request that waits is tried again; one that is performed waits no longer. -/
def retryHeld (r : HeldReq) (s : State) : State :=
  match r.src with
  | .aperture f va req => match apertUnder s f r.began with
    | none => dropHeld r.id (match req with | .read len => answerHeld f r.id (List.replicate len 0) s | .write _ => s)
    | some (tag, epoch) =>
      let x := tryAperture f r.id va req tag epoch s
      match x.2, req with
      | none, _ => { x.1 with xlt := { x.1.xlt with held := mapWhere (fun y => y.id == r.id) (fun y => { y with began := some (tag, epoch) }) x.1.xlt.held } }
      | some bs, .read _ => dropHeld r.id (answerHeld f r.id bs x.1)
      | some _, .write _ => dropHeld r.id x.1
  | .remote p t op => match r.began with
    | none => dropHeld r.id s
    | some (tag, epoch) =>
      let x := tryRemote p t op tag epoch s
      if x.2 then x.1 else dropHeld r.id (windowLess t.win.toNat t.wgen x.1)
  | .landing op off bs => match findOp s op with
    | none => dropHeld r.id s
    | some o =>
      let x := tryLand o off bs s
      if x.2 then x.1 else dropHeld r.id x.1

/-- Every request that waits is tried again, in the order of arrival. -/
def retryAllHeld (s : State) : State := if atWork s && !restarting s then s.xlt.held.foldl (fun t r => retryHeld r t) s else s

/-- An aperture write that a port delivered has not been performed (R220). -/
def apertWriteWaits (s : State) (h : Fin 2) : Bool :=
  s.xlt.held.any fun r => match r.src with | .aperture f _ req => f.port == h && reqWrites req | _ => false

end Sys2Proof.Machine
end

