-- ==== Sys2Proof/Machine/Serving.lean ====
section
/-! DEFINITION. Serving paddocks: step records, the mixer, the fixed-batch channel (R405 to R414). -/

namespace Sys2Proof.Machine

/-- The header of a step record (R406). -/
def recordHead (k nseg ntok : Nat) (btag : W32) : List Byte :=
  leBytes 8 k ++ leBytes 2 nseg ++ [0, 0] ++ leBytes 4 ntok ++ leBytes 4 btag.toNat ++ List.replicate 44 0

/-- A segment of a step record: its sequence, kind, and tokens (R406). -/
def segBytes (q : Seq) (kind n : Nat) : List Byte :=
  leBytes 2 (q.slot.getD 0) ++ [BitVec.ofNat 8 kind, 0] ++ leBytes 4 q.pos ++ leBytes 4 n ++ leBytes 4 q.id.toNat ++
  leBytes 8 (if kind = 0 then 0 else q.join.prompt.toNat + 4 * q.pos) ++ leBytes 8 q.join.user.toNat

/-- The record of step k written to its buffer (R405). -/
def writeRecord (pad k : Nat) (bs : List Byte) (s : State) : State :=
  match getPad s pad with
  | none => s
  | some d => commonsWrite pad (d.p.boff.toNat + k % d.p.nbuf.toNat * recordSize d.p) bs s

/-! ## Key/value memory (R408, R410) -/

def runGrans (q : Seq) : Nat := q.runs.foldl (fun a e => a + e.len) 0

def swapGrans (q : Seq) : Nat := q.swap.foldl (fun a r => a + r.len) 0

/-- Tokens that a slot's memory holds. -/
def capacity (p : PadParams) (q : Seq) : Nat := runGrans q * granBytes / p.kvtok.toNat

def getSeq (s : State) (pad : Nat) (id : W32) : Option Seq := match getPad s pad with | some d => d.seqs.find? fun q => q.id == id | none => none

def putSeq (pad : Nat) (q : Seq) (s : State) : State := modPad pad (fun d => { d with seqs := d.seqs.map fun x => if x.id == q.id then q else x }) s

def dropSeq (pad : Nat) (id : W32) (s : State) : State := modPad pad (fun d => { d with seqs := d.seqs.filter fun x => x.id != id }) s

/-- The free granules from one on, up to n of them: where each run starts and how long it is. One run where one is free. -/
def freeRuns1 (fuel n : Nat) (barn half : Bool) (ctx : BitVec 15) (conf : Bool) (s : State) : List GranRun :=
  match fuel with
  | 0 => []
  | k + 1 =>
    if n = 0 then []
    else match freeRun s barn half n with
      | some g => [⟨barn, half, g, n, ctx, 0, conf⟩]
      | none => match freeRun s barn half (n / 2 + 1), freeRun s barn half 1 with
        | some g, _ => if n = 1 then [] else
            let r : GranRun := ⟨barn, half, g, n / 2 + 1, ctx, 0, conf⟩
            r :: freeRuns1 k (n - (n / 2 + 1)) barn half ctx conf (addRun r s)
        | none, some g =>
            let r : GranRun := ⟨barn, half, g, 1, ctx, 0, conf⟩
            r :: freeRuns1 k (n - 1) barn half ctx conf (addRun r s)
        | none, none => []

/-- Runs for n granules of the paddock's budget, or none where the budget or the pool has them not. -/
def takeGrans (pad tag n : Nat) (barn half : Bool) (s : State) : Option (List GranRun) :=
  if budgetLeft s pad barn half < n then none
  else
    let rs := freeRuns1 n n barn half (ctxOf pad tag) (isConf s pad) s
    if rs.foldl (fun a r => a + r.len) 0 = n then some rs else none

/-- The n highest indices from 4,093 downward that are free in a tag. -/
def freeIndices (s : State) (tag n : Nat) : List Nat :=
  (((List.range 4094).reverse).filter fun i => (findExt s tag i).isNone).take n

/-- The extents of some runs, one above the other from granule base of a slot's range (R408); their HINT is NORMAL (DESIGN CHOICE, log 28). -/
def stackRuns (slot : Nat) (base : Nat) (rs : List (GranRun × Nat)) : List Extent :=
  match rs with
  | [] => []
  | (r, i) :: t =>
    { index := i, barn := false, half := r.half, shared := false, backed := false, conf := r.conf, hint := 2, migr := false, bkidx := 0,
      vbase := 2 ^ 46 + slot * 2 ^ 36 + base * granBytes, len := r.len, pbase := r.first, hbase := 0, raddr := 0, owner := r.ctx, share := none,
      mixer := true, spill := false } :: stackRuns slot (base + r.len) t

/-- map_runs of R410: n granules, rounded up to a multiple of KVGROW, placed above the slot's memory; none where they are not to be had, or cannot be zeroed now
(R314, R324). -/
def mapRuns (pad : Nat) (q : Seq) (n : Nat) (s : State) : Option (State × Seq) :=
  match getPad s pad with
  | none => none
  | some d =>
    let grow := d.p.kvgrow.toNat
    let m := ceilDiv n grow * grow
    let tag := d.p.kvtag.toNat
    match takeGrans pad tag m false q.half s with
    | none => none
    | some rs =>
      let ids := freeIndices s tag rs.length
      if ids.length < rs.length || 32768 < runGrans q + m || runWaits s rs then none
      else
        let exts := stackRuns (q.slot.getD 0) (runGrans q) (rs.zip ids)
        let s := rs.foldl (fun t r => placeRun r (kvKept s pad r.half) t) s
        some (setTable tag ((getSpace s tag).table ++ exts) s, { q with runs := q.runs ++ exts })

/-- Granules for some tokens. -/
def tokenGrans (p : PadParams) (tokens : Nat) : Nat := ceilDiv (tokens * p.kvtok.toNat) granBytes

/-! ## The formation of a step (R410, R412) -/

/-- A sequence leaves: its memory is unmapped and its slot free, and its job is completed (R403, R410). -/
def leaveSeq (pad : Nat) (q : Seq) (s : State) : State :=
  let s := dropSeq pad q.id (freeServing pad [q] s)
  if q.counted then s else countCompleted pad s

/-- The SEQ.LEAVE commands of a paddock, in acceptance order, then those that a resume applied again and the sequences that have reached MAXTOK. -/
def leavesDue (pad : Nat) (s : State) : State :=
  let s := (s.ym.cmds.filter fun c => c.hdr.paddock.toNat == pad && c.began).foldl (fun t c =>
    match c.body with
    | .seqLeave id => match getSeq t pad id with
      | none => writeStatus c.seq done [0] t
      | some q => if q.uncommitted.isSome then t else writeStatus c.seq done [1] (leaveSeq pad q t)
    | _ => t) s
  match getPad s pad with
  | none => s
  | some d => (d.seqs.filter fun q => q.uncommitted.isNone && (q.leave || (q.state == .decode && q.pos == q.join.maxtok.toNat))).foldl
      (fun t q => leaveSeq pad q t) s

/-- The half with more free Stack budget, east on a tie (R408). -/
def freerHalf (s : State) (pad : Nat) : Bool := decide (budgetLeft s pad false false < budgetLeft s pad false true)

def freeSlotOf (d : Pad) : Option Nat := firstBelow d.p.maxseq.toNat fun i => !(d.seqs.any fun q => q.slot == some i)

/-- A swapped sequence rejoins, or a pending one joins, where a slot and its memory are to be had (R410, R412). -/
def tryJoin (pad : Nat) (id : W32) (s : State) : State :=
  match getPad s pad, getSeq s pad id with
  | some d, some q => match q.state with
    | .swapped => match mapRuns pad q (swapGrans q + d.p.kvgrow.toNat) s with
      | some (s, q) => putSeq pad { q with state := .copyIn } s
      | none => s
    | .pending => match freeSlotOf d with
      | none => s
      | some i => match mapRuns pad { q with slot := some i, half := freerHalf s pad } (tokenGrans d.p q.join.plen.toNat) s with
        | some (s, q) => putSeq pad { q with state := .prompt } s
        | none => s
    | _ => s
  | _, _ => s

/-- Sequences by the order of their swap. -/
def insertSwap (q : Seq) (l : List Seq) : List Seq :=
  match l with
  | [] => [q]
  | x :: r => if q.order < x.order then q :: x :: r else x :: insertSwap q r

def joinsDue (pad : Nat) (s : State) : State :=
  match getPad s pad with
  | none => s
  | some d =>
    let swapped := (d.seqs.filter fun q => q.state == .swapped).foldl (fun l q => insertSwap q l) []
    let waiting := d.seqs.filter fun q => q.state == .pending
    (swapped ++ waiting).foldl (fun t q => tryJoin pad q.id t) s

/-- A swap-out: Barn runs for the slot's memory, whose copy then runs; none where the Barn budget lacks room (R412). -/
def swapOut (pad : Nat) (q : Seq) (s : State) : State :=
  match getPad s pad with
  | none => s
  | some d => match takeGrans pad d.p.kvtag.toNat (runGrans q) true q.half s with
    | none => s
    | some rs =>
      let cut (t : State) (r : GranRun) : State := { t with mem := { t.mem with tozero := cutZero true r.half r.first r.len t.mem.tozero } }
      let s := rs.foldl (fun t r => placeRun r (fun _ => false) (cut t r)) s
      putSeq pad { q with state := .swapping, swap := rs, order := d.swapClock } (modPad pad (fun d => { d with swapClock := d.swapClock + 1 }) s)

/-- What a formation has so far: the state, the token budget left, and the segments. -/
structure Forming where
  s      : State
  budget : Nat
  segs   : List (List Byte)
  tokens : Nat
  deriving DecidableEq, Repr

/-- A sequence takes part in step k with n tokens. -/
def takePart (pad k : Nat) (q : Seq) (kind n : Nat) (f : Forming) : Forming :=
  { s := putSeq pad { q with uncommitted := some (k, n) } f.s, budget := f.budget - n, segs := f.segs ++ [segBytes q kind n], tokens := f.tokens + n }

def decodeOne (pad k : Nat) (id : W32) (f : Forming) : Forming :=
  match getPad f.s pad, getSeq f.s pad id with
  | some d, some q =>
    if q.state != .decode || q.uncommitted.isSome || f.budget = 0 then f
    else if capacity d.p q < q.pos + 1 then
      match mapRuns pad q d.p.kvgrow.toNat f.s with
      | some (s, q) => takePart pad k q 0 1 { f with s := putSeq pad q s }
      | none => { f with s := swapOut pad q f.s }
    else takePart pad k q 0 1 f
  | _, _ => f

def promptOne (pad k chunk : Nat) (id : W32) (f : Forming) : Forming :=
  match getSeq f.s pad id with
  | some q =>
    if q.state != .prompt || q.uncommitted.isSome || f.budget = 0 then f
    else
      let n := min (min chunk (q.join.plen.toNat - q.pos)) f.budget
      takePart pad k q (if q.pos + n = q.join.plen.toNat then 2 else 1) n f
  | none => f

/-- The mixer forms step k (R410). -/
def formStep (pad k : Nat) (s : State) : State :=
  let s := joinsDue pad (leavesDue pad s)
  match getPad s pad with
  | none => s
  | some d =>
    let budget := if d.p.tokbudget = 0 then 8192 else d.p.tokbudget.toNat
    let chunk := if d.p.chunk = 0 then budget else d.p.chunk.toNat
    let ids := d.seqs.map fun q => q.id
    let f := ids.foldl (fun f i => decodeOne pad k i f) { s := s, budget := budget, segs := [], tokens := 0 }
    let f := ids.foldl (fun f i => promptOne pad k chunk i f) f
    writeRecord pad k (recordHead k f.segs.length f.tokens 0 ++ f.segs.flatten) f.s

/-- Step k of a fixed-batch channel: the oldest queued batch, or a record without segments (R414). -/
def formBatch (pad k : Nat) (s : State) : State :=
  match getPad s pad with
  | none => s
  | some d => match d.batches.find? fun b => b.step.isNone with
    | none => writeRecord pad k (recordHead k 0 0 0) s
    | some b =>
      let r := yardRead pad d.p.taglo.toNat b.p.addr.toNat b.p.len.toNat s
      let bs := leBytes 8 k ++ (r.2.drop 8).take 8 ++ leBytes 4 b.hdrTag.toNat ++ r.2.drop 20
      let s := modPad pad (fun d => { d with batches := match d.batches.span fun x => x.step.isSome with
        | (a, x :: t) => a ++ { x with step := some k } :: t
        | (a, []) => a }) r.1
      writeRecord pad k bs s

/-- The boundary into the release beat of invocation k of the depth-0 stages (R407). -/
def formBeat (p : Pipe) (st : StartRt) (k : Nat) : Int := (st.b0.toNat : Int) + ((k : Int) - st.first) * p.period

/-- Steps whose boundary has come are formed, one after the other (R407). -/
def formDue (lim fuel pad : Nat) (s : State) : State :=
  match fuel with
  | 0 => s
  | f + 1 => match getPad s pad with
    | none => s
    | some d => match d.pipe with
      | none => s
      | some p => match p.start with
        | none => s
        | some st =>
          if d.p.serve == 0 || st.ended || d.drain.isSome || s.pwr.stalled.contains pad || restarting s || (lim : Int) < formBeat p st d.formed then s
          else
            let s := if d.p.serve == 1 then formStep pad d.formed s else formBatch pad d.formed s
            formDue lim f pad (modPad pad (fun d => { d with formed := d.formed + 1 }) s)

/-- How many steps a paddock may have to form at a boundary. -/
def formFuel (lim : Nat) (s : State) (pad : Nat) : Nat :=
  match getPad s pad with
  | some d => match d.pipe with
    | some p => match p.start with
      | some st => if lim < st.b0.toNat then 1 else (lim - st.b0.toNat) / max 1 p.period + st.first + 2 - d.formed
      | none => 0
    | none => 0
  | none => 0

def formSteps (lim pad : Nat) (s : State) : State := formDue lim (formFuel lim s pad) pad s

/-! ## Commits (R407) -/

/-- Step k commits: positions advance, SPOST gains 1, and its batch is completed. -/
def commitStep (pad k : Nat) (s : State) : State :=
  match getPad s pad with
  | none => s
  | some d =>
    let adv (q : Seq) : Seq := match q.uncommitted with
      | some (j, n) => if j = k then
          { q with pos := q.pos + n, uncommitted := none, state := if q.state == .prompt && q.pos + n == q.join.plen.toNat then .decode else q.state }
        else q
      | none => q
    let ended := d.batches.filter fun b => b.step == some k
    let s := modPad pad (fun d => { d with seqs := d.seqs.map adv, batches := d.batches.filter fun b => b.step != some k, steps := k + 1 }) s
    let s := addOpt pad (BitVec.ofNat 32 d.p.spost.toNat) 1 s
    ended.foldl (fun t b => addOpt pad b.p.dpost 1 (if b.counted then t else countCompleted pad t)) s

/-- Steps whose invocation has ended at every stage commit, in order. -/
def commitSteps (pad : Nat) (s : State) : State :=
  match getPad s pad with
  | none => s
  | some d => match d.pipe with
    | none => s
    | some p =>
      if d.p.serve == 0 || p.start.isNone then s
      else
        let ended := p.stages.foldl (fun a x => match a with | none => some x.inv | some m => some (min m x.inv)) (none : Option Nat)
        match ended with
        | none => s
        | some m => (List.range (m - d.steps)).foldl (fun t i => commitStep pad (d.steps + i) t) s

/-! ## Swap copies (R412) -/

/-- Granules of some runs in order. -/
def granList (rs : List (Nat × Nat)) : List Nat := rs.flatMap fun r => (List.range r.2).map (r.1 + ·)

/-- Granules copied between the Stack, whose open lines are closed (R262), and the Barn, poison as poison. -/
def swapCopy (half toBarn : Bool) (pairs : List (Nat × Nat)) (s : State) : State :=
  pairs.foldl (fun s p =>
    if toBarn then
      let s := cleanFrames (keyInGran half p.1) (closeGranule half p.1 s)
      let s := setBarnMem half (mcopy (stackMem s half) (granBytes * p.1) (barnMem s half) (granBytes * p.2) granBytes) s
      copyPoison half false (granBytes * p.1) true (granBytes * p.2) granBytes s
    else
      let s := dirtyRun half p.1 1 (clearGranules false half p.1 1 s)
      let s := setStackMem half (mcopy (barnMem s half) (granBytes * p.2) (stackMem s half) (granBytes * p.1) granBytes) s
      copyPoison half true (granBytes * p.2) false (granBytes * p.1) granBytes s) s

def seqPairs (q : Seq) : List (Nat × Nat) :=
  (granList (q.runs.map fun e => (e.pbase, e.len))).zip (granList (q.swap.map fun r => (r.first, r.len)))

def slotSeq (s : State) (pad slot : Nat) : Option Seq := match getPad s pad with | some d => d.seqs.find? fun q => q.slot == some slot | none => none

/-- SWAP_OUT_DONE: the copy to the Barn has completed; the runs are unmapped and their granules return (R412). -/
def swapOutDone (pad slot : Nat) (s : State) : State :=
  match slotSeq s pad slot with
  | none => s
  | some q =>
    if q.state != .swapping || (seqPairs q).any fun p => refetching s q.half p.1 || granWaits s q.half p.1 then s
    else
      let s := swapCopy q.half true (seqPairs q) s
      let s := freeServing pad [{ q with swap := [] }] s
      putSeq pad { q with state := .swapped, runs := [] } s

/-- SWAP_IN_DONE: the memory is copied back, and the sequence runs from the next step formed (R410, R412). A write into a granule that a mark still has to
copy waits (R476). -/
def swapInDone (pad slot : Nat) (s : State) : State :=
  match slotSeq s pad slot with
  | none => s
  | some q =>
    if q.state != .copyIn || (seqPairs q).any fun p => granWaits s q.half p.1 then s
    else match (seqPairs q).find? fun p => markPending s q.half p.1 with
      | some p => wantGranule q.half p.1 s
      | none =>
        let s := swapCopy q.half false (seqPairs q) s
        let s := q.swap.foldl (fun t r => dropRun r t) s
        putSeq pad { q with state := .decode, swap := [] } s

/-! ## SEQ.JOIN, BATCH.SUBMIT (R411, R413) -/

/-- Sequence and batch commands accepted after a mark are kept with the resume records of its generation (R471). -/
def logServing (pad : Nat) (c : Cmd) (s : State) : State :=
  let add (g : Gen) : Gen := { g with records := g.records.map fun r => if r.pad == pad then { r with log := r.log ++ [(c.hdr, c.body)] } else r }
  { s with snaps := { s.snaps with gens := s.snaps.gens.map add } }

def freshSeq (id : W32) (p : JoinParams) : Seq :=
  { id := id, join := p, state := .pending, slot := none, half := false, pos := 0, uncommitted := none, runs := [], swap := [], order := 0, leave := false,
    counted := false }

def joinOk (s : State) (pad : Nat) (p : JoinParams) : Bool :=
  (match getPad s pad with | some d => d.p.serve == 1 | none => false) && p.plen != 0 && decide (p.plen.toNat < p.maxtok.toNat) && decide (p.prompt.toNat % 4 = 0)

def beginJoin (c : Cmd) (p : JoinParams) (s : State) : State :=
  let pad := c.hdr.paddock.toNat
  if !joinOk s pad p then refuseCmd c.seq s
  else match getPad s pad with
    | none => s
    | some d =>
      if 4096 ≤ (d.seqs.filter fun q => q.state == .pending).length then writeStatus c.seq noResource [] s
      else
        let s := modPad pad (fun d => { d with seqs := d.seqs ++ [freshSeq d.nextSeq p], nextSeq := d.nextSeq + 1 }) s
        writeStatus c.seq accepted (leBytes 4 d.nextSeq.toNat) (logServing pad c (countAccepted pad s))

/-- SEQ.LEAVE waits for the step formation that processes it (R411). -/
def beginLeave (c : Cmd) (s : State) : State :=
  match getPad s c.hdr.paddock.toNat with
  | some d => if d.p.serve == 1 then logServing c.hdr.paddock.toNat c s else refuseCmd c.seq s
  | none => refuseCmd c.seq s

def batchOk (s : State) (pad : Nat) (p : BatchParams) : Bool :=
  match getPad s pad with
  | none => false
  | some d => d.p.serve == 2 && decide (64 ≤ p.len.toNat ∧ p.len.toNat ≤ recordSize d.p ∧ p.addr.toNat % 16 = 0)

def beginBatch (c : Cmd) (p : BatchParams) (s : State) : State :=
  let pad := c.hdr.paddock.toNat
  if !batchOk s pad p then refuseCmd c.seq s
  else match getPad s pad with
    | none => s
    | some d =>
      let r := yardRead pad d.p.taglo.toNat p.addr.toNat 64 s
      let nseg := fldAt r.2 8 2 % 2048
      if p.len.toNat != 64 + 32 * nseg then refuseCmd c.seq r.1
      else if 16 ≤ (d.batches.filter fun b => b.step.isNone).length then writeStatus c.seq noResource [] r.1
      else
        let s := modPad pad (fun d => { d with batches := d.batches ++ [{ hdrTag := c.hdr.tag, p := p, step := none, counted := false }] }) r.1
        writeStatus c.seq accepted [] (logServing pad c (countAccepted pad s))

end Sys2Proof.Machine
end

