-- ==== Sys2Proof/Machine/Paddocks.lean ====
section
/-! DEFINITION. Creating, querying, resetting and destroying paddocks (R370, R377 to R379, R392 to R397, R402, R415 to R417, R480, R533). -/

namespace Sys2Proof.Machine

/-! ## PAD.CREATE (R392 to R396, R402) -/

def postCount (p : PadParams) : Nat := 64 * p.posts.toList.foldl (fun a b => a + b.toNat) 0

def padTags (p : PadParams) : List Nat := (List.range p.ntag.toNat).map (p.taglo.toNat + ·)

def padWins (p : PadParams) : List Nat := (List.range p.nwin.toNat).map (p.winlo.toNat + ·)

def hasTag (p : PadParams) (t : Nat) : Bool := decide (p.taglo.toNat ≤ t ∧ t < p.taglo.toNat + p.ntag.toNat)

def commonsBytes (mask : W32) : Nat := 67108864 * (unitList mask).length

/-- A queue record keeps R201 and its conditions of R393. -/
def queueOk (p : PadParams) (q : QueueRec) : Bool :=
  let n := postCount p
  decide (q.die.toNat ≤ 9) && decide (q.die.toNat < 8 ∨ q.dray.toNat < 8) && decide (q.dray.toNat < 16) && q.queue != 3 &&
  decide (4 ≤ q.log2size.toNat ∧ q.log2size.toNat ≤ 12 ∧ q.rbase.toNat % 64 = 0) && decide (q.kick.toNat < n ∧ q.cpost.toNat < n) && hasTag p q.aspace.toNat &&
  (decide (8 ≤ q.die.toNat) || [0, 1, 2, 3].any fun i => p.qmask.getLsbD (4 * q.die.toNat + i)) &&
  (q.rspace || decide (q.rbase.toNat + 64 * 2 ^ q.log2size.toNat ≤ commonsBytes p.commons))

/-- The serving fields of the SERVE value (R392, R393). -/
def servingOk (p : PadParams) : Bool :=
  let mixer := p.tokbudget == 0 && p.chunk == 0 && p.kvtag == 0 && p.maxseq == 0 && p.kvtok == 0 && p.kvgrow == 0
  let record := p.nbuf == 0 && p.boff == 0 && p.spost == 0
  let recordOk := decide (1 ≤ p.nbuf.toNat ∧ p.nbuf.toNat ≤ 64 ∧ p.boff.toNat % 1024 = 0 ∧ p.spost.toNat < postCount p ∧
    p.boff.toNat + recordArea p ≤ commonsBytes p.commons)
  if p.serve = 0 then mixer && record
  else if p.serve = 1 then recordOk && hasTag p p.kvtag.toNat && decide (1 ≤ p.maxseq.toNat ∧ p.maxseq.toNat ≤ 1023 ∧ 1 ≤ p.kvtok.toNat ∧
    p.kvtok.toNat ≤ 2 ^ 24 ∧ 1 ≤ p.kvgrow.toNat ∧ p.kvgrow.toNat ≤ 1024)
  else if p.serve = 2 then mixer && recordOk
  else false

/-- A PAD.CREATE is not refused (R392, R393). -/
def createOk (p : PadParams) : Bool :=
  servingOk p && decide (12 ≤ p.cring.toNat ∧ p.cring.toNat ≤ 20 ∧ 6 ≤ p.sring.toNat ∧ p.sring.toNat ≤ 16) && p.qmask != 0 && (p.cache &&& p.commons) == 0 &&
  decide (1 ≤ p.ntag.toNat ∧ p.taglo.toNat + p.ntag.toNat ≤ 1024 ∧ p.nwin.toNat ≤ 256 ∧ p.winlo.toNat + p.nwin.toNat ≤ 256) &&
  decide (p.spille.toNat + p.spillw.toNat ≤ 256 ∧ p.spille.toNat ≤ p.stacke.toNat ∧ p.spillw.toNat ≤ p.stackw.toNat) &&
  (p.buckets.toList.all fun b => b.depth != 0 && !(p.lc && b.rate == 0)) && decide (p.queues.length ≤ 32) && (p.queues.all fun q => queueOk p q) &&
  decide (p.queues.map QueueRec.key).Nodup

/-- The budgets of PAD.CREATE: STACKE, STACKW, BARNE, BARNW. -/
def paramBudgets (p : PadParams) : Vector Nat 4 := #v[p.stacke.toNat, p.stackw.toNat, p.barne.toNat, p.barnw.toNat]

/-- Free device posts of a die, ascending (R394, R395). -/
def freePosts (s : State) (die : Nat) : List Nat :=
  ((List.range 4096).map (4096 * die + ·)).filter fun d => !(s.pads.any fun e => e.2.posts.contains d)

/-- The device posts that a paddock's posts map to (R395). -/
def givenPosts (s : State) (p : PadParams) : List Nat :=
  p.posts.toList.zipIdx.flatMap fun b => if b.1 = 0 then [] else (freePosts s b.2).take (64 * b.1.toNat)

/-- The lowest free virtual function number of a port (R377; DESIGN CHOICE, log 29). -/
def freeVf (s : State) (port : Bool) : Option Nat :=
  (firstBelow 31 fun i => !(s.pads.any fun e => e.2.p.port == port && e.2.vf == i + 1)).map (· + 1)

/-- The rates of latency-critical paddocks by bucket (R402). -/
def lcRate (s : State) (p : PadParams) (i : Fin 4) : Nat :=
  (s.pads.filter fun e => e.2.p.lc).foldl (fun a e => a + e.2.p.buckets[i].rate.toNat) (if p.lc then p.buckets[i].rate.toNat else 0)

/-- Some unit of a mask lies in a half that is out of service. -/
def maskLost (s : State) (mask : W32) : Bool := (bitList 32 mask.toNat).any fun i => !halfIn s (i / 16)

/-- The pool can give what a PAD.CREATE asks for (R394, R402). -/
def poolGives (s : State) (p : PadParams) : Bool :=
  let others (f : Pad → W32) (m : W32) : Bool := s.pads.any fun e => (f e.2 &&& m) != 0
  let units := p.cache ||| p.commons
  !others (fun d => d.quads) p.qmask && !maskLost s p.qmask && !others (fun d => d.cache ||| d.commons) units && !maskLost s units &&
  ((padTags p).all fun t => !(getSpace s t).valid) && ((padWins p).all fun w => !(getWin s w).given) &&
  (p.queues.all fun q => (getQueue s (QueueRec.key q)).isNone && halfIn s (if q.die.toNat < 8 then q.die.toNat / 4 else q.die.toNat - 8)) &&
  (p.posts.toList.zipIdx.all fun b => b.1 = 0 || (halfIn s (b.2 / 4) && decide (64 * b.1.toNat ≤ (freePosts s b.2).length))) &&
  (freeVf s p.port).isSome && halfIn s (b2n p.port) &&
  !(p.serve == 2 && decide (4 ≤ (s.pads.filter fun e => e.2.p.serve == 2).length)) &&
  ([(false, false), (false, true), (true, false), (true, true)].all fun x =>
    let want := (paramBudgets p)[budgetIdx x.1 x.2]
    decide (want = 0) || (halfIn s (b2n x.2) &&
      decide (want + s.pads.foldl (fun a e => a + e.2.budgets[budgetIdx x.1 x.2]) 0 ≤ poolSize s x.1 x.2))) &&
  decide (lcRate s p 0 + lcRate s p 1 ≤ 41900 ∧ lcRate s p 2 ≤ 52400 ∧ lcRate s p 3 ≤ 3220)

/-- A paddock as PAD.CREATE makes it. -/
def freshPad (p : PadParams) (vf : Nat) (posts : List Nat) : Pad :=
  { p := p, vf := vf, posts := posts, quads := p.qmask, cache := p.cache, commons := p.commons, budgets := paramBudgets p,
    buckets := p.buckets.map fun b => 1024 * b.depth.toNat, conf := none, accepted := 0, completed := 0, lost := 0, share := 0, drain := none, launches := [],
    nextLaunch := 0, pipe := none, seqs := [], nextSeq := 1, swapClock := 0, batches := [], steps := 0, formed := 0, carryPipe := false, carrySeqs := [],
    carryBatches := 0, spillUsed := [], kvFreed := [], resuming := false }

/-- One spill extent (R396). -/
def spillExtent (pad : Nat) (p : PadParams) (half : Bool) (pbase : Nat) : Extent :=
  { index := if half then 4095 else 4094, barn := false, half := half, shared := false, backed := false, conf := false, hint := 3, migr := false, bkidx := 0,
    vbase := if half then 0x7FFFC0000000 else 0x7FFF80000000, len := if half then p.spillw.toNat else p.spille.toNat, pbase := pbase, hbase := 0, raddr := 0,
    owner := ctxOf pad p.taglo.toNat, share := none, mixer := false, spill := true }

def mapSpill (pad : Nat) (p : PadParams) (half : Bool) (s : State) : State :=
  let n := if half then p.spillw.toNat else p.spille.toNat
  if n = 0 then s
  else match freeRun s false half n with
    | none => s
    | some g =>
      let e := spillExtent pad p half g
      setTable p.taglo.toNat ((getSpace s p.taglo.toNat).table ++ [e]) (placeRun e.run (fun _ => false) s)

/-- Tags, windows and queues given to a paddock. -/
def givePad (pad : Nat) (p : PadParams) (s : State) : State :=
  let s := (padTags p).foldl (fun t k => setSpace k { AddrSpace.reset with valid := true, pad := pad, epoch := (getSpace t k).epoch } t) s
  let s := (padWins p).foldl (fun t w => setWin w { getWin t w with given := true, pad := pad } t) s
  let s := p.queues.foldl (fun t q => setQueue (QueueRec.key q) { pad := pad, cfg := q, next := 0, skip := none } t) s
  setRing (2 + pad) { Ring.reset with csize := p.cring, ssize := p.sring } s

/-- The granules of a spill area cannot be placed yet: they are still being zeroed, or their half's Stack is held (R280, R314, R324). -/
def spillWaits (s : State) (pad : Nat) (p : PadParams) (half : Bool) : Bool :=
  let n := if half then p.spillw.toNat else p.spille.toNat
  n != 0 && (match freeRun s false half n with
    | none => false
    | some g => runZeroing s false half g n || runWaits s [(spillExtent pad p half g).run])

/-- PAD.CREATE, once its checks have passed: NO_RESOURCE, or the paddock (R377, R394 to R396). A spill area that finds no run of granules is such a lack;
one that must wait for its granules makes the command wait, and it is tried again (retryCreates). A number taken meanwhile is refused. -/
def createPad (seq pad : Nat) (p : PadParams) (s : State) : State :=
  if (getPad s pad).isSome then refuseCmd seq s
  else match freeVf s p.port with
  | none => writeStatus seq noResource [] s
  | some vf =>
    let room (half : Bool) (n : Nat) : Bool := n = 0 || (freeRun s false half n).isSome
    if !poolGives s p || !room false p.spille.toNat || !room true p.spillw.toNat then writeStatus seq noResource [] s
    else if spillWaits s pad p false || spillWaits s pad p true then s
    else
      let posts := givenPosts s p
      let s := mapSpill pad p true (mapSpill pad p false (givePad pad p (setPad pad (freshPad p vf posts) (zeroPosts posts s))))
      writeStatus seq done ([BitVec.ofNat 8 (b2n p.port), BitVec.ofNat 8 vf] ++ leBytes 2 (postCount p)) s

/-- PAD.CREATE commands that wait for the granules of a spill area are tried again. -/
def retryCreates (s : State) : State :=
  (s.ym.cmds.filter fun c => c.began).foldl (fun t c => match c.body with
    | .padCreate p => createPad c.seq c.hdr.paddock.toNat p t
    | _ => t) s

/-! ## PAD.QUERY and DEV.INFO (R370, R379) -/

/-- STATE of PAD.QUERY. -/
def padState (d : Pad) : Nat :=
  if d.drain.isSome || d.resuming then 3 else if d.pipe.isSome then 2 else if d.launches.isEmpty then 0 else 1

def padIdle (s : State) (pad : Nat) : Bool := match getPad s pad with | some d => padState d == 0 | none => false

def queryResult (d : Pad) : List Byte :=
  leBytes 4 d.accepted.toNat ++ leBytes 4 d.completed.toNat ++ leBytes 4 d.lost.toNat ++
  [BitVec.ofNat 8 (padState d), BitVec.ofNat 8 (b2n d.conf.isSome + 2 * b2n d.p.lc)]

/-- Logical cores in service of some quadrants. -/
def coresIn (s : State) (quads : Nat → Bool) : Nat :=
  ((List.range 1024).filter fun n => quads (coreQuad n) && halfIn s (n / 512) && !(getCore s n).out).length

/-- Free granules of a space over the halves in service. -/
def poolFree (s : State) (barn : Bool) : Nat :=
  (if halfIn s 0 then freeGranules s barn false else 0) + (if halfIn s 1 then freeGranules s barn true else 0)

def infoResult (s : State) (ring : Nat) : List Byte :=
  let head (cores npad stack barn : Nat) : List Byte :=
    leBytes 4 s.sec.version.toNat ++ leBytes 2 cores ++ [BitVec.ofNat 8 s.snaps.halves.toNat, BitVec.ofNat 8 npad] ++ leBytes 4 stack ++ leBytes 4 barn
  if ring < 2 then head (coresIn s fun _ => true) s.pads.length (poolFree s false) (poolFree s true)
  else
    let pad := ring - 2
    match getPad s pad with
    | none => []
    | some d => head (coresIn s fun q => d.quads.getLsbD q) 1 (budgetLeft s pad false false + budgetLeft s pad false true)
        (budgetLeft s pad true false + budgetLeft s pad true true)

/-! ## The course of a reset or destroy (R415, R416) -/

def modDrain (pad : Nat) (f : Drain → Drain) (s : State) : State := modPad pad (fun d => { d with drain := d.drain.map f }) s

/-- Adds on their way that go: a window's operation is over. -/
def dropAdds (p : AddReq → Bool) (s : State) : State :=
  let gone := s.loft.adds.filter p
  let s := { s with loft := { s.loft with adds := s.loft.adds.filter fun r => !p r } }
  gone.foldl (fun t r => match r.src with
    | .window w _ _ g => windowLess w g t
    | .access _ => t) s

/-- A held request that the paddock's course waits for or discards: an aperture request through one of its tags, or bytes that land for it. -/
def heldOf (s : State) (pad : Nat) (r : HeldReq) : Bool :=
  match r.src with
  | .aperture _ _ _ => (getPad s pad).any fun d => r.began.any fun x => hasTag d.p x.1
  | .remote _ t _ => let w := getWin s t.win.toNat; w.given && w.pad == pad
  | .landing op _ _ => (findOp s op).any fun o => o.pad == pad

/-- A SQUASH discards the paddock's held requests: writes are dropped and reads deliver nothing, an aperture read zeros. -/
def squashHeld (pad : Nat) (s : State) : State :=
  (s.xlt.held.filter fun r => heldOf s pad r).foldl (fun t r => match r.src with
    | .aperture f _ (.read len) => dropHeld r.id (answerHeld f r.id (List.replicate len 0) t)
    | _ => dropHeld r.id t) s

/-- No transfer of the paddock that began is unfinished (step 4 of R415). -/
def padQuiet (s : State) (pad : Nat) : Bool :=
  !(s.xlt.held.any fun r => heldOf s pad r) &&
  !(s.accs.any fun a => a.pad == pad) && !(s.copies.any fun c => c.pad == pad) && !(s.drays.xfers.any fun x => x.pad == pad && x.started) &&
  !(s.links.ops.any fun o => o.pad == pad) && !(s.loft.adds.any fun r => r.pad == pad) &&
  !(s.xlt.wins.any fun w => w.2.given && w.2.pad == pad && (w.2.inflight != 0 || !w.2.old.isEmpty))

/-- The commands that hold step 2 of a DRAIN: also those in flight that wait for a fence or a beat (DEDUCED, log 52). -/
def holdsDrain (pad : Nat) (c : Cmd) : Bool :=
  c.hdr.paddock.toNat == pad && (match c.body with
    | .jobLaunch _ => true
    | .pipeMove _ => true
    | .copy _ => true
    | .postWait _ _ _ => true
    | _ => false)

/-- The commands of a paddock that a SQUASH cuts off (R367): all in flight but those whose course it is. -/
def squashed (pad : Nat) (c : Cmd) : Bool :=
  c.hdr.paddock.toNat == pad && (match c.body with | .padReset _ => !c.began | .padDestroy _ => !c.began | _ => true)

/-- Everything of the paddock that runs on the cores ends; under SQUASH its accesses and copies go with it (step 3 of R415). -/
def endCompute (pad : Nat) (squash : Bool) (s : State) : State :=
  if squash then stopCompute pad s
  else
    let cs := coresOf s pad
    dropMesh pad (dropWaits (fun w => w.ofGroup cs) (dropAccesses (fun a => a.pad == pad && a.space == 0) (fun _ => false) (endBlocks (fun b => b.pad == pad) s)))

/-- A pipeline without end is completed by a DRAIN (R403). -/
def completeEndless (pad : Nat) (s : State) : State :=
  match getPipe s pad with
  | none => s
  | some p => match p.start with
    | none => s
    | some st =>
      if st.accepted && !st.ended && st.count == 0 then countCompleted pad (modPipe pad (fun p => { p with start := some { st with ended := true } }) s) else s

def resetWaits (pad : Nat) (s : State) : State :=
  { s with posts := { s.posts with waits := s.posts.waits.filter fun w => match w.who with
      | .cmd seq => (findCmd s seq).isSome
      | _ => match w.post with
        | some d => !((getPad s pad).any fun p => p.posts.contains d)
        | none => true } }

/-- Step 1. -/
def drainStep1 (pad : Nat) (squash : Bool) (s : State) : State :=
  let s := if squash then s else (s.ym.cmds.filter fun c => c.hdr.paddock.toNat == pad && c.began).foldl (fun t c =>
    match c.body with
    | .seqLeave id => match getSeq t pad id with
      | none => writeStatus c.seq done [0] t
      | some q => if q.uncommitted.isSome then t else writeStatus c.seq done [1] (leaveSeq pad q t)
    | _ => t) s
  match getPad s pad with
  | none => s
  | some d => (padWins d.p).foldl (fun t w => if (getWin t w).isOpen then closeWindow w none t else t) s

/-- Step 2 is over, or has been made by a SQUASH. -/
def drainStep2 (pad : Nat) (squash : Bool) (s : State) : Option State :=
  if squash then
    some (resetWaits pad (loseLaunches pad (loseCmds (squashed pad) (loseUnbegun (squashed pad) s))))
  else if (s.ym.cmds.any (holdsDrain pad)) || (getPad s pad).any (fun d => !d.launches.isEmpty) then none
  else some s

/-- Step 3. A SEQ.LEAVE of a sequence that had a step uncommitted at step 1 is processed now. -/
def drainStep3 (pad : Nat) (squash : Bool) (s : State) : State :=
  let s := endCompute pad squash s
  let s := if squash then s else
    let s := modPad pad (fun d => { d with seqs := d.seqs.map fun q => { q with uncommitted := none } }) s
    drainStep1 pad false (completeEndless pad s)
  loseCarry pad (dropServing pad false (unloadPipe pad false s))

/-- Step 4 is over; a SQUASH discards what has not been performed. -/
def drainStep4 (pad : Nat) (squash : Bool) (s : State) : Option State :=
  let s := if squash then
      let s := dropAdds (fun r => r.pad == pad) (dropXfers (fun x => x.pad == pad) (squashHeld pad s))
      let s := { s with accs := s.accs.filter (fun a => a.pad != pad), copies := s.copies.filter (fun c => c.pad != pad),
                        links := { s.links with ops := s.links.ops.filter fun o => o.pad != pad } }
      let s := (List.range 16).foldl (fun t i => settleTarget i t) s
      (s.xlt.wins.filter fun w => w.2.given && w.2.pad == pad).foldl (fun t w =>
        let x := getWin t w.1
        let t := x.old.foldl (fun u o => statusOpt o.2.2 done [] u) t
        statusOpt x.closing done [] (setWin w.1 { x with inflight := 0, closing := none, old := [] } t)) s
    else s
  if padQuiet s pad then some s else none

/-- Step 5. -/
def drainStep5 (pad : Nat) (s : State) : State :=
  match getPad s pad with
  | none => s
  | some d => emptySends pad (emptyQueues pad (resetWaits pad (zeroPosts d.posts (discardOpen pad s))))

/-! ## What a destroy gives back (R417, R480, R533) -/

/-- Share entries elsewhere that reach the paddock's extents go. -/
def unsharePad (p : PadParams) (s : State) : State :=
  (padTags p).foldl (fun t k => (getSpace t k).table.foldl (fun t e => if e.share.isNone && e.shared then unshareAll (k, e.index) t else t) t) s

/-- The granules of the paddock. -/
def padRuns (s : State) (pad : Nat) : List GranRun := s.xlt.granules.filter fun r => r.ctx.toNat / 1024 == pad

/-- Other tags have no use of the paddock's granules any more. -/
def padUnshared (s : State) (pad : Nat) : Bool :=
  !shareInUse { s with xlt := { s.xlt with spaces := s.xlt.spaces.filter fun t => t.2.pad != pad } }
    1024 { cmd := none, freed := padRuns s pad, unshare := [], indices := [], mapped := none }

/-- A change of one of its tags that is still at step 4 ends, and those that wait are made (R291). -/
def endChanges (p : PadParams) (s : State) : State :=
  (padTags p).foldl (fun t k => (List.range ((getSpace t k).waiting.length + 2)).foldl (fun t _ => tagDrainOp k t) t) s

/-- The snapshot copies of a confidential paddock's granules go (R480). -/
def zeroGens (pad : Nat) (s : State) : State :=
  [(0, 0), (0, 1), (1, 0), (1, 1)].foldl (fun s gh =>
    let half := decide (gh.2 = 1)
    let gen : Nat := gh.1
    let grans := ((s.snaps.gens[if gen = 0 then (0 : Fin 2) else 1]).grans.filter fun m => m.half == half && m.ctx.toNat / 1024 == pad)
    setBarnMem half (grans.foldl (fun m g => mzero m (genAddr gen (granBytes * g.gran)) granBytes) (barnMem s half)) s) s

/-- Frames of a paddock's cache units leave: written back, but discarded where the extent is confidential (R533). -/
def emptyUnits (pad : Nat) (units : W32) (s : State) : State :=
  let mine := s.loft.frames.filter fun e => units.getLsbD e.2.unit
  mine.foldl (fun t e =>
    let conf := match granRun t false (keyHalf e.1) (keyLine e.1 / 2048) with | some r => r.conf && r.ctx.toNat / 1024 == pad | none => false
    if conf then dropFrame e.1 t else evictFrame e.1 t) s

/-- Commons of some units at zero. -/
def zeroCommons (units : W32) (s : State) : State :=
  let m := (unitList units).foldl (fun m u => mzero m (67108864 * u) 67108864) s.mem.commons
  let gone (b : Nat) : Bool := units.getLsbD (b / 67108864)
  { s with mem := { s.mem with commons := m, cpoison := s.mem.cpoison.filter fun u => !gone (64 * u) },
           loft := { s.loft with cdir := s.loft.cdir.filter fun e => !gone (1024 * e.1) },
           cores := s.cores.map fun (e : Nat × Core) => (e.1, { e.2 with l1 := e.2.l1.filter fun x => !(x.commons && gone (256 * x.sector)) }) }

/-- The extents and share entries of the paddock's tags go, and its granules with them. -/
def unmapPad (pad : Nat) (p : PadParams) (s : State) : State :=
  let s := (padTags p).foldl (fun t k =>
    let shares := (getSpace t k).table.filter fun e => e.share.isSome
    let indices := ((getSpace t k).table.filter fun e => e.migr).map fun e => e.index
    let sp := getSpace t k
    let t := dropMig k { cmd := none, freed := padRuns s pad, unshare := [], indices := indices, mapped := none } (setSpace k { sp with table := [], epoch := if sp.table.isEmpty then sp.epoch else sp.epoch + 1 } t)
    shares.foldl (fun t e => dropShare pad e.run t) t) s
  freeRuns (padRuns s pad) s

/-- The packets of the paddock's ring that have been taken and have no entry yet get theirs before the ring goes (R352): work that was cut off as LOST, a
command that had not begun as refused, as one whose paddock has gone (DESIGN CHOICE, log 32). -/
def endRing (ring : Nat) (s : State) : State :=
  (s.ym.cmds.filter fun c => c.hdr.ring.val == ring).foldl (fun t c => if c.began then writeStatus c.seq lostCode [] t else refuseCmd c.seq t) s

/-- The function of the paddock leaves its port: its ring, its sessions, its aperture selection (R417; log 30). -/
def dropVf (pad : Nat) (d : Pad) (s : State) : State :=
  let port : Fin 2 := if d.p.port then 1 else 0
  let mine (e : Endpoint) : Bool := match e with | .func f => f.port == port && f.vf.val == d.vf | .sideband => false
  { s with rings := tdel s.rings (2 + pad), ym := { s.ym with cmds := s.ym.cmds.filter fun c => c.hdr.ring.val != 2 + pad },
           sec := { s.sec with sessions := s.sec.sessions.filter (fun x => !mine x.ep), conns := s.sec.conns.filter fun x => !mine x.ep },
           xlt := { s.xlt with apert := s.xlt.apert.filter fun e => e.1 != apertKey port d.vf && !hasTag d.p e.2 } }

/-- The resources return to the pool. -/
def returnPad (pad : Nat) (d : Pad) (s : State) : State :=
  let s := (padTags d.p).foldl (fun t k => setSpace k { AddrSpace.reset with epoch := (getSpace t k).epoch } t) s
  let s := (padWins d.p).foldl (fun t w => setWin w { getWin t w with given := false, isOpen := false, pad := 0, closing := none, inflight := 0, old := [] } t) s
  let gens := s.snaps.gens.map fun g => { g with records := g.records.filter fun r => r.pad != pad }
  { s with drays := { s.drays with queues := s.drays.queues.filter fun q => q.2.pad != pad }, pads := tdel s.pads pad,
           pwr := { s.pwr with draw := tdel s.pwr.draw pad, portion := tdel s.pwr.portion pad, stalls := tdel s.pwr.stalls pad,
                               stalled := s.pwr.stalled.filter (· != pad), history := s.pwr.history.filter fun h => h.pad != pad },
           snaps := { s.snaps with gens := gens, restart := s.snaps.restart.map fun r => { r with toResume := r.toResume.filter (· != pad) } } }

/-- R417 from its first step to its last. -/
def destroyPad (pad : Nat) (s : State) : State :=
  match getPad s pad with
  | none => s
  | some d =>
    let s := endChanges d.p s
    let s := emptyUnits pad d.cache s
    let s := if d.conf.isSome then zeroGens pad s else s
    returnPad pad d (dropVf pad d (endRing (2 + pad) (zeroCommons d.commons (unmapPad pad d.p s))))

/-- The course goes on as far as it can (R415). -/
def runDrain (fuel pad : Nat) (s : State) : State :=
  match fuel with
  | 0 => s
  | k + 1 => match getPad s pad with
    | none => s
    | some d => match d.drain with
      | none => s
      | some r =>
        let go (n : Nat) (t : State) : State := runDrain k pad (modDrain pad (fun r => { r with step := n }) t)
        match r.step with
        | 1 => go 2 (drainStep1 pad r.squash s)
        | 2 => match drainStep2 pad r.squash s with | some t => go 3 t | none => s
        | 3 => go 4 (drainStep3 pad r.squash s)
        | 4 => match drainStep4 pad r.squash s with | some t => go 5 t | none => s
        | 5 => go 6 (drainStep5 pad s)
        | 6 =>
          let s := r.resets.foldl (fun t c => writeStatus c done [] t) s
          if r.destroys.isEmpty then modPad pad (fun d => { d with drain := none }) s
          else go 7 (unsharePad d.p (modDrain pad (fun r => { r with resets := [] }) s))
        | _ => if padUnshared s pad then r.destroys.foldl (fun t c => writeStatus c done [] t) (destroyPad pad s) else s

/-- PAD_DRAIN_STEP_DONE: a step that waited is over. -/
def drainStepDone (pad : Nat) (s : State) : State := runDrain 8 pad s

/-- PAD.RESET and PAD.DESTROY begin, or join the course that runs (R378, R415, R416). -/
def beginDrain (c : Cmd) (destroy squash : Bool) (s : State) : State :=
  let pad := c.hdr.paddock.toNat
  match getPad s pad with
  | none => refuseCmd c.seq s
  | some d =>
    let add (r : Drain) : Drain := if destroy then { r with destroys := r.destroys ++ [c.seq] } else { r with resets := r.resets ++ [c.seq] }
    match d.drain with
    | none =>
      let s := modPad pad (fun d => { d with drain := some (add { squash := squash, resets := [], destroys := [], step := 1 }) }) s
      let s := { s with snaps := { s.snaps with restart := s.snaps.restart.map fun r => { r with toResume := r.toResume.filter (· != pad) } } }
      runDrain 8 pad (modPad pad (fun d => { d with resuming := false }) s)
    | some r =>
      if !destroy && !r.destroys.isEmpty then refuseCmd c.seq s
      else runDrain 8 pad (modDrain pad (fun r => add { r with squash := r.squash || squash }) s)

/-- A paddock removed at once, as a SQUASH and R417 remove it, without an entry of its own (R484). -/
def removePad (pad : Nat) (s : State) : State :=
  match getPad s pad with
  | none => s
  | some d =>
    let cmds := match d.drain with | some r => r.resets ++ r.destroys | none => []
    let s := modPad pad (fun d => { d with drain := some { squash := true, resets := [], destroys := [], step := 1 } }) s
    let s := runDrain 8 pad s
    let s := cmds.foldl (fun t c => writeStatus c lostCode [] t) (unsharePad d.p s)
    destroyPad pad s

end Sys2Proof.Machine
end

