-- ==== Sys2Proof/Machine/Power.lean ====
section
/-! DEFINITION. Power states, the cap, clock steps, thermal actions, droop, margins (R493 to R511). -/

namespace Sys2Proof.Machine

/-! ## Entering and leaving states (R493 to R498) -/

def setPwr (f : Power → Power) (s : State) : State := { s with pwr := f s.pwr }

/-- A PWR.STATE that waits for this state has reached it (R494). -/
def reachedState (x : PwrState) (s : State) : State :=
  match s.pwr.target with
  | some (y, seq) => if x == y then writeStatus seq done [] (setPwr (fun p => { p with target := none }) s) else s
  | none => s

/-- What WALK loses: the caches of every core. The register files hold nothing, since no block is resident. -/
def loseCaches (s : State) : State :=
  let fs := s.loft.frames.map fun e => (e.1, { e.2 with dir := Dir.pointers [] })
  { s with cores := s.cores.map fun c => (c.1, { c.2 with l1 := [], constant := [], desc := [] }), loft := { s.loft with cdir := [], frames := fs } }

/-- What STAND loses beside: the Loft, written back first, its open lines, commons, posts. -/
def loseLoft (s : State) : State :=
  let s := restartLoft (dropAdds (fun _ => true) (loseCaches s))
  { s with posts := { s.posts with cnt := [], upds := [] } }

/-- The part of a granule run outside the Barn keep region (R497): granules from first on. -/
def outsideKeep (keep : Nat) (r : GranRun) : List ZeroRun :=
  let top := 786496 + 256 * keep
  if !r.barn then [⟨false, r.half, r.first, r.len⟩]
  else if r.first + r.len ≤ top then []
  else if top ≤ r.first then [⟨true, r.half, r.first, r.len⟩]
  else [⟨true, r.half, top, r.first + r.len - top⟩]

/-- What STABLED loses beside: Stack contents, Barn contents outside the keep region, both generations (R497). Mapped granules are to be zeroed before
any access reaches them (R498). -/
def loseMemory (keep : Nat) (s : State) : State :=
  let lost (m : Mem) : Mem := m.filter fun c => granBytes * 786496 ≤ c.1 && decide (c.1 < granBytes * (786496 + 256 * keep))
  let gens := s.snaps.gens.map fun g => { g with complete := false, current := false }
  let s := (s.xlt.granules.filter fun r => !r.barn).foldl (fun t r => dirtyRun r.half r.first r.len t) s
  { s with mem := { s.mem with stack := Vector.replicate 2 [], barn := s.mem.barn.map lost,
                               poison := s.mem.poison.filter fun x => x.2.1 && decide (786496 ≤ x.2.2 / 32768 ∧ x.2.2 / 32768 < 786496 + 256 * keep),
                               tozero := s.mem.tozero ++ s.xlt.granules.flatMap (outsideKeep keep) },
           snaps := { s.snaps with gens := gens } }

/-- A link that is up goes down in STABLED and trains again on the exit with no entry for either (R493). -/
def quietPorts (s : State) : State :=
  (List.range 36).foldl (fun t i => modPort (Fin.ofNat 36 i) (fun x => { x with quiet := x.quiet || x.state == .up }) t) s

/-- Every port of the device goes down without an entry (R493). -/
def allPortsLose (s : State) : State :=
  (List.range 36).foldl (fun t i =>
    let p : Fin 36 := Fin.ofNat 36 i
    let t := portLoses p (dropTargets p t)
    modPort p (fun x => { x with state := if !x.present then .noCable else if x.enabled && halfIn t (portHalf p) then .training else .disabled, width := 0, retried := false }) t) s

/-- Both host ports go down. -/
def hostsDown (s : State) : State := { s with hosts := s.hosts.map fun h => { h with up := false } }

/-- The device enters WALK, STAND or STABLED (R493). In STABLED the host ports, the links and the beat unit are off (R496). -/
def enterLow (x : PwrState) (keep : BitVec 9) (s : State) : State :=
  let s := match x with
    | .walk => loseCaches s
    | .stand => loseLoft s
    | .stabled => loseMemory keep.toNat (loseLoft s)
    | _ => s
  let s := setPwr (fun p => { p with state := x, exiting := false, keep := if x == .stabled then keep else p.keep }) s
  if x == .stabled then
    { hostsDown (allPortsLose (quietPorts s)) with beat := { s.beat with locked := false, good := 0, sync := 0, lastFrame := none } }
  else s

/-- PWR.STATE with STATE 2, 3 or 4 may be taken (R494). -/
def lowAllowed (s : State) : Bool :=
  (s.pads.all fun e => padState e.2 == 0) && !(s.drays.xfers.any fun x => x.src.isCopy) && !(s.xlt.mig.any fun m => m.res == .movingIn || m.res == .movingOut) &&
  s.snaps.mark.isNone && s.snaps.waiting.isEmpty && !(s.snaps.streams.any fun x => x.active) && !(s.ym.cmds.any fun c => c.began && match c.body with | .snapRestore _ => true | _ => false)

def pwrCode (n : Nat) : Option PwrState :=
  match n with
  | 0 => some .gallop
  | 1 => some .trot
  | 2 => some .walk
  | 3 => some .stand
  | 4 => some .stabled
  | _ => none

def PwrState.code (x : PwrState) : Nat := match x with | .gallop => 0 | .trot => 1 | .walk => 2 | .stand => 3 | .stabled => 4

/-- STATE and KEEP hold no refused value (R389, R497). -/
def stateFields (state : BitVec 3) (keep : BitVec 9) : Bool :=
  match pwrCode state.toNat with
  | none => false
  | some .stabled => decide (keep.toNat ≤ 256 ∧ keep.toNat % 2 = 0)
  | some _ => keep == 0

/-- PWR.STATE begins (R494): the state named is reached at once, or after the exit, or, for TROT, once work has ended. STABLED's entry is written before the
Yardmaster is off. -/
def beginState (c : Cmd) (state : BitVec 3) (keep : BitVec 9) (s : State) : State :=
  match pwrCode state.toNat with
  | none => refuseCmd c.seq s
  | some x =>
    let low := decide (2 ≤ state.toNat)
    if !stateFields state keep || (low && !lowAllowed s) then refuseCmd c.seq s
    else if x == s.pwr.state then writeStatus c.seq done [] s
    else if x == .stabled then enterLow x keep (writeStatus c.seq done [] s)
    else if low then writeStatus c.seq done [] (enterLow x keep s)
    else
      let s := setPwr (fun p => { p with target := some (x, c.seq) }) (statusOpt (s.pwr.target.map Prod.snd) done [] s)
      if s.pwr.state == .trot then reachedState .gallop (setPwr (fun p => { p with state := .gallop }) s)
      else if s.pwr.state == .gallop then s
      else startExit s

/-- PWR_WAKE, or what else ends STABLED (R496): an exit to GALLOP. -/
def wake (a : Accessor) (s : State) : State :=
  match s.pwr.state with
  | .stabled => if a == .sideband then startExit s else s
  | .walk => startExit s
  | .stand => startExit s
  | _ => s

/-- GALLOP_EXIT_DONE: the exit is complete (R495). Out of STABLED the links and host ports train again (R496). -/
def exitDone (s : State) : State :=
  if !s.pwr.exiting then s
  else reachedState .gallop (setPwr (fun p => { p with state := .gallop, exiting := false }) s)

/-- Nothing of R493's work is in progress. -/
def idle (s : State) : Bool :=
  !(s.cores.any fun c => !c.2.blocks.isEmpty) && !(s.drays.xfers.any fun x => x.started) && s.links.ops.isEmpty && s.loft.adds.isEmpty &&
  !(s.xlt.wins.any fun w => w.2.inflight != 0 || !w.2.old.isEmpty)

/-- TROT_ENTRY. -/
def trotEntry (s : State) : State :=
  if awake s && s.pwr.state == .gallop && idle s then reachedState .trot (setPwr (fun p => { p with state := .trot }) s) else s

/-! ## Caps (R346, R500) -/

/-- The shares of the latency-critical paddocks, with one taken as given. -/
def lcShares (s : State) (pad : Option (Nat × Nat)) : Nat :=
  (s.pads.filter fun e => e.2.p.lc).foldl (fun a e => a + match pad with | some (p, w) => if p = e.1 then w else e.2.share.toNat | none => e.2.share.toNat) 0

/-- PWR.CAP is not refused (R389, R500). -/
def capOk (s : State) (pad : Option Nat) (watts : W16) : Bool :=
  match pad with
  | none => decide (1000 ≤ watts.toNat ∧ watts.toNat ≤ 4200 ∧ lcShares s none + 1300 ≤ watts.toNat)
  | some p => decide (watts.toNat ≤ s.pwr.devcap.toNat ∧ lcShares s (some (p, watts.toNat)) + 1300 ≤ s.pwr.devcap.toNat)

/-- The lending in force at the present beat: what is added to the cap and what is taken from it (R345). -/
def lending (s : State) : Nat × Nat :=
  let now (x : W64 × W64 × Bool) : Bool := decide (x.1.toNat ≤ s.beat.count.toNat ∧ s.beat.count.toNat < x.2.1.toNat)
  match s.beat.groups.find? fun g => g.lend.any now with
  | none => (0, 0)
  | some g =>
    if g.lend.any fun x => now x && x.2.2 then (g.cfg.lendW.toNat * (g.cfg.nmemb.toNat - 1), 0) else (0, g.cfg.lendW.toNat)

/-- The cap in force: the device cap with lending, at most 4,200 W (R345, R499). -/
def capInForce (s : State) : Nat := min 4200 (s.pwr.devcap.toNat + (lending s).1) - (lending s).2

def showCap (s : State) : State := setPwr (fun p => { p with inforce := BitVec.ofNat 16 (capInForce s) }) s

/-- A cap or share takes effect. -/
def applyCap (seq : Nat) (pad : Option Nat) (watts : W16) (s : State) : State :=
  let s := match pad with
    | none => showCap (setPwr (fun p => { p with devcap := watts }) s)
    | some p => modPad p (fun d => { d with share := watts }) s
  writeStatus seq done [] s

/-- The paddock of a PWR.CAP of scope P. -/
def capPad (c : Cmd) : Option Nat := if c.hdr.paddock = 0xFF then none else some c.hdr.paddock.toNat

/-- The next beat whose number is a multiple of the smallest CAPSTEP (R346). -/
def capBeat (s : State) : Option Nat :=
  match s.beat.groups with
  | [] => none
  | g :: r =>
    let step := r.foldl (fun m x => min m x.cfg.capstep.toNat) g.cfg.capstep.toNat
    some ((s.beat.count.toNat / step + 1) * step)

/-- PWR.CAP begins: at its named beat it takes effect; in a group without one it waits for its step (R346). -/
def beginCap (c : Cmd) (watts : W16) (s : State) : State :=
  if !capOk s (capPad c) watts then refuseCmd c.seq s
  else match c.hdr.atBeat, capBeat s with
    | none, some b => setPwr (fun p => { p with caps := p.caps ++ [{ beat := BitVec.ofNat 64 b, watts := watts, cmd := c.seq }] }) s
    | _, _ => applyCap c.seq (capPad c) watts s

/-- A cap that waited takes effect (row 3 of R335). -/
def capDue (seq : Nat) (s : State) : State :=
  match s.pwr.caps.find? fun x => x.cmd == seq, findCmd s seq with
  | some x, some c => applyCap seq (capPad c) x.watts (setPwr (fun p => { p with caps := p.caps.filter fun y => y.cmd != seq }) s)
  | _, _ => s

/-! ## Draws, demands, portions, clock steps (R499 to R506) -/

/-- The clock steps, highest first. -/
def clockSteps : List Nat := (List.range 11).map fun i => 1500 - 100 * i

def isStep (mhz : Nat) : Bool := clockSteps.contains mhz

/-- What has a clock and a demand of its own: a stage's plot by its number, or a launch's rectangle by 64 + its number; with its cores. -/
def clockUnits (s : State) (pad : Nat) : List (Nat × List Nat) :=
  match getPad s pad with
  | none => []
  | some d => (match d.pipe with | some p => p.stages.map fun x => (x.cfg.stage.toNat, x.cfg.cores) | none => []) ++
      d.launches.map fun l => (64 + l.id, launchCores l.p)

def unitMhz (s : State) (pad unit : Nat) : Nat :=
  match getPad s pad with
  | none => 0
  | some d => if unit < 64 then (match d.pipe with | some p => (match stageRt p unit with | some x => x.mhz | none => 0) | none => 0)
    else match d.launches.find? fun l => 64 + l.id == unit with | some l => l.mhz | none => 0

def setUnitMhz (pad unit mhz : Nat) (s : State) : State :=
  if unit < 64 then modStage pad unit (fun x => { x with mhz := mhz }) s else modLaunch pad (unit - 64) (fun l => { l with mhz := mhz }) s

/-- The phase of the present beat for a unit (R502). -/
def phaseOf (s : State) (pad unit : Nat) (beat : Nat) : Nat :=
  match getPipe s pad with
  | some p => match p.start with
    | some st => if unit < 64 then (((beat : Int) - st.b0.toNat) % (max 1 p.period : Nat)).toNat else 0
    | none => 0
  | none => 0

/-- The demand of a unit at a clock step (R502). -/
def demandAt (s : State) (pad unit mhz : Nat) : Nat :=
  let mine := s.pwr.history.filter fun h => h.pad == pad && h.unit == unit
  let phase := (mine.filter fun h => h.phase == phaseOf s pad unit s.beat.count.toNat).take 64
  match phase.filter fun h => h.mhz == mhz with
  | [] => match mine with
    | [] => 0
    | h :: r => let m := r.foldl (fun m x => if m.watts < x.watts then x else m) h; if m.mhz = 0 then m.watts else m.watts * mhz / m.mhz
  | h :: r => r.foldl (fun m x => max m x.watts) h.watts

/-- The lowest ceiling of the dies under some cores. -/
def coresCeil (s : State) (cores : List Nat) : Nat := cores.foldl (fun m n => min m (s.pwr.dies[Fin.ofNat 8 (coreDie n)]).ceil.toNat) 1500

/-- The floor of R504. -/
def floorOf (s : State) (pad : Nat) : Nat :=
  match getPad s pad with
  | some d => if d.p.lc && d.share != 0 then s.pwr.floor.toNat else 500
  | none => 500

/-- The clock a unit is asked for before its portion is known: the fixed step, or its highest (R501, R506). -/
def topMhz (s : State) (cores : List Nat) : Nat := if s.pwr.fixed then s.pwr.fixmhz.toNat else coresCeil s cores

def padDemand (s : State) (pad : Nat) : Nat := (clockUnits s pad).foldl (fun a u => a + demandAt s pad u.1 (topMhz s u.2)) 0

/-- One paddock's part of the division: its number, class, share, demand, and the portion so far. -/
structure Part where
  pad    : Nat
  lc     : Bool
  share  : Nat
  demand : Nat
  got    : Nat
  deriving DecidableEq, Repr

/-- The lesser of share and demand for some paddocks in turn, out of what is left. -/
def grantShares (lc : Bool) (cap : Part → Nat) (left : Nat) (ps : List Part) : Nat × List Part :=
  match ps with
  | [] => (left, [])
  | p :: r =>
    let g := if p.lc == lc then min (min (cap p) p.demand) left else 0
    let t := grantShares lc cap (left - g) r
    (t.1, { p with got := p.got + g } :: t.2)

/-- The division of R501, with that of R505 where the latency-critical shares do not fit. -/
def divide (power : Nat) (ps : List Part) : List Part :=
  let shares := (ps.filter fun p => p.lc).foldl (fun a p => a + p.share) 0
  let lcCap (p : Part) : Nat := if power < shares then power * p.share / shares else p.share
  let a := grantShares true lcCap power ps
  let b := grantShares false (fun p => p.share) a.1 a.2
  let unmet := (b.2.filter fun p => !p.lc).foldl (fun a p => a + (p.demand - p.got)) 0
  b.2.map fun p => if p.lc || unmet = 0 then p else { p with got := p.got + min (p.demand - p.got) (b.1 * (p.demand - p.got) / unmet) }

/-- The portion of one unit of a paddock, in proportion to the demands. -/
def unitPortion (s : State) (p : Part) (unit : Nat) (cores : List Nat) : Nat :=
  if p.demand = 0 then p.got else p.got * demandAt s p.pad unit (topMhz s cores) / p.demand

/-- The step a unit gets before thermal actions (R503, R506), and whether its portion is exceeded even so. -/
def chooseStep (s : State) (pad unit portion : Nat) (cores : List Nat) : Nat × Bool :=
  if s.pwr.fixed then (s.pwr.fixmhz.toNat, decide (portion < demandAt s pad unit s.pwr.fixmhz.toNat))
  else
    let ceil := coresCeil s cores
    let floor := min (floorOf s pad) ceil
    match clockSteps.find? fun m => decide (m ≤ ceil ∧ floor ≤ m ∧ demandAt s pad unit m ≤ portion) with
    | some m => (m, false)
    | none => (floor, decide (portion < demandAt s pad unit floor))

/-- What the thermal actions of the dies under some cores leave of a step, and whether admission is stalled (R507). -/
def thermalStep (s : State) (cores : List Nat) (mhz : Nat) : Nat × Bool :=
  let acts := cores.map fun n => (s.pwr.dies[Fin.ofNat 8 (coreDie n)]).thermal
  if acts.contains .stall then (500, true) else if acts.contains .step then (max 500 (mhz - 100), false) else (mhz, false)

/-- The steps of a paddock's units set; whether the paddock is stalled. -/
def clockPad (p : Part) (acc : State × Bool) : State × Bool :=
  (clockUnits acc.1 p.pad).foldl (fun a u =>
    let c := chooseStep a.1 p.pad u.1 (unitPortion a.1 p u.1 u.2) u.2
    let t := thermalStep a.1 u.2 c.1
    (setUnitMhz p.pad u.1 t.1 a.1, a.2 || c.2 || t.2)) acc

/-- The highest step that runs on a die. -/
def dieMhz (s : State) (d : Nat) : Nat :=
  s.pads.foldl (fun m e => (clockUnits s e.1).foldl (fun m u => if u.2.any fun n => coreDie n == d then max m (unitMhz s e.1 u.1) else m) m) 0

/-- PWR.FIXED is not refused (R506). -/
def fixedOk (s : State) (enable : Bool) (mhz : W16) : Bool :=
  if enable then isStep mhz.toNat && s.pwr.dies.toList.all fun d => decide (mhz.toNat ≤ d.ceil.toNat) else mhz == 0

/-- PWR.FIXED commands that wait for the boundary change the mode there, the one that began last standing (R363, R506). -/
def fixedDue (s : State) : State :=
  s.pwr.fixes.foldl (fun t q => match findCmd t q with
    | some c => (match c.body with
      | .pwrFixed on mhz => writeStatus q done [] (setPwr (fun p => { p with fixed := on, fixmhz := if on then BitVec.ofNat 11 mhz.toNat else 0 }) t)
      | _ => t)
    | none => t) (setPwr (fun p => { p with fixes := [] }) s)

/-- PWR.FIXED begins: it waits for the boundary (R506). -/
def beginFixed (c : Cmd) (on : Bool) (mhz : W16) (s : State) : State :=
  if fixedOk s on mhz then setPwr (fun p => { p with fixes := p.fixes ++ [c.seq] }) s else refuseCmd c.seq s

/-- The draws of the last beat taken into the history (R502): the 64 latest of each phase are kept by demandAt. -/
def recordDraws (m : BoundaryInputs) (beat : Nat) (s : State) : State :=
  let new := m.draws.map fun d => { pad := d.1.val, unit := d.2.1, mhz := unitMhz s d.1.val d.2.1, phase := phaseOf s d.1.val d.2.1 beat, watts := d.2.2 : DrawRec }
  setPwr (fun p => { p with history := new ++ p.history }) s

def padDraw (m : BoundaryInputs) (pad : Nat) : Nat := (m.draws.filter fun d => d.1.val == pad).foldl (fun a d => a + d.2.2) 0

/-- Trims asked for since the last boundary are made (R509). -/
def applyTrims (s : State) : State := setPwr (fun p => { p with dies := p.dies.map fun d => { d with trim := d.pendTrim } }) s

/-- The readings of the last beat, unless a confidential paddock keeps them from being updated yet (R511). -/
def showReadings (m : BoundaryInputs) (parts : List Part) (s : State) : State :=
  let t := s.pwr.coarse + s.beat.force.period.toNat
  if anyConf s && decide (t < 100000) then setPwr (fun p => { p with coarse := t, millivolt := BitVec.ofNat 16 m.millivolt }) s
  else
    let total := m.base + m.draws.foldl (fun a d => a + d.2.2) 0
    let die (i : Fin 8) : DiePwr := { s.pwr.dies[i] with watts := BitVec.ofNat 16 ((m.dies.filter fun d => d.1 == i).foldl (fun a d => a + d.2) 0) }
    setPwr (fun p => { p with coarse := 0, millivolt := BitVec.ofNat 16 m.millivolt, watts := BitVec.ofNat 16 total,
                              draw := s.pads.map fun e => (e.1, BitVec.ofNat 16 (padDraw m e.1)), portion := parts.map fun x => (x.pad, BitVec.ofNat 16 x.got),
                              dies := Vector.ofFn die }) s

/-- The temperatures of the Barn channels, which no rule says how they are read: a free reading at each boundary (R327; DESIGN CHOICE, log 122). -/
def barnTemps (s : State) : State :=
  { s with stk := { s.stk with barn := Vector.ofFn fun c : Fin 16 => { s.stk.barn[c] with temp := BitVec.ofNat 8 (Config.freeChoice (s.free + c.val)) } },
           free := s.free + 16 }

/-- Row 3 of R335: caps, PWR.FIXED, the division of power and the clock steps (R501 to R506). -/
def powerRow (m : BoundaryInputs) (s : State) : State :=
  let s := applyTrims (showCap (fixedDue (recordDraws m (s.beat.count.toNat - 1) s)))
  let power := capInForce s - m.base
  let parts := divide power (s.pads.map fun e => { pad := e.1, lc := e.2.p.lc, share := e.2.share.toNat, demand := padDemand s e.1, got := 0 : Part })
  let s := parts.foldl (fun t p =>
    let r := clockPad p (t, false)
    let t := setPwr (fun w => { w with stalled := if r.2 then p.pad :: w.stalled.filter (· != p.pad) else w.stalled.filter (· != p.pad) }) r.1
    if r.2 then setPwr (fun w => { w with stalls := tmod w.stalls p.pad 0 fun c => BitVec.ofNat 16 (satAdd 16 c.toNat 1) }) t else t) s
  let unmet := parts.any fun p => decide (p.got < p.demand)
  let s := setPwr (fun w => { w with binding := unmet || !w.stalled.isEmpty }) s
  let s := setPwr (fun w => { w with dies := Vector.ofFn fun i : Fin 8 => { w.dies[i] with mhz := BitVec.ofNat 16 (dieMhz s i.val) } }) s
  barnTemps (showReadings m parts s)

/-! ## Temperature, droop, margins (R507 to R510) -/

def modDie (d : Fin 8) (f : DiePwr → DiePwr) (s : State) : State := setPwr (fun p => { p with dies := p.dies.set d (f p.dies[d]) }) s

/-- A POWER entry of the Weathervane of a die's half. -/
def dieErr (code : Byte) (sev : BitVec 2) (d : Fin 8) (q : Nat) : Err := quantErr 5 code sev 0xFF 0x0D (d.val / 4) q

/-- A thermal action acts on the plots of a die at once; steps come back at the next boundary. -/
def applyThermal (d : Fin 8) (s : State) : State :=
  s.pads.foldl (fun t e => (clockUnits t e.1).foldl (fun t u =>
    if u.2.any fun n => coreDie n == d.val then
      let r := thermalStep t u.2 (unitMhz t e.1 u.1)
      let t := setUnitMhz e.1 u.1 (min r.1 (unitMhz t e.1 u.1)) t
      if r.2 then setPwr (fun w => { w with stalled := if w.stalled.contains e.1 then w.stalled else e.1 :: w.stalled }) t else t
    else t) t) s

/-- DIE_TEMP_READ (R507). held: the reading has been at least 3 °C below the lower bound of the action for 1 ms. -/
def dieTemp (d : Fin 8) (temp : Byte) (held : Bool) (s : State) : State :=
  if !awake s then s
  else
    let x := s.pwr.dies[d]
    let c := temp.toNat
    let next : Thermal := match x.thermal with
      | .none => if 105 ≤ c then .stall else if 95 ≤ c then .step else .none
      | .step => if 105 ≤ c then .stall else if c ≤ 92 && held then .none else .step
      | .stall => if c ≤ 102 && held then (if c ≤ 92 then .none else .step) else .stall
    let s := modDie d (fun x => { x with temp := temp, hot := if x.hot < temp then temp else x.hot, thermal := next }) s
    let starts := (x.thermal == .none && next != .none) || (x.thermal == .step && next == .stall)
    let ends := next != x.thermal && !starts
    let s := if starts || (ends && decide (c < 95)) then report (dieErr 0x04 0 d c) s else s
    if starts then applyThermal d s else s

/-- VOLTAGE_DROOP and DROOP_RECOVERED (R508). -/
def droop (d : Fin 8) (region : Nat) (s : State) : State := modDie d (fun x => { x with droop := x.droop ||| BitVec.ofNat 5 (2 ^ region) }) s

def droopOver (d : Fin 8) (region : Nat) (fc : W32) (s : State) : State :=
  if (s.pwr.dies[d]).droop.getLsbD region then
    modDie d (fun x => { x with droop := setBit x.droop region false, stretch := BitVec.ofNat 32 (satAdd 32 x.stretch.toNat fc.toNat) }) s
  else s

/-- The stages that fail the check of R188 with a plot that a predicate names write BUDGET_FAIL entries (R458, R510). -/
def recheck (touches : List StageRec → List PathRec → StageRec → Bool) (s : State) : State :=
  s.pads.foldl (fun t e => match e.2.pipe with
    | none => t
    | some p => p.stages.foldl (fun t x =>
        if touches p.recs p.pathRecs x.cfg && !budgetOk t e.1 p.period p.recs p.pathRecs x.cfg then
          reportPace 0x03 2 e.1 x.cfg.stage.toNat 0 0 0 0 t
        else t) t) s

/-- MARGIN_CHECK (R509, R510). -/
def marginCheck (d : Fin 8) (q : Fin 4) (slack : Slack) (s : State) : State :=
  if !awake s then s
  else
    let x := s.pwr.dies[d]
    match slack with
    | .ok => s
    | .ample => if -20 < x.pendTrim[q] then modDie d (fun x => { x with pendTrim := x.pendTrim.set q (x.pendTrim[q] - 1) }) s else s
    | .low =>
      if x.pendTrim[q] < 20 then modDie d (fun x => { x with pendTrim := x.pendTrim.set q (x.pendTrim[q] + 1) }) s
      else if x.trim[q] < 20 || x.ceil.toNat ≤ 500 then s
      else
        let s := modDie d (fun x => { x with ceil := x.ceil - 100 }) s
        let s := report (dieErr 0x05 2 d (x.ceil.toNat - 100)) s
        recheck (fun recs _ _ => recs.any fun r => r.cores.any fun n => coreDie n == d.val) s

end Sys2Proof.Machine
end

