-- ==== Sys2Proof/Machine/Snaps.lean ====
section
/-! DEFINITION. Baling, restoring, streaming, the end of a compute restart and the auto-resume (R455, R459, R462, R469 to R482). -/

namespace Sys2Proof.Machine

/-! ## Registered granules (R473) -/

/-- The registered granules, by ascending HALF and GRAN. -/
def registered (s : State) : List MarkedGran :=
  let spaces := s.xlt.spaces.filter fun t => t.2.valid && (match getPad s t.2.pad with | some d => d.p.autores | none => false)
  let exts := (spaces.flatMap fun t => t.2.table).filter fun e => !e.barn
  (exts.foldl (fun t e => (List.range e.len).foldl (fun t i =>
    tput t (dirtyKey e.half (e.pbase + i)) { half := e.half, gran := e.pbase + i, ctx := e.owner, skip := e.conf || e.spill : MarkedGran }) t) ([] : Tbl MarkedGran)).map
    Prod.snd

/-! ## Marks (R474 to R478) -/

/-- The generation that a mark goes to (R475). -/
def targetGen (s : State) : Fin 2 := match currentGen s with | some 0 => 1 | _ => 0

/-- A restart or an auto-resume runs (R469, R471). -/
def resumePending (s : State) : Bool := match s.snaps.restart with | some r => !r.ended || !r.toResume.isEmpty | none => false

/-- What a mark waits for (R478). -/
def markBlocked (s : State) : Bool :=
  s.snaps.mark.isSome || resumePending s || (s.ym.cmds.any fun c => c.began && match c.body with | .snapRestore _ => true | _ => false) || (s.snaps.streams.any fun x => x.active && x.gen == targetGen s)

/-- The resume record of a paddock (R477). -/
def resumeOf (e : Nat × Pad) : Resume :=
  let d := e.2
  let pipe := d.pipe.map fun p =>
    let r := p.stages.foldl (fun a x => match a with | none => some x.inv | some m => some (min m x.inv)) (none : Option Nat)
    let start := match p.start with
      | some st => if st.accepted && !st.ended then some { b0 := st.b0, seed := st.seed, count := st.count, epost := st.epost : StartParams } else none
      | none => none
    (p.tableAt, p.tag, start, r.getD 0)
  { pad := e.1, pipe := pipe, seqs := d.seqs, batches := d.batches, nextSeq := d.nextSeq, resumes := 0, log := [] }

/-- A mark begins at the present boundary (R475). -/
def startMark (seq : Nat) (full : Bool) (s : State) : State :=
  let g := targetGen s
  let all := registered s
  let due := all.filter fun m => full || dirtyFor s m.half m.gran g
  let dirty := due.foldl (fun t m => tmod t (dirtyKey m.half m.gran) 0 fun b => setBit b g.val false) s.mem.dirty
  let gen : Gen := { s.snaps.gens[g] with current := false, complete := false, grans := all, placed := [],
                                          records := (s.pads.filter fun e => e.2.p.autores).map resumeOf }
  { s with mem := { s.mem with dirty := dirty },
           snaps := { s.snaps with gens := s.snaps.gens.set g gen,
                                   mark := some { gen := g, cmd := some seq, beat := s.beat.count, pending := due, wanted := [], bytes := 0 } } }

/-- At a boundary the oldest mark that waits begins, once nothing of R478 runs. -/
def marksDue (s : State) : State :=
  match s.snaps.waiting with
  | [] => s
  | (seq, full) :: r => if markBlocked s then s else startMark seq full { s with snaps := { s.snaps with waiting := r } }

/-- SNAP.MARK waits for its boundary (R475). -/
def beginMark (seq : Nat) (full : Bool) (s : State) : State := { s with snaps := { s.snaps with waiting := s.snaps.waiting ++ [(seq, full)] } }

/-- HELD_WRITE_RELEASE: the granule that a held write wants is copied, so the write can be performed (R476). -/
def heldRelease (half : Bool) (gran : Nat) (s : State) : State :=
  match s.snaps.mark with
  | none => s
  | some m =>
    if m.wanted.contains (half, gran) && !granWaits s half gran then (m.pending.filter fun x => x.half == half && x.gran == gran).foldl (fun t g => baleGran g t) s else s

/-! ## Images (R481, R482) -/

/-- The granules of a generation's image, in index order. -/
def imageGrans (s : State) (g : Fin 2) : List MarkedGran :=
  (s.snaps.gens[g]).grans.filter fun m => !m.skip && !(match granRun s false m.half m.gran with | some r => r.conf && r.ctx == m.ctx | none => false)

def indexEntry (m : MarkedGran) : List Byte := leBytes 8 (m.gran + 524288 * b2n m.half + 1048576 * m.ctx.toNat)

/-- Bytes of the index of n granules. -/
def indexBytes (n : Nat) : Nat := ceilDiv (8 * n) 4096 * 4096

def imageBytes (n : Nat) : Nat := 4096 + indexBytes n + granBytes * n

def imageIndex (ms : List MarkedGran) : List Byte :=
  let bs := ms.flatMap indexEntry
  bs ++ List.replicate (indexBytes ms.length - bs.length) 0

def imageData (s : State) (g : Fin 2) (ms : List MarkedGran) : List Byte :=
  ms.flatMap fun m => mreads (barnMem s m.half) (genAddr g.val (granBytes * m.gran)) granBytes

/-- MAGIC: "VQDZBALE". -/
def imageMagic : List Byte := [0x56, 0x51, 0x44, 0x5A, 0x42, 0x41, 0x4C, 0x45]

def imageHeader (s : State) (g : Fin 2) (n crc : Nat) : List Byte :=
  imageMagic ++ [BitVec.ofNat 8 g.val] ++ List.replicate 7 0 ++ leBytes 8 (s.snaps.gens[g]).markbeat.toNat ++ leBytes 8 n ++
  leBytes 8 Config.deviceId.toNat ++ leBytes 8 crc ++ List.replicate 4048 0

/-- The check unit of a stream: a unit of its target port's I/O die (R452). -/
def streamUnit (s : State) (p : StreamParams) : Option Nat :=
  if p.unit = 0 then none else some (8 * ((getTgt s p.target.toNat).port.toNat / 18) + p.unit.toNat - 1)

/-- A stream arms its unit when it begins and for each image (R452). -/
def armStream (p : StreamParams) (s : State) : State := match streamUnit s p with | some k => askUnit k 2 none s | none => s

/-- The arm of a stream still waits for the descriptor that uses its unit: its image is not yet written (DESIGN CHOICE, log 128). -/
def armWaits (s : State) (p : StreamParams) : Bool := match streamUnit s p with | some k => (getChk s k).arms.any fun a => a.1.isNone | none => false

/-- The bytes on the target that one image may take (R481, R482). -/
def imageRoom (p : StreamParams) : Nat := if p.cont then p.limit.toNat / 2 else p.limit.toNat

/-- A CONT stream takes up the generation that has become current, or skips it (R482). -/
def takeImage (g : Fin 2) (x : Stream) (s : State) : State × Stream :=
  if imageBytes (imageGrans s g).length ≤ imageRoom x.p then (armStream x.p s, { x with gen := g, active := true, due := false })
  else
    let t := x.p.target.toNat
    let w := getPort s (Fin.ofNat 36 (getTgt s t).port.toNat)
    (report (linkErr 0x0C 0 0x0B t t w.width.toNat w.mode.toNat 0 w.peerId) s, { x with active := false, due := false })

def setStreams (xs : List Stream) (s : State) : State := { s with snaps := { s.snaps with streams := xs } }

/-- A generation has become current: CONT streams take it up, now or after the image they write. -/
def streamsTake (g : Fin 2) (s : State) : State :=
  let r := s.snaps.streams.foldl (fun (acc : State × List Stream) x =>
    if !x.p.cont then (acc.1, acc.2 ++ [x])
    else if x.active then (acc.1, acc.2 ++ [{ x with due := true }])
    else
      let t := takeImage g x acc.1
      (t.1, acc.2 ++ [t.2])) (s, [])
  setStreams r.2 r.1

/-- GEN of SNAP.RESTORE and SNAP.STREAM (R387): none where a value is refused; some none where there is no complete generation. -/
def genNamed (s : State) (gen : Byte) : Option (Option (Fin 2)) :=
  let ready (g : Fin 2) : Option (Fin 2) := if (s.snaps.gens[g]).complete then some g else none
  if gen = 0 then some (ready 0) else if gen = 1 then some (ready 1) else if gen = 0xFF then some (currentGen s) else none

/-- SNAP.STREAM is not refused (R387). -/
def streamOk (p : StreamParams) : Bool := (p.gen == 0 || p.gen == 1 || p.gen == 0xFF) && decide (p.unit.toNat ≤ 8 ∧ p.offset.toNat % 4096 = 0)

/-- SNAP.STREAM begins (R388, R481, R482). -/
def beginStream (seq : Nat) (p : StreamParams) (s : State) : State :=
  if !streamOk p then refuseCmd seq s
  else if p.cont then
    writeStatus seq accepted [] (setStreams (s.snaps.streams ++ [{ gen := 0, p := p, cmd := none, second := false, active := false, due := false }]) s)
  else match genNamed s p.gen with
    | some (some g) =>
      if imageRoom p < imageBytes (imageGrans s g).length then writeStatus seq noResource [] s
      else setStreams (s.snaps.streams ++ [{ gen := g, p := p, cmd := some seq, second := false, active := true, due := false }]) (armStream p s)
    | _ => writeStatus seq noData [] s

/-- An image is written: index and data, then the header (R481). -/
def writeImage (x : Stream) (s : State) : State × Nat × Nat :=
  let ms := imageGrans s x.gen
  let body := imageIndex ms ++ imageData s x.gen ms
  let sum := crc crc64 body
  let at_ := x.p.offset.toNat + (if x.second then x.p.limit.toNat / 2 else 0)
  let n := imageBytes ms.length
  let s := sendOut (.store x.p.target.toNat true (at_ + 4096) body.length body) s
  let s := sendOut (.store x.p.target.toNat true at_ 4096 (imageHeader s x.gen ms.length sum)) s
  let s := match streamUnit s x.p with
    | some k => setChk k { getChk s k with bytes := (getChk s k).bytes + BitVec.ofNat 64 body.length, value := BitVec.ofNat 64 sum } s
    | none => s
  (s, n, sum)

/-- STREAM_IMAGE_DONE: the header of an image of a generation is written. While the target is not ready the stream pauses (R447). -/
def imageDone (g : Fin 2) (s : State) : State :=
  let ready (x : Stream) : Bool := x.active && x.gen == g && (getTgt s x.p.target.toNat).state == 2 && !armWaits s x.p
  match s.snaps.streams.findIdx? ready with
  | none => s
  | some i => match s.snaps.streams[i]? with
    | none => s
    | some x =>
      let r := writeImage x s
      if x.p.cont then
        let y : Stream := { x with second := !x.second, active := false }
        let t := if x.due then (match currentGen r.1 with | some h => takeImage h y r.1 | none => (r.1, { y with due := false })) else (r.1, y)
        setStreams (t.1.snaps.streams.set i t.2) t.1
      else
        statusOpt x.cmd done (leBytes 8 r.2.1 ++ leBytes 8 r.2.2) (setStreams (r.1.snaps.streams.eraseIdx i) r.1)

/-- A held stack or a stand-in that is being installed stops the copy of some of these granules (R314, R324). -/
def gransWait (s : State) (l : List MarkedGran) : Bool := l.any fun m => granWaits s m.half m.gran

/-- MARK_COPY_DONE: every pending granule is copied, and the generation becomes current (R475, R388). -/
def markDone (s : State) : State :=
  match s.snaps.mark with
  | none => s
  | some m =>
    if gransWait s m.pending then s else
    let s := m.pending.foldl (fun t g => baleGran g t) s
    match s.snaps.mark with
    | none => s
    | some m =>
      let gen (i : Fin 2) : Gen := if i = m.gen then
          { s.snaps.gens[i] with current := true, complete := true, markbeat := m.beat, gib := BitVec.ofNat 32 (ceilDiv m.bytes 1073741824) }
        else { s.snaps.gens[i] with current := false }
      let s := { s with snaps := { s.snaps with mark := none, gens := Vector.ofFn gen } }
      streamsTake m.gen (statusOpt m.cmd done (leBytes 8 m.gen.val ++ leBytes 8 m.bytes) (bump 1154 1 s))

/-! ## Restoring (R479) -/

/-- A granule is copied back to the Stack. -/
def restoreGran (g : Fin 2) (m : MarkedGran) (s : State) : State :=
  let a := granBytes * m.gran
  let s := clearGranules false m.half m.gran 1 s
  let s := setStackMem m.half (mcopy (barnMem s m.half) (genAddr g.val a) (stackMem s m.half) a granBytes) s
  let s := copyPoison m.half true (genAddr g.val a) false a granBytes s
  bump 1157 granBytes { s with mem := { s.mem with dirty := tput s.mem.dirty (dirtyKey m.half m.gran) (if g = 0 then 2 else 1) } }

/-- The granules that SNAP.RESTORE copies for the paddocks that a predicate names (R479). -/
def restoreDue (s : State) (g : Fin 2) (pads : Nat → Bool) : List MarkedGran :=
  let now := registered s
  (s.snaps.gens[g]).grans.filter fun m =>
    (now.any fun x => x.half == m.half && x.gran == m.gran && x.ctx == m.ctx) && !(s.snaps.gens[g]).placed.contains (m.half, m.gran) &&
    dirtyFor s m.half m.gran g && pads (m.ctx.toNat / 1024)

def restoreGrans (g : Fin 2) (pads : Nat → Bool) (s : State) : State := (restoreDue s g pads).foldl (fun t m => restoreGran g m t) s

/-- The paddocks that a SNAP.RESTORE covers. -/
def restoreCovers (h : CmdHdr) (p : Nat) : Bool := h.paddock = 0xFF || p == h.paddock.toNat

/-- A paddock that it covers is not idle (R479). -/
def restoreBusy (s : State) (h : CmdHdr) : Bool := s.pads.any fun e => restoreCovers h e.1 && padState e.2 != 0

/-- SNAP.RESTORE's copies are made, or wait as a whole (R314, R324). -/
def runRestore (c : Cmd) (g : Fin 2) (s : State) : State :=
  if gransWait s (restoreDue s g (restoreCovers c.hdr)) then s else writeStatus c.seq done [] (restoreGrans g (restoreCovers c.hdr) s)

/-- SNAP.RESTORE (R388, R479). -/
def beginRestore (c : Cmd) (gen : Byte) (s : State) : State :=
  if restoreBusy s c.hdr then refuseCmd c.seq s
  else match genNamed s gen with
    | none => refuseCmd c.seq s
    | some none => writeStatus c.seq noData [] s
    | some (some g) => runRestore c g s

/-- Restores that wait are tried again. -/
def retryRestores (s : State) : State :=
  (s.ym.cmds.filter fun c => c.began).foldl (fun t c => match c.body with
    | .snapRestore gen => (match genNamed t gen with
      | some (some g) => runRestore c g t
      | _ => writeStatus c.seq noData [] t)
    | _ => t) s

/-- FAULT.ACK (R388, R462). -/
def beginAck (c : Cmd) (q : W64) (s : State) : State := writeStatus c.seq done (leBytes 8 q.toNat) (ackRecord q s)

/-! ## The end of a compute restart (R469, R470) -/

/-- A started transfer of a queue still has parts to land (R469). -/
def restartWaits (s : State) : Bool := s.drays.xfers.any fun x => x.started && !x.src.isCopy && !x.stopped && hostUp x
where
  /-- Its port, where it touches HOST, can be reached. -/
  hostUp (x : Xfer) : Bool := match x.host s with | some (h, fn) => funcUp s h fn | none => true

/-- Register files, tiles and caches of a core at zero; its retirement, if one is due (R459). -/
def clearCore (n : Nat) (s : State) : State :=
  retireIfFree n (setCore n { getCore s n with tiles := [], tileUsed := 0, harnessQ := [], mmaQ := [], l1 := [], constant := [], desc := [] } s)

/-- Handlings on cores, and of job faults, end with the restart (R464). -/
def endHandlings (s : State) : State :=
  (s.flt.records.filter fun r => r.utype == 0x01 || r.cls == 1).foldl (fun t r => handledN r.handlings r.utype r.uindex.toNat t) s

def finishRetires (fuel : Nat) (s : State) : State :=
  match fuel with
  | 0 => s
  | k + 1 => if s.loft.retire.isSome then finishRetires k (finishRetire s) else s

/-- COMPUTE_RESTART_END: the later rows of the table of R469. -/
def endRestart (us : W32) (r : Restart) (s : State) : State :=
  let pads := s.pads.map Prod.fst
  let s := restartLoft (dropAdds (fun _ => true) s)
  let s := { s with posts := { s.posts with cnt := [], upds := [] } }
  let s := pads.foldl (fun t p => emptySends p (emptyQueues p t)) s
  let s := (s.cores.map Prod.fst).foldl (fun t n => clearCore n t) s
  let s := endHandlings (finishRetires (s.loft.retireDue.length + 1) s)
  let resume := pads.filter fun p => willResume s p && !((getPad s p).any fun d => d.drain.isSome)
  let notRes := (s.pads.filter fun e => e.2.p.autores && !resume.contains e.1).foldl (fun m e => m ||| BitVec.ofNat 32 (2 ^ e.1)) (0 : W32)
  let s := pads.foldl (fun t p => if resume.contains p then modPad p (fun d => { d with resuming := true }) t else loseCarry p t) s
  { s with snaps := { s.snaps with restart := some { r with ended := true, us := us, toResume := resume, notRes := notRes } },
           start := { s.start with kind := .restart, step := 11, ms := BitVec.ofNat 16 (min 65535 (us.toNat / 1000)) } }

/-- COMPUTE_RESTART_END: once the transfers that the restart waits for have ended. -/
def restartEnd (us : W32) (s : State) : State :=
  match s.snaps.restart with
  | none => s
  | some r => if r.ended || restartWaits s then s else endRestart us r s

/-! ## The auto-resume (R471) -/

/-- A run whose granules nothing holds. -/
def runFree (s : State) (r : GranRun) : Bool :=
  !(s.xlt.granules.any fun x => x.barn == r.barn && x.half == r.half && decide (x.first < r.first + r.len ∧ r.first < x.first + x.len))

/-- A recorded sequence takes its runs again, as the mark found them; it goes where another owner has taken one. -/
def holdSeq (pad : Nat) (q : Seq) (s : State) : State :=
  match getPad s pad with
  | none => s
  | some d =>
    let runs := q.runs.map Extent.run ++ q.swap
    if runs.all fun r => runFree s r then
      let s := runs.foldl (fun t r => addRun r t) s
      let s := setTable d.p.kvtag.toNat ((getSpace s d.p.kvtag.toNat).table ++ q.runs) s
      modPad pad (fun d => { d with seqs := d.seqs ++ [q] }) s
    else if q.counted then s else countLost pad 1 s

/-- A sequence or batch command accepted after the mark is applied again (R471). -/
def reapply (pad : Nat) (live : List W32) (x : CmdHdr × Body) (s : State) : State :=
  match x.2 with
  | .seqJoin p => modPad pad (fun d => { d with seqs := d.seqs ++ [{ freshSeq d.nextSeq p with counted := !live.contains d.nextSeq }], nextSeq := d.nextSeq + 1 }) s
  | .seqLeave id => modPad pad (fun d => { d with seqs := mapWhere (fun q => q.id == id) (fun q => { q with leave := true }) d.seqs }) s
  | .batchSubmit p => modPad pad (fun d => { d with batches := d.batches ++ [{ hdrTag := x.1.tag, p := p, step := none, counted := false }] }) s
  | _ => s

/-- The first batches of a resumed queue had committed before the restart; the last n had not. -/
def markCounted (n : Nat) (l : List Batch) : List Batch := l.zipIdx.map fun x => { x.1 with counted := decide (x.2 + n < l.length) }

/-- The mixer state and batch queue of a resume record in force again (R471). -/
def resumeServing (pad : Nat) (r : Resume) (s : State) : State :=
  match getPad s pad with
  | none => s
  | some d =>
    let start := match r.pipe with | some (_, _, _, k) => k | none => 0
    let live := d.carrySeqs
    let s := modPad pad (fun d => { d with seqs := [], batches := r.batches.map fun b => { b with step := none }, nextSeq := r.nextSeq, steps := start, formed := start }) s
    let s := r.seqs.foldl (fun t q => holdSeq pad { q with uncommitted := none, counted := !live.contains q.id } t) s
    let s := r.log.foldl (fun t x => reapply pad live x t) s
    modPad pad (fun e => { e with batches := markCounted d.carryBatches e.batches }) s

/-- The landing posts of a paddock's pipeline at zero (R180, R223). -/
def zeroLandings (pad : Nat) (s : State) : State :=
  match getPipe s pad with
  | none => s
  | some pl => ((pl.pathRecs.flatMap fun r => landingPosts pl.recs r).filterMap fun k => padPost s pad k).foldl (fun t d => setPostValue d 0 t) s

/-- The recorded pipeline is loaded again and starts at the first boundary after it is admitted (R471). Its sequence numbers and commits begin at 0 again,
as its landing posts do (DESIGN CHOICE, log 118). False where admission fails. -/
def resumePipe (pad : Nat) (r : Resume) (s : State) : State × Bool :=
  match r.pipe with
  | none => (s, true)
  | some (table, tag, start, k) =>
    let (s, t) := readTable pad tag table.toNat s
    if (admission s pad t fun _ => []).isSome || !tagOf s pad tag then (s, false)
    else
      let s := zeroLandings pad (loadPipe pad table tag t s)
      match start with
      | none => (s, true)
      | some p =>
        let st : StartRt := { b0 := s.beat.next, first := k, seed := p.seed, count := p.count, epost := p.epost, accepted := true, ended := false, cmd := none }
        (modPipe pad (fun p => { p with start := some st, stages := p.stages.map fun x => { x with inv := k, told := k } }) s, true)

def resumeMade (pad : Nat) (g : Fin 2) (s : State) : State :=
  let up (x : Gen) : Gen := { x with records := x.records.map fun r => if r.pad == pad then { r with resumes := r.resumes + 1 } else r }
  { s with snaps := { s.snaps with gens := s.snaps.gens.set g (up s.snaps.gens[g]) } }

def resumeOver (pad : Nat) (ok : Bool) (s : State) : State :=
  let bit : W32 := BitVec.ofNat 32 (2 ^ pad)
  { s with snaps := { s.snaps with restart := s.snaps.restart.map fun r =>
      { r with toResume := r.toResume.filter (· != pad), resumed := if ok then r.resumed ||| bit else r.resumed, notRes := if ok then r.notRes else r.notRes ||| bit } } }

/-- AUTO_RESUME of a paddock that waits for it, in ascending order of the paddocks (R471). Where the load fails admission the paddock is left idle. -/
def autoResume (pad : Nat) (s : State) : State :=
  let due := match s.snaps.restart with | some r => r.ended && r.toResume.contains pad | none => false
  match due, currentGen s with
  | true, some g => if gransWait s (restoreDue s g (· == pad)) then s else match (s.snaps.gens[g]).records.find? fun r => r.pad == pad with
    | none => resumeOver pad false (loseCarry pad (modPad pad (fun d => { d with resuming := false }) s))
    | some r =>
      let s := resumeMade pad g (clearMixer pad s)
      let s := restoreGrans g (· == pad) (resumeServing pad r s)
      let (s, ok) := resumePipe pad r s
      if ok then
        bump 1153 1 (resumeOver pad true (modPad pad (fun d => { d with resuming := false, carryPipe := false, carrySeqs := [], carryBatches := 0 }) s))
      else
        let s := modPad pad (fun d => { d with resuming := false, carrySeqs := [], carryBatches := 0 }) s
        resumeOver pad false (loseCarry pad (dropServing pad false s))
  | true, none => resumeOver pad false (loseCarry pad (modPad pad (fun d => { d with resuming := false }) s))
  | false, _ => s

/-- RESTART_DONE falls due (R470). -/
def restartOver (s : State) : State :=
  match s.snaps.restart with
  | some r => if r.ended && r.toResume.isEmpty then restartDone s else s
  | none => s

end Sys2Proof.Machine
end

