-- ==== Sys2Proof/Machine/Spares.lean ====
section
/-! DEFINITION. Wires and their spares, requested retirements, and the loss of a half (R367, R455 to R460, R483 to R485). -/

namespace Sys2Proof.Machine

/-! ## Wires (R457, R458) -/

def freshWires (u : WireUnit) (toHigh : Bool) : WireSt := { unit := u, toHigh := toHigh, spared := [], dead := [], used := 0, half := false }

def getWires (s : State) (u : WireUnit) (toHigh : Bool) : WireSt :=
  match s.mesh.wires.find? fun w => w.unit == u && w.toHigh == toHigh with
  | some w => w
  | none => freshWires u toHigh

def dropWires (u : WireUnit) (toHigh : Bool) (s : State) : State :=
  { s with mesh := { s.mesh with wires := s.mesh.wires.filter fun w => !(w.unit == u && w.toHigh == toHigh) } }

def putWires (w : WireSt) (s : State) : State :=
  let s := dropWires w.unit w.toHigh s
  { s with mesh := { s.mesh with wires := w :: s.mesh.wires } }

/-- Data wires of one direction (R149, R455). -/
def dataWires (u : WireUnit) : Nat := match u with | .mesh _ => 1024 | _ => 256

/-- Wires of one direction that spares replace: a mesh link's data wires, then its 32 check wires (R149). -/
def lineWires (u : WireUnit) : Nat := match u with | .mesh _ => 1056 | _ => 256

/-- The two logical cores of a mesh link, the one of lower coordinates first. -/
def linkEnds (l : Nat) : Nat × Nat :=
  let x := l / 2 % 64
  let y := l / 128
  (coreAt x y, if l % 2 = 0 then coreAt (x + 1) y else coreAt x (y + 1))

/-- The link or group exists (R148, R456), and the halves it joins are in service. -/
def wireLive (s : State) (u : WireUnit) : Bool :=
  match u with
  | .mesh l => decide ((l.val % 2 = 0 ∧ l.val / 2 % 64 < 63) ∨ (l.val % 2 = 1 ∧ l.val / 128 < 15)) && halfIn s ((linkEnds l.val).1 / 512) &&
      halfIn s ((linkEnds l.val).2 / 512)
  | .edge e g => decide (e.val % 6 < 4 ∨ g.val < 8) && halfIn s (e.val / 6)
  | .seam _ => halfIn s 0 && halfIn s 1

/-- A LINK entry of a link or group. -/
def wireErr (u : WireUnit) (code : Byte) (sev : BitVec 2) : Err :=
  match u with
  | .mesh l => linkErr code sev 0x06 l.val 0 0 0 0 0
  | .edge e g => linkErr code sev 0x07 e.val g.val 0 0 0 0
  | .seam g => linkErr code sev 0x08 g.val g.val 0 0 0 0

/-- A wire belongs to the upper half of the wires; the check wires are halved as the data wires are (DESIGN CHOICE, log 121). -/
def upperWire (u : WireUnit) (i : Nat) : Bool :=
  if i < dataWires u then decide (dataWires u / 2 ≤ i) else decide ((dataWires u + lineWires u) / 2 ≤ i)

/-- Failed wires of one half of the wires. -/
def failedIn (w : WireSt) (upper : Bool) : Nat := ((w.spared.map Prod.fst ++ w.dead).filter fun i => upperWire w.unit i == upper).length

/-- The working spares can make one half of the wires whole (R458). -/
def halfWhole (w : WireSt) : Bool := decide (failedIn w false ≤ w.spared.length) || decide (failedIn w true ≤ w.spared.length)

/-- Quadrants of a half that paddocks hold. -/
def quadsGiven (s : State) (half : Nat) : Nat := s.pads.foldl (fun a e => a + ((unitList e.2.quads).filter fun q => q / 16 == half).length) 0

def dueLoss (west : Bool) (s : State) : State := { s with snaps := { s.snaps with lossDue := s.snaps.lossDue ++ [west] } }

/-- What becomes of a link or group that no half of its wires serves (R458). For a mesh link between two quadrants the spec states nothing more. -/
def unitGone (u : WireUnit) (toHigh : Bool) (s : State) : State :=
  match u with
  | .mesh l =>
    let e := linkEnds l.val
    if coreQuad e.1 = coreQuad e.2 then
      let n := max e.1 e.2
      let t := judgeCore n s
      if (getCore t n).site = (getCore s n).site then t else dropWires u toHigh t
    else s
  | .edge e _ => dueLoss (decide (6 ≤ e.val)) s
  | .seam _ => dueLoss (decide (quadsGiven s 1 ≤ quadsGiven s 0)) s

/-- The compute die at which one direction of a die edge ends, or that an edge to an I/O die joins; the west half mirrors the east one (R17, R461). -/
def edgeDie (e : Nat) (toHigh : Bool) : Nat :=
  let h := e / 6
  let outer := toHigh == (h == 0)
  4 * h + (match e % 6 with
    | 0 => if outer then 1 else 0
    | 1 => if outer then 3 else 2
    | 2 => if toHigh then 2 else 0
    | 3 => if toHigh then 3 else 1
    | 4 => 1
    | _ => 3)

/-- The counter of corrected wire errors of a link or group: of the die at its receiving end, or of the seam group (R491; DESIGN CHOICE, log 133). -/
def wireCounter (u : WireUnit) (toHigh : Bool) : Nat :=
  match u with
  | .mesh l => 1040 + coreDie (if toHigh then (linkEnds l.val).2 else (linkEnds l.val).1)
  | .edge e _ => 1040 + edgeDie e.val toHigh
  | .seam g => 1048 + g.val

/-- The errors of a wire that were corrected before it was judged failed are counted; how many is a free number (R455, R491; log 133). -/
def countWire (u : WireUnit) (toHigh : Bool) (s : State) : State := bump (wireCounter u toHigh) (Config.freeChoice s.free) (useFree s)

/-- The wire still serves a link or group that exists. -/
def wireServes (u : WireUnit) (toHigh : Bool) (wire : Nat) (s : State) : Bool :=
  awake s && wireLive s u && decide (wire < lineWires u) && !(getWires s u toHigh).dead.contains wire

/-- A wire judged failed: a spare replaces it, or the link or group runs at half width, or no half of its wires serves (R457, R458). -/
def wireGone (u : WireUnit) (toHigh : Bool) (wire : Nat) (s : State) : State :=
  let w := getWires s u toHigh
  let w := { w with spared := w.spared.filter fun x => x.1 != wire }
  if w.used < 16 then
    report (wireErr u 0x09 1) (putWires { w with spared := w.spared ++ [(wire, w.used)], used := w.used + 1 } s)
  else
    let w := { w with dead := w.dead ++ [wire] }
    if halfWhole w then
      if w.half then putWires w s
      else
        recheck (fun recs paths _ => paths.any fun p => (pathSteps recs p).any fun r => (steps r).any fun x => crosses u toHigh x)
          (report (wireErr u 0x0A 2) (putWires { w with half := true } s))
    else unitGone u toHigh (putWires w s)

/-- WIRE_FAILED: a data or check wire, or the spare that serves in its place, has failed. -/
def wireFails (u : WireUnit) (toHigh : Bool) (wire : Nat) (s : State) : State :=
  if wireServes u toHigh wire s then wireGone u toHigh wire (countWire u toHigh s) else s

/-! ## RES_RETIRE (R460, R492) -/

/-- A write of RES_RETIRE with GO: ignored while a requested retirement is in progress. -/
def retireGo (n : Nat) (s : State) : State :=
  if s.snaps.retBusy then s
  else
    let s := { s with snaps := { s.snaps with retCore := BitVec.ofNat 10 n } }
    if !halfIn s (n / 512) || (getCore s n).out then s
    else
      let s := judgeCore n s
      { s with snaps := { s.snaps with retBusy := (getCore s n).retire } }

/-! ## The loss of a half (R484, R485) -/

/-- A device post lies on a die of the half. -/
def postLost (w : Bool) (d : Nat) : Bool := decide (4 ≤ postDie d) == w

/-- A die, 8 and 9 for the I/O dies, lies in the half. -/
def dieLost (w : Bool) (die : Nat) : Bool := if die < 8 then decide (4 ≤ die) == w else decide (die = 9) == w

/-- Numbers of a mask of quadrants or units in the half. -/
def lostOf (w : Bool) (mask : W32) : List Nat := (unitList mask).filter fun i => decide (16 ≤ i) == w

/-- What lies in the half goes with its power: memory, Loft, posts, cores, ports, check units, copies and repairs in progress. -/
def darken (w : Bool) (s : State) : State :=
  let h := b2n w
  let i : Fin 2 := hIdx w
  let live (half : Bool) : Bool := half != w
  let s := { s with snaps := { s.snaps with halves := setBit s.snaps.halves h false, dark := setBit s.snaps.dark h true } }
  let s := setHost i { s.hosts[i] with up := false } s
  let s := (List.range 18).foldl (fun t k =>
    let p : Fin 36 := Fin.ofNat 36 (18 * h + k)
    modPort p (fun x => { x with state := if x.present then .disabled else .noCable, width := 0, recovering := false }) (portLoses p (dropTargets p t))) s
  let m := s.mem
  let commons := (lostOf w 0xFFFFFFFF).foldl (fun m u => mzero m (67108864 * u) 67108864) m.commons
  let s := { s with mem := { m with stack := m.stack.set i [], barn := m.barn.set i [], commons := commons,
                                    cpoison := m.cpoison.filter (fun u => live (decide (16 ≤ u / 1048576))), poison := m.poison.filter (fun x => live x.1),
                                    dirty := m.dirty.filter (fun e => live (decide (524288 ≤ e.1))), tozero := m.tozero.filter fun z => live z.half } }
  let s := dropAdds (fun r => r.half == w) s
  let s := dropOpen (fun k => keyHalf k == w) (discardFrames (fun k => keyHalf k == w) s)
  let s := { s with loft := { s.loft with cdir := s.loft.cdir.filter (fun e => live (decide (16 ≤ e.1 / 65536))),
                                          retire := s.loft.retire.filter (fun x => live (decide (4 ≤ x.1.toNat))),
                                          retireDue := s.loft.retireDue.filter fun x => live (decide (4 ≤ x.1)) },
                    stk := { s.stk with standing := s.stk.standing.filter (fun x => live (decide (8 ≤ x.stack.val))),
                                        installing := s.stk.installing.filter (fun x => live (decide (8 ≤ x.stack.val))),
                                        lost := s.stk.lost.filter (fun x => live (decide (8 ≤ x.stack.val))),
                                        refetch := s.stk.refetch.filter fun x => live x.1 },
                    posts := { s.posts with cnt := s.posts.cnt.filter (fun e => !postLost w e.1), upds := s.posts.upds.filter fun u => !postLost w u.post } }
  let s := settleReq { s with xlt := { s.xlt with held := s.xlt.held.filter fun r => match r.src with | .aperture f _ _ => f.port != i | _ => true } }
  let arms := (s.links.checks.filter fun e => dieLost w (8 + e.1 / 8)).flatMap fun e => e.2.arms.filterMap Prod.fst
  let copies := s.drays.xfers.filterMap fun x => match x.src with | .copy q p => if p = i then some q else none | .queue _ _ _ => none
  let s := loseCmds (fun c => arms.contains c.seq || copies.contains c.seq) s
  let s := dropXfers (fun x => match x.src with | .copy _ p => p == i | .queue _ _ _ => false) s
  { s with links := { s.links with checks := s.links.checks.filter fun e => !dieLost w (8 + e.1 / 8) } }

/-- The generations keep what they hold of the other half, and a running mark is cut off (R478). -/
def darkenGens (w : Bool) (s : State) : State :=
  let s := cutMark s
  { s with snaps := { s.snaps with gens := s.snaps.gens.map fun g => { g with grans := g.grans.filter (fun m => m.half != w), placed := g.placed.filter fun x => x.1 != w } } }

/-- Streams to a target on a port of the half end. -/
def darkenStreams (w : Bool) (s : State) : State :=
  let gone (x : Stream) : Bool := decide (18 ≤ (getTgt s x.p.target.toNat).port.toNat) == w
  let s' := setStreams (s.snaps.streams.filter fun x => !gone x) s
  (s.snaps.streams.filter gone).foldl (fun t x => statusOpt x.cmd lostCode [] t) s'

/-- The paddock holds a quadrant, unit, device post, dray queue or mapped extent in the half (R484). -/
def affected (s : State) (w : Bool) (e : Nat × Pad) : Bool :=
  let d := e.2
  !(lostOf w (d.quads ||| (d.cache ||| d.commons))).isEmpty || (d.posts.any fun p => postLost w p) ||
  (s.drays.queues.any fun q => q.2.pad == e.1 && dieLost w q.2.cfg.die.toNat) || (s.xlt.granules.any fun r => r.half == w && r.ctx.toNat / 1024 == e.1) ||
  (s.xlt.spaces.any fun t => t.2.valid && t.2.pad == e.1 && t.2.table.any fun x => x.half == w)

/-- Commands of an affected paddock whose work lay in the half (R367). -/
def halfLoses (s : State) (w : Bool) (pad : Nat) (c : Cmd) : Bool :=
  c.hdr.paddock.toNat == pad && c.began && (match c.body with
    | .postWait p _ _ => (match padPost s pad p.toNat with | some d => postLost w d | none => false)
    | .copy p => descCompute p.desc || s.drays.xfers.any fun x => (match x.src with | .copy q _ => q == c.seq | .queue _ _ _ => false) && dieLost w x.die
    | _ => false)

/-- A job or pipeline command of a paddock that has been taken and has not begun. -/
def jobWaits (pad : Nat) (c : Cmd) : Bool :=
  c.hdr.paddock.toNat == pad && !c.began && (match c.body with | .jobLaunch _ => true | .pipeStart _ => true | .pipeMove _ => true | _ => false)

/-- Every job of a paddock is lost and its pipeline unloaded (R484). -/
def loseJobs (w : Bool) (pad : Nat) (s : State) : State :=
  let s := loseCmds (jobWaits pad) (loseUnbegun (jobWaits pad) s)
  let gone := s.ym.cmds.filter (halfLoses s w pad)
  let s := loseCmds (fun c => gone.any fun x => x.seq == c.seq) s
  let s := dropXfers (fun x => match x.src with | .copy q _ => gone.any fun c => c.seq == q | .queue d _ _ => x.pad == pad && dieLost w d) s
  let s := { s with posts := { s.posts with waits := s.posts.waits.filter fun x => match x.who with | .cmd q => !gone.any fun c => c.seq == q | _ => true },
                    snaps := { s.snaps with restart := s.snaps.restart.map fun r => { r with toResume := r.toResume.filter (· != pad) } } }
  let s := dropServing pad false (unloadPipe pad false (loseLaunches pad (stopCompute pad s)))
  loseCarry pad (modPad pad (fun d => { d with resuming := false }) s)

/-- n numbers of the other half that a predicate calls free, or none where there are not so many. -/
def replacements (w : Bool) (n : Nat) (free : Nat → Bool) : Option (List Nat) :=
  let l := ((List.range 32).filter fun i => decide (16 ≤ i) != w && free i).take n
  if l.length = n then some l else none

def swapMask (w : Bool) (mask : W32) (new : List Nat) : W32 :=
  BitVec.ofNat 32 (((unitList mask).filter fun i => decide (16 ≤ i) != w).foldl (fun m i => m + 2 ^ i) 0 + new.foldl (fun m i => m + 2 ^ i) 0)

/-- Lost posts of a paddock replaced, each in its place. -/
def swapPosts (w : Bool) (posts free : List Nat) : Option (List Nat) :=
  match posts with
  | [] => some []
  | p :: r =>
    if postLost w p then (match free with
      | [] => none
      | f :: fs => (swapPosts w r fs).map fun l => f :: l)
    else (swapPosts w r free).map fun l => p :: l

/-- The re-placed paddock, if the surviving half can replace what it lost (R485). -/
def replacePad (s : State) (w : Bool) (d : Pad) : Option Pad :=
  let held (f : Pad → W32) (i : Nat) : Bool := s.pads.any fun e => (f e.2).getLsbD i
  let units := fun (x : Pad) => x.cache ||| x.commons
  match replacements w (lostOf w d.quads).length (fun i => !held (fun x => x.quads) i),
    replacements w (lostOf w (units d)).length (fun i => !held units i) with
  | some qs, some us =>
    let nc := (lostOf w d.cache).length
    match swapPosts w d.posts ((List.range 8).flatMap fun i => if dieLost w i then [] else freePosts s i) with
    | some ps => some { d with quads := swapMask w d.quads qs, cache := swapMask w d.cache (us.take nc), commons := swapMask w d.commons (us.drop nc), posts := ps,
                               budgets := d.budgets.zipIdx.map fun b => if decide (b.2 % 2 = 1) == w then 0 else b.1 }
    | none => none
  | _, _ => none

/-- Extents and share entries homed in the half go from every tag (R485). -/
def darkenExtents (w : Bool) (s : State) : State :=
  let s := s.xlt.spaces.foldl (fun t e =>
    if e.2.table.any fun x => x.half == w then
      let gone := e.2.table.filter fun x => x.half == w && x.migr
      let sp := getSpace t e.1
      dropMig e.1 { cmd := none, freed := gone.map Extent.run, unshare := [], indices := gone.map fun x => x.index, mapped := none } (setSpace e.1 { sp with table := sp.table.filter (fun x => x.half != w), epoch := sp.epoch + 1, prev := (sp.epoch, sp.table) :: sp.prev } (dropOldLook e.1 (sp.epoch + 1) t))
    else t) s
  { s with xlt := { s.xlt with granules := s.xlt.granules.filter fun r => r.half != w } }

/-- One affected paddock: its jobs are lost, and it is re-placed or removed. -/
def resettle (w : Bool) (pad : Nat) (s : State) : State :=
  let s := loseJobs w pad s
  match getPad s pad with
  | none => s
  | some d => match replacePad s w d with
    | none => removePad pad s
    | some e =>
      let moved := (d.posts.zip e.posts).filter fun x => x.1 != x.2
      let waits := s.posts.waits.map fun x => match x.post with
        | some p => (match moved.find? fun m => m.1 == p with | some m => { x with post := some m.2 } | none => x)
        | none => x
      let s := setPad pad { e with spillUsed := e.spillUsed.filter fun n => decide (65536 ≤ n) != w } (zeroPosts (moved.map Prod.snd) s)
      { s with posts := { s.posts with waits := waits }, drays := { s.drays with queues := s.drays.queues.filter fun q => !(q.2.pad == pad && dieLost w q.2.cfg.die.toNat) } }

/-- The loss of a half (R484). -/
def loseHalf (w : Bool) (s : State) : State :=
  if !awake s || !halfIn s (b2n w) then s
  else
    let hit := s.pads.filter fun e => !(e.2.p.port == w) && affected s w e
    let order := (hit.filter fun e => e.2.p.lc) ++ hit.filter fun e => !e.2.p.lc
    let s := darkenStreams w (darkenGens w (darken w s))
    let s := report { linkErr 0x0D 3 0x0E 0 (b2n w) 0 0 0 0 with needack := true } s
    let s := (s.pads.filter fun e => e.2.p.port == w).foldl (fun t e => removePad e.1 t) s
    darkenExtents w (order.foldl (fun t e => resettle w e.1 t) s)

/-- DEV.HALFLOSS (R372, R484). -/
def beginHalfloss (c : Cmd) (half : Byte) (s : State) : State :=
  let own := match ringFunc s c.hdr.ring.val with | some (h, _) => h.val | none => 2
  if 1 < half.toNat || half.toNat = own then refuseCmd c.seq s
  else writeStatus c.seq done [] (loseHalf (decide (half.toNat = 1)) s)

end Sys2Proof.Machine
end

