-- ==== Sys2Proof/Machine/Sec.lean ====
section
/-! DEFINITION. Gatehouse: attestation, SPDM, debug tokens, confidential mode (R391, R513 to R528, R532). -/

namespace Sys2Proof

/-! ## Firmware images (R515, R516) -/

/-- A field of the header: n bytes from byte o on, little-endian. -/
def Image.field (img : Image) (o n : Nat) : Nat := Machine.fldAt img.header o n

def Image.version (img : Image) : W32 := BitVec.ofNat 32 (img.field 8 4)

def Image.svn (img : Image) : W16 := BitVec.ofNat 16 (img.field 12 2)

/-- LENGTH: the image's bytes with its header. -/
def Image.length (img : Image) : Nat := img.field 16 4

/-- PARTS: offset and length of the Yardmaster, Lodge and Weathervane programs. -/
def Image.parts (img : Image) : List (Nat × Nat) := [0, 1, 2].map fun i => (img.field (24 + 8 * i) 4, img.field (28 + 8 * i) 4)

/-- The header's own checks: MAGIC, LENGTH within its bounds, PARTS within LENGTH, reserved bytes zero. -/
def Image.headerOk (img : Image) : Bool :=
  img.header.length == 256 && img.header.take 8 == [0x56, 0x51, 0x44, 0x5A, 0x46, 0x57, 0x49, 0x4D] &&
  decide (img.length % 4096 = 0 ∧ 256 ≤ img.length ∧ img.length ≤ 67108864) && (img.parts.all fun p => decide (p.1 + p.2 ≤ img.length)) &&
  img.field 14 2 == 0 && img.field 20 4 == 0 && ((img.header.drop 48).take 80).all fun b => b == 0

/-- The checks of R516 but for the fused minimum. -/
def Image.check (img : Image) : ImageCheck :=
  if !img.readable then .readFailed else if !img.headerOk then .header else if !img.signed then .signature else .ok

end Sys2Proof

namespace Sys2Proof.Machine

def digestBytes (d : BitVec 256) : List Byte := leBytes 32 d.toNat

def setSec (f : Sec → Sec) (s : State) : State := { s with sec := f s.sec }

/-- The half whose instances lead (R16). -/
def leadHalf (s : State) : Nat := if halfIn s 0 then 0 else 1

/-- A SEC entry of the leading Gatehouse. -/
def secErr (s : State) (code : Byte) (sev : BitVec 2) (pad : Byte) (version : W32) : Err := quantErr 7 code sev pad 0x0D (0x10 + leadHalf s) version.toNat

/-! ## Keys and certificates (R513, R514) -/

def aliasCert (s : State) : List Byte := Config.aliasCertificate (Config.publicKey s.sec.aliasKey) s.sec.meas.toList s.sec.idKey

/-- The chain of slot 0 as far as the DZ1 holds it: intermediate, device and alias certificates. -/
def certChain (s : State) : List Byte := Config.certificate 2 ++ Config.certificate 3 ++ aliasCert s

/-- A signature by the alias key over SHA-256 of some bytes: r then s. -/
def aliasSign (s : State) (bs : List Byte) : List Byte := leBytes 64 (Config.ecdsaSign s.sec.aliasKey (Config.sha256 bs)).toNat

/-! ## The attestation report (R525) -/

/-- MAGIC: "VQDZATTR". -/
def reportMagic : List Byte := [0x56, 0x51, 0x44, 0x5A, 0x41, 0x54, 0x54, 0x52]

/-- Bytes 204 to 207 of the report: fuse, image and debug state, halves. -/
def stateBytes (s : State) : List Byte :=
  [BitVec.ofNat 8 (b2n s.sec.prod + 2 * b2n s.sec.hostimg + 4 * b2n s.sec.dbgopen + 8 * b2n s.sec.dbgever), BitVec.ofNat 8 s.snaps.halves.toNat, 0, 0]

def reportHead (s : State) (scopeP : Bool) (n : Nat) (nonce : BitVec 256) : List Byte :=
  reportMagic ++ leBytes 2 1 ++ leBytes 2 (320 + 64 * n) ++ [BitVec.ofNat 8 n, BitVec.ofNat 8 (b2n scopeP), 0, 0] ++
  leBytes 6 Config.deviceId.toNat ++ [0, 0] ++ digestBytes nonce ++ leBytes 8 s.beat.count.toNat ++ s.sec.meas.toList.flatMap digestBytes ++
  leBytes 4 s.sec.version.toNat ++ leBytes 2 s.sec.svn.toNat ++ leBytes 2 s.sec.fusedSvn.toNat ++ [0, 0, 0, 0] ++ stateBytes s ++
  digestBytes (Config.sha256 (aliasCert s)) ++ List.replicate 16 (0 : Byte)

def reportEntry (e : Nat × Pad) : List Byte :=
  let d := e.2
  [BitVec.ofNat 8 e.1,
   BitVec.ofNat 8 (b2n d.conf.isSome + 2 * b2n d.p.lc + 4 * b2n d.p.autores + 8 * d.p.serve.toNat + 32 * b2n d.p.port), BitVec.ofNat 8 d.vf, 0] ++
  leBytes 4 d.quads.toNat ++ leBytes 4 d.cache.toNat ++ leBytes 4 d.commons.toNat ++ leBytes 2 d.p.taglo.toNat ++ leBytes 2 d.p.ntag.toNat ++
  [BitVec.ofNat 8 d.p.winlo.toNat, 0] ++ leBytes 2 d.p.nwin.toNat ++ leBytes 2 d.posts.length ++ leBytes 2 0 ++
  d.budgets.toList.flatMap (fun b => leBytes 4 b) ++ leBytes 4 (match d.conf with | some c => c.session.toNat | none => 0) ++ List.replicate 16 (0 : Byte)

/-- The report without SIG: of every paddock, or of one (scope P). -/
def reportBody (s : State) (pad : Option Nat) (nonce : BitVec 256) : List Byte :=
  let es := match pad with | none => s.pads | some p => s.pads.filter fun e => e.1 == p
  reportHead s pad.isSome es.length nonce ++ es.flatMap reportEntry

def reportBytes (s : State) (pad : Option Nat) (nonce : BitVec 256) : List Byte :=
  let b := reportBody s pad nonce
  b ++ aliasSign s b

/-- ATT.REPORT (R391). -/
def beginReport (c : Cmd) (dest : W64) (size : W32) (nonce : BitVec 256) (s : State) : State :=
  if dest.toNat % 4096 ≠ 0 then refuseCmd c.seq s
  else
    let pad := if c.hdr.paddock = 0xFF then none else some c.hdr.paddock.toNat
    let bs := reportBytes s pad nonce
    if size.toNat < bs.length then writeStatus c.seq noResource [] s
    else
      let s := match ringFunc s c.hdr.ring.val with
        | some (h, fn) => if funcUp s h fn then hostWrites h dest.toNat bs s else s
        | none => s
      writeStatus c.seq done (leBytes 4 bs.length) s

/-! ## SPDM (R522 to R524) -/

/-- The endpoint can be reached: a function of a host port that is up, or the sideband (R30, R522). -/
def endpointUp (s : State) (e : Endpoint) : Bool :=
  s.pins.p48vOk && (match e with | .func f => s.pins.pwrOk && funcUp s f.port f.vf.val | .sideband => true)

/-- A response: version, code, two parameters, and what follows. The codes are those of DSP0274 (PRESUMED, log 31). -/
def spdmReply (code p1 p2 : Nat) (bs : List Byte) (s : State) : State :=
  withReply ([0x12, BitVec.ofNat 8 code, BitVec.ofNat 8 p1, BitVec.ofNat 8 p2] ++ bs) s

/-- The ERROR response: 1 invalid request, 3 busy, 4 unexpected request, 6 decrypt error. -/
def spdmError (e : Nat) (s : State) : State := spdmReply 0x7F e 0 [] s

/-- How far the connection of an endpoint has come: 1 version, 2 capabilities, 3 algorithms. -/
def connStage (s : State) (e : Endpoint) : Nat := match s.sec.conns.find? fun c => c.ep == e with | some c => c.stage | none => 0

def setConn (e : Endpoint) (n : Nat) (s : State) : State :=
  setSec (fun x => { x with conns := { ep := e, stage := n } :: x.conns.filter fun c => c.ep != e }) s

/-- A request that needs an endpoint that can be reached and a connection that has come so far. -/
def onConn (e : Endpoint) (n : Nat) (f : State → State) (s : State) : State :=
  if !endpointUp s e then s else if connStage s e < n then spdmError 4 s else f s

def getVersionOp (e : Endpoint) : State → State := onConn e 0 fun s => spdmReply 0x04 0 0 [0, 2, 0x00, 0x12, 0x00, 0x13] (setConn e 1 s)

/-- The capability flags of R522: CERT, CHAL, MEAS with signature, ENCRYPT, MAC, KEY_EX, HBEAT, KEY_UPD. -/
def capabilityFlags : Nat := 0x2 + 0x4 + 0x10 + 0x40 + 0x80 + 0x200 + 0x2000 + 0x4000

def getCapabilitiesOp (e : Endpoint) : State → State := onConn e 1 fun s =>
  spdmReply 0x61 0 0 ([0, 0, 0, 0] ++ leBytes 4 capabilityFlags) (setConn e 2 s)

/-- NEGOTIATE_ALGORITHMS: agreed where the requester offers the algorithms of R522. -/
def negotiateOp (e : Endpoint) (agreed : Bool) : State → State := onConn e 2 fun s =>
  if agreed then spdmReply 0x63 0 0 [] (setConn e 3 s) else spdmError 1 s

def getDigestsOp (e : Endpoint) : State → State := onConn e 3 fun s => spdmReply 0x01 0 1 (digestBytes (Config.sha256 (certChain s))) s

def getCertificateOp (e : Endpoint) (slot : Byte) (offset length : W16) : State → State := onConn e 3 fun s =>
  let chain := certChain s
  if slot != 0 || chain.length < offset.toNat then spdmError 1 s
  else
    let part := (chain.drop offset.toNat).take length.toNat
    spdmReply 0x02 0 0 (leBytes 2 part.length ++ leBytes 2 (chain.length - offset.toNat - part.length) ++ part) s

def challengeOp (e : Endpoint) (slot : Byte) (nonce : BitVec 256) : State → State := onConn e 3 fun s =>
  if slot != 0 then spdmError 1 s
  else
    let body := digestBytes (Config.sha256 (certChain s)) ++ digestBytes (Config.sha256 (s.sec.meas.toList.flatMap digestBytes))
    spdmReply 0x03 0 1 (body ++ aliasSign s (digestBytes nonce ++ body)) s

/-- The paddock of an endpoint's virtual function. -/
def endpointPad (s : State) (e : Endpoint) : Option Nat :=
  match e with
  | .sideband => none
  | .func f => if f.vf.val = 0 then none else (s.pads.find? fun x => (x.2.p.port == decide (f.port.val = 1)) && x.2.vf == f.vf.val).map Prod.fst

/-- The value of a measurement index (R523). -/
def measurementValue (s : State) (e : Endpoint) (i : Nat) : Option (List Byte) :=
  match i with
  | 1 => some (digestBytes s.sec.meas[0])
  | 2 => some (digestBytes s.sec.meas[1])
  | 3 => some (digestBytes s.sec.meas[2])
  | 4 => some (digestBytes s.sec.meas[3])
  | 5 => some (stateBytes s)
  | 0x10 => some (reportBody s (endpointPad s e) 0)
  | _ => none

/-- A measurement block in the DMTF form (PRESUMED, log 31): index, specification 1, size, value type, value size, value. -/
def measurementBlock (i : Nat) (v : List Byte) : List Byte :=
  [BitVec.ofNat 8 i, 1] ++ leBytes 2 (v.length + 3) ++ [if i = 1 then 0 else if i ≤ 4 then 1 else 0x83] ++ leBytes 2 v.length ++ v

/-- GET_MEASUREMENTS: of an index, of all (0xFF), or their count (0). -/
def getMeasurementsOp (e : Endpoint) (index : Byte) (signed : Bool) (nonce : BitVec 256) : State → State := onConn e 3 fun s =>
  let all := [1, 2, 3, 4, 5, 16]
  let pick := if index = 0xFF then all else if index = 0 then [] else [index.toNat]
  if pick.any fun i => (measurementValue s e i).isNone then spdmError 1 s
  else
    let blocks := pick.flatMap fun i => measurementBlock i ((measurementValue s e i).getD [])
    let sig := if signed then digestBytes nonce ++ aliasSign s (digestBytes nonce ++ blocks) else []
    spdmReply 0x60 (if index = 0 then all.length else 0) 0 ([BitVec.ofNat 8 pick.length] ++ leBytes 3 blocks.length ++ blocks ++ sig) s

/-- KEY_EXCHANGE: a session identifier of the requester's half and the responder's; Busy beyond 64 sessions (R522). -/
def keyExchangeOp (e : Endpoint) (reqId : W16) (exchange : BitVec 512) : State → State := onConn e 3 fun s =>
  if 64 ≤ s.sec.sessions.length then spdmError 3 s
  else
    let rsp := s.sec.nextSess.toNat % 65536
    let id : W32 := BitVec.ofNat 32 (reqId.toNat + 65536 * rsp)
    let x : Session := { id := id, ep := e, isOpen := false, secret := Config.sessionSecret id exchange, epoch := 0 }
    spdmReply 0x64 0 0 (leBytes 2 rsp ++ aliasSign s (leBytes 64 exchange.toNat))
      (setSec (fun c => { c with sessions := c.sessions ++ [x], nextSess := c.nextSess + 1 }) s)

def findSession (s : State) (id : W32) : Option Session := s.sec.sessions.find? fun x => x.id == id

def dropSession (id : W32) (s : State) : State := setSec (fun c => { c with sessions := c.sessions.filter fun x => x.id != id }) s

/-- FINISH: the handshake is complete, or the session goes where its MAC does not verify. -/
def spdmFinishOp (e : Endpoint) (id : W32) (macOk : Bool) (s : State) : State :=
  if !endpointUp s e then s
  else match findSession s id with
    | none => spdmError 4 s
    | some x =>
      if x.ep != e || x.isOpen then spdmError 4 s
      else if !macOk then spdmError 6 (dropSession id s)
      else spdmReply 0x65 0 0 [] (setSec (fun c => { c with sessions := mapWhere (fun y => y.id == id) (fun y => { y with isOpen := true }) c.sessions }) s)

/-- A message in an open session of its endpoint (R524). -/
def inSession (e : Endpoint) (id : W32) (f : State → State) (s : State) : State :=
  if !endpointUp s e then s
  else match findSession s id with
    | none => spdmError 4 s
    | some x => if x.ep == e && x.isOpen then f s else spdmError 4 s

def heartbeatOp (e : Endpoint) (id : W32) : State → State := inSession e id fun s => spdmReply 0x68 0 0 [] s

def keyUpdateOp (e : Endpoint) (id : W32) : State → State := inSession e id fun s =>
  spdmReply 0x69 1 0 [] (setSec (fun c => { c with sessions := mapWhere (fun y => y.id == id) (fun y => { y with epoch := y.epoch + 1 }) c.sessions }) s)

def endSessionOp (e : Endpoint) (id : W32) : State → State := inSession e id fun s => spdmReply 0x6C 0 0 [] (dropSession id s)

/-- SESSION_HEARTBEAT_EXPIRY: an open session ends. -/
def sessionExpiry (id : W32) (s : State) : State := if (findSession s id).any fun x => x.isOpen then dropSession id s else s

/-! ## Debug (R520, R521) -/

/-- DEBUG_TOKEN: refused while a confidential paddock exists. -/
def debugTokenOp (valid : Bool) (s : State) : State :=
  if !s.pins.p48vOk || !s.pins.pwrOk || !valid || anyConf s || s.sec.dbgopen then s
  else
    let s := setSec (fun x => { x with dbgopen := true, dbgever := true, dbgNext := true }) s
    report (secErr s 0x03 0 0xFF s.sec.version) s

/-! ## CONF.ENTER (R391, R526, R528) -/

/-- ASCII of "vqdz1 bounce h2d" and "vqdz1 bounce d2h". -/
def bounceInfo (d2h : Bool) : List Byte :=
  [0x76, 0x71, 0x64, 0x7A, 0x31, 0x20, 0x62, 0x6F, 0x75, 0x6E, 0x63, 0x65, 0x20] ++ (if d2h then [0x64, 0x32, 0x68] else [0x68, 0x32, 0x64])

/-- CONF.ENTER is not refused. -/
def confOk (s : State) (pad : Nat) (p : ConfParams) : Bool :=
  match getPad s pad with
  | none => false
  | some d =>
    let own (e : Endpoint) : Bool := match e with | .func f => decide (f.port.val = 1) == d.p.port && f.vf.val == d.vf | .sideband => false
    p.bounce.toNat % 4096 == 0 && decide (2 ≤ p.pages.toNat) && d.conf.isNone && padState d == 0 &&
    (s.sec.sessions.any fun x => x.id == p.session && x.isOpen && own x.ep) &&
    ((padTags d.p).all fun t => (getSpace s t).mig == 0 && (getSpace s t).table.all fun e => e.spill && e.share.isNone) &&
    !(s.xlt.wins.any fun w => w.2.given && w.2.pad == pad && w.2.isOpen) && !(s.links.sqs.any fun q => q.2.enable && q.2.pad.toNat == pad) && !s.sec.dbgopen

/-- CONF.ENTER: keys, the SEC entry, the pending writes of fields that are now locked (R565), and the spill extents' change, whose end writes the entry. -/
def beginConf (c : Cmd) (p : ConfParams) (s : State) : State :=
  let pad := c.hdr.paddock.toNat
  if !confOk s pad p then refuseCmd c.seq s
  else match getPad s pad, findSession s p.session with
    | some d, some x =>
      let conf : Conf := { session := p.session, bounce := p.bounce, pages := p.pages, keyH2d := Config.hkdfExpand x.secret (bounceInfo false),
                           keyD2h := Config.hkdfExpand x.secret (bounceInfo true), ctrD2h := 1, ctrH2d := 0, authfail := 0, viewed := none }
      let s := modPad pad (fun d => { d with conf := some conf }) { s with shadow := { s.shadow with keepmax := none, migPeriod := none, floor := none } }
      let s := report (secErr s 0x04 0 (BitVec.ofNat 8 pad) s.sec.version) s
      let tag := d.p.taglo.toNat
      if (getSpace s tag).draining.isSome then waitTag tag (.cmd c.seq) s else confSpill c tag s
    | _, _ => s

end Sys2Proof.Machine
end

