-- ==== Sys2Proof/Machine/Panel.lean ====
section
/-! DEFINITION. Host ports and functions (R421 to R423, R495, R496, R539), the service panel (R30 to R38), SB_STATUS (R561, R562). -/

namespace Sys2Proof.Machine

/-! ## Host ports -/

/-- The port can train: the device runs, or the boot ROM waits for an image (R517), in a half that is in service, with PERST deasserted and not held. -/
def hostTrains (s : State) (h : Fin 2) : Bool :=
  (awake s || (s.sec.waiting && s.pins.p48vOk && s.pins.pwrOk)) && halfIn s h.val && !s.pins.perst.getLsbD h.val && !s.hosts[h].hold

/-- The link of a port is down: its functions are reset, and COPY commands on it stop (R422). -/
def hostDown (h : Fin 2) (s : State) : State :=
  stopCopies (fun p _ => p == h) (setHost h { s.hosts[h] with up := false, d3 := 0, numVf := 0 } s)

/-- The entry of a warm start is written once its port is up again (R371, R536). -/
def warmEntries (s : State) : State :=
  (s.ym.cmds.filter fun c => c.began && (match c.body with | .devWarm _ => true | _ => false)).foldl (fun t c =>
    match ringFunc t c.hdr.ring.val with
    | some (h, fn) => if funcUp t h fn then writeStatus c.seq done [] t else t
    | none => writeStatus c.seq done [] t) s

def hostUp (h : Fin 2) (s : State) : State :=
  if hostTrains s h && !s.hosts[h].up then warmEntries (endStopped (setHost h { s.hosts[h] with up := true } s)) else s

/-- PERST of a port reads low. -/
def perstLow (h : Fin 2) (low : Bool) (s : State) : State := { s with pins := { s.pins with perst := setBit s.pins.perst h.val low } }

def perstAssertOp (h : Fin 2) (s : State) : State :=
  let s := setHost h { s.hosts[h] with hold := false } (perstLow h true s)
  if s.pins.p48vOk then hostDown h s else s

/-- PERST is deasserted: before PWR_OK it leaves the port in Detect (R539); after a long assertion it ends STABLED (R496). -/
def perstDeassertOp (h : Fin 2) (long : Bool) (s : State) : State :=
  let s := perstLow h false s
  if !(s.pins.p48vOk && s.pins.pwrOk) then setHost h { s.hosts[h] with hold := true } s
  else if long && s.pwr.state == .stabled then startExit s
  else s

def d3Entry (f : Func) (s : State) : State :=
  let h := f.port
  if !s.hosts[h].up then s
  else stopCopies (fun p fn => p == h && fn == f.vf.val) (setHost h { s.hosts[h] with d3 := setBit s.hosts[h].d3 f.vf.val true } s)

def d0ReturnOp (f : Func) (s : State) : State :=
  let h := f.port
  if !s.hosts[h].up then s else warmEntries (endStopped (setHost h { s.hosts[h] with d3 := setBit s.hosts[h].d3 f.vf.val false } s))

/-- The manager's SR-IOV enable. -/
def sriov (h : Fin 2) (n : Nat) (s : State) : State :=
  if !funcUp s h 0 || s.sec.waiting then s
  else endStopped (stopCopies (fun p fn => p == h && decide (n < fn)) (setHost h { s.hosts[h] with numVf := n } s))

/-! ## The fault LED and SB_STATUS -/

/-- Free core sites of a die. -/
def dieSites (s : State) (d : Nat) : Nat := (List.range 4).foldl (fun a q => a + (freeSites s (4 * d + q)).length) 0

/-- A class of spares is used up somewhere (R35, R318, R326, R460, R510). -/
def sparesUsedUp (s : State) : Bool :=
  (s.cores.any fun c => c.2.out) || (s.pwr.dies.toList.any fun d => decide (d.ceil.toNat < 1500)) ||
  ((List.range 8).any fun d => halfIn s (d / 4) && (dieSites s d == 0 || s.loft.free[Fin.ofNat 8 d] == 0)) ||
  (s.links.lanes.toList.any fun l => l.spare.toList.all fun k => k != 0x7F) || (s.mesh.wires.any fun w => decide (16 ≤ w.used)) ||
  ((List.range 16).any fun i => tget s.cnt.live (1080 + i) 0 != 0) || (s.stk.barn.toList.any fun b => b.usedup)

/-- FAULTLED of SVC_CTL: 0 off, 1 steady, 2 blinking (R35). -/
def faultLed (s : State) : Nat :=
  if s.snaps.halves != 3 || !s.pins.p48vOk || sparesUsedUp s then 1 else if s.panel.drain then 2 else 0

def sbStatusWord (s : State) : Nat :=
  b2n (faultLed s == 1) + 2 * b2n s.panel.drain + 4 * b2n (s.pwr.state == .stabled) + 8 * b2n (s.snaps.halves != 3)

/-- SB_ALERT_N is low (R562). -/
def alertLow (s : State) : Bool := sbStatusWord s != 0

/-- The sideband address (R28). -/
def sbAddress (s : State) : Nat := 0x60 + s.pins.sbAddr.toNat

/-! ## The button (R31 to R34) -/

def setPanel (f : Panel → Panel) (s : State) : State := { s with panel := f s.panel }

/-- A press: in STABLED it starts an exit and is not judged. One that the Lodge finds held when it starts is ignored (R32). -/
def press (s : State) : State :=
  if s.panel.held then s
  else if !s.pins.p48vOk then setPanel (fun p => { p with held := true, ignored := true, stage := 0 }) s
  else
    let stabled := s.pwr.state == .stabled && s.pins.pwrOk
    let s := setPanel (fun p => { p with held := true, ignored := stabled, stage := 0 }) s
    if stabled then startExit s else s

def hold2 (s : State) : State :=
  if s.pins.p48vOk && s.panel.held && !s.panel.ignored && s.panel.stage == 0 then setPanel (fun p => { p with stage := 1, faultFlash := p.faultFlash + 1 }) s else s

def hold10 (s : State) : State :=
  if s.pins.p48vOk && s.panel.held && !s.panel.ignored && s.panel.stage == 1 then setPanel (fun p => { p with stage := 2, identFlash := p.identFlash + 1 }) s else s

/-- A drain request (R34, R568). -/
def drainRequest (s : State) : State :=
  if s.panel.drain then s else sendMsix 1 0 3 (sendMsix 0 0 3 (setPanel (fun p => { p with drain := true }) s))

def release (s : State) : State :=
  if !s.panel.held then s
  else
    let judged := !s.panel.ignored && s.pins.p48vOk
    let stage := s.panel.stage
    let s := setPanel (fun p => { p with held := false, ignored := false, stage := 0 }) s
    if !judged then s
    else if stage = 0 then setPanel (fun p => { p with ident := !p.ident }) s
    else if stage = 1 then drainRequest s
    else s

def identOff (s : State) : State := setPanel (fun p => { p with ident := false }) s

def identWrite (on : Bool) (s : State) : State := setPanel (fun p => { p with ident := on }) s

def drainClear (s : State) : State := setPanel (fun p => { p with drain := false }) s

/-! ## The cage LEDs (R37, R38) -/

/-- The phase of a blink at this moment: blinks of 1, 4 and 8 Hz, whose phases the spec leaves open. -/
structure Blink where
  one   : Bool
  four  : Bool
  eight : Bool
  deriving DecidableEq, Repr

def freeBit (i : Nat) : Bool := Config.freeChoice i % 2 == 1

/-- Green and amber of a port (R38). -/
def cageLed (s : State) (b : Blink) (p : Fin 36) : Bool × Bool :=
  let x := getPort s p
  if !halfIn s (portHalf p) then (false, true)
  else if !x.present then (false, false)
  else if !x.enabled || x.state == .disabled then (false, b.one)
  else match x.state with
    | .failed => (false, true)
    | .up => if x.mode == 0 && x.width != x.cfgw then (true, true) else if x.traffic != 0 then (b.eight, false) else (true, false)
    | _ => (b.four, false)

/-- CAGE_LED_STREAM: bit 2p is green of port p and bit 2p + 1 its amber. Traffic counts for ten streams, which is 100 ms. -/
def ledStream (s : State) : State :=
  if !s.pins.p48vOk then s
  else
    let b : Blink := { one := freeBit s.free, four := freeBit (s.free + 1), eight := freeBit (s.free + 2) }
    let word := (List.finRange 36).foldl (fun w p =>
      let c := cageLed s b p
      w + b2n c.1 * 2 ^ (2 * p.val) + b2n c.2 * 2 ^ (2 * p.val + 1)) 0
    let s := setPanel (fun q => { q with cageLeds := BitVec.ofNat 72 word }) { s with free := s.free + 3 }
    { s with links := { s.links with ports := s.links.ports.map fun x => { x with traffic := x.traffic - 1 } } }

end Sys2Proof.Machine
end

