-- ==== Sys2Proof/Machine/Start.lean ====
section
/-! DEFINITION. Cold, kept cold and warm starts, the input range, firmware images, the test chain and the self-test (R18 to R20, R29, R313, R327, R371,
R516 to R519, R535 to R554). -/

namespace Sys2Proof.Machine

/-! ## Straps and halves (R18 to R20, R540) -/

def legalStrap (x : Strap) : Bool := x.slot != 4 && x.slot != 5 && x.mirror == x.half

/-- The straps of the dies that leave reset: a die whose base tile stays in reset has no rails. -/
def strapsRead (c : ColdInputs) : Vector (Option Strap) 12 :=
  Vector.ofFn fun i => if legalStrap c.straps[i] && legalStrap (if (strapOf i.val).half then c.straps[11] else c.straps[10]) then some c.straps[i] else none

/-- All six dies of a half have left reset. -/
def diesPresent (v : Vector (Option Strap) 12) (half : Bool) : Bool :=
  [0, 1, 2, 3, 6, 7].all fun k => v.toList.any fun o => match o with | some x => x.half == half && x.slot.toNat == k | none => false

/-! ## The spare map (R542, R543) -/

/-- Physical slices of a half's dies beyond the first 32 that pass, by die and number. -/
def spareSlices (bad : List Nat) (h : Nat) : List (Nat × Nat) :=
  (List.range 4).flatMap fun i =>
    let d := 4 * h + i
    (((List.range 34).filter fun n => !bad.contains (34 * d + n)).drop 32).map fun n => (d, n)

/-- Logical slices (die, slice) of a half with the physical slice of their own die, or none. -/
def ownSlices (bad : List Nat) (h : Nat) : List (Nat × Nat × Option Nat) :=
  (List.range 4).flatMap fun i =>
    let d := 4 * h + i
    let pass := (List.range 34).filter fun n => !bad.contains (34 * d + n)
    (List.range 32).map fun j => (d, j, pass[j]?)

/-- Every die of the half reaches 32 logical slices. -/
def slicesReach (bad : List Nat) (h : Nat) : Bool := decide (((ownSlices bad h).filter fun x => x.2.2.isNone).length ≤ (spareSlices bad h).length)

/-- The slice map of a half: a shortfall takes the spares of the other dies, the lowest-numbered first (R273). -/
def mapSlices (bad : List Nat) (h : Nat) (s : State) : State :=
  let own := ownSlices bad h
  let short := (own.filter fun x => x.2.2.isNone).map fun x => (x.1, x.2.1)
  let pool := spareSlices bad h
  let s := own.foldl (fun t x => match x.2.2 with
    | some n => if n = x.2.1 then t else setSlice x.1 x.2.1 { valid := true, pdie := BitVec.ofNat 4 x.1, pslice := BitVec.ofNat 6 n, cerr := 0 } t
    | none => t) s
  let s := (short.zip pool).foldl (fun t x => setSlice x.1.1 x.1.2 { valid := true, pdie := BitVec.ofNat 4 x.2.1, pslice := BitVec.ofNat 6 x.2.2, cerr := 0 } t) s
  let left := pool.drop short.length
  { s with loft := { s.loft with free := Vector.ofFn fun d : Fin 8 => if d.val / 4 = h then BitVec.ofNat 2 (left.filter fun x => x.1 == d.val).length else s.loft.free[d] } }

/-- Logical cores of a quadrant on its passing sites in ascending order; those beyond are out of service (R542). -/
def mapQuad (bad : List Nat) (q : Nat) (s : State) : State :=
  let sites := quadSites q
  if !(sites.any fun p => bad.contains p) then s
  else
    let pass := sites.filter fun p => !bad.contains p
    (List.range 32).foldl (fun t j =>
      let n := 32 * q + j
      match pass[j]? with
      | some p => if p = (coreReset n).site then t else setCore n { coreReset n with site := p } t
      | none => setCore n { coreReset n with out := true } t) s

/-- Failed lanes of a die take its spares in ascending order (R427). -/
def mapLanes (bad : List Nat) (die : Fin 2) (s : State) : State :=
  let l := (List.range 72).filter fun i => bad.contains (72 * die.val + i)
  let given := l.take 4
  let x : Lanes := { spare := Vector.ofFn fun k : Fin 4 => match given[k.val]? with | some i => BitVec.ofNat 7 i | none => 0x7F, failed := l.drop 4, outside := [], testing := [] }
  let s := { s with links := { s.links with lanes := s.links.lanes.set die x } }
  given.foldl (fun t i => portEntry 0x08 1 (lanePort die (Fin.ofNat 72 i)) (i % 4) t) s

/-- Wires that fail the self-test, in ascending wire number (R457, R542). -/
def mapWires (bad : List (WireUnit × Bool × Fin 1056)) (s : State) : State :=
  let put (x : WireUnit × Bool × Fin 1056) (l : List (WireUnit × Bool × Fin 1056)) :=
    (l.filter fun y => decide (y.2.2.val ≤ x.2.2.val)) ++ x :: l.filter fun y => decide (x.2.2.val < y.2.2.val)
  (bad.foldl (fun l x => put x l) []).foldl (fun t x => if wireServes x.1 x.2.1 x.2.2.val t then wireGone x.1 x.2.1 x.2.2.val t else t) s

/-- The repair record of a stack at a cold start: each soft repair becomes a hard one where a hard spare row is free, and else is applied again (R313). -/
def repairStack (k : Fin 16) (repairs : List (Nat × Nat × Nat)) (s : State) : State :=
  let hard := s.start.flashRepairs.filter fun r => r.1 == k.val
  let x := hard.foldl (fun (x : Stack) r =>
    { x with spares := tput x.spares (64 * r.2.1 + r.2.2.1) (spareRows x r.2.1 r.2.2.1 - 1), hard := x.hard + 1, dry := x.dry + 1 }) (getStk s k)
  repairs.foldl (fun t r =>
    let x := getStk t k
    let n := spareRows x r.1 r.2.1
    if n = 0 then setStk k { x with repairs := x.repairs ++ [r], soft := x.soft + 1 } t
    else
      let x := { x with spares := tput x.spares (64 * r.1 + r.2.1) (n - 1), hard := x.hard + 1, dry := if n = 1 then x.dry + 1 else x.dry }
      let t := setStk k x { t with start := { t.start with flashRepairs := t.start.flashRepairs ++ [(k.val, r.1, r.2.1, r.2.2)] } }
      report (stackErr 0x06 0 false 0xFF k (1024 * lineOfRow (k.val % 8) r.1 r.2.1 r.2.2) 0) t) (setStk k x s)

/-! ## What a cold start leaves (R536, R545, R546) -/

/-- Every field at its Reset value, but for what lies outside the module, in flash, in fuses and in the Lodge. -/
def resetAll (s : State) : State :=
  let r := State.reset
  { r with pending := s.pending, free := s.free, pins := s.pins, panel := { r.panel with held := s.panel.held, ignored := s.panel.ignored, stage := s.panel.stage },
           hosts := s.hosts.map fun h => { h with up := false, d3 := 0, numVf := 0 },
           links := { r.links with ports := s.links.ports.map fun x => { Port.reset with present := x.present, state := if x.present then .training else .noCable } },
           stk := { r.stk with standinNext := s.stk.standinNext, standinCur := s.stk.standinNext },
           pwr := { r.pwr with dies := s.pwr.dies.map fun d => { DiePwr.reset with ceil := d.ceil, trim := d.pendTrim, pendTrim := d.pendTrim } },
           sec := { r.sec with prod := s.sec.prod, fusedSvn := s.sec.fusedSvn, flashImg := s.sec.flashImg, nextSess := s.sec.nextSess, dbgopen := !s.sec.prod,
                               dbgever := !s.sec.prod, dbgNext := s.sec.dbgNext },
           start := { r.start with flashSites := s.start.flashSites, flashSlices := s.start.flashSlices, flashRepairs := s.start.flashRepairs } }

/-- The measurements hold from the boot on, and the keys follow from them (R513, R516, R520). -/
def bootImage (img : Image) (s : State) : State :=
  let ms := measurements img
  let marker : List (BitVec 256) := if s.sec.dbgNext then [Config.sha256 []] else []
  setSec (fun x => { x with version := img.version, svn := img.svn, meas := ms, aliasKey := Config.deriveAliasKey Config.deviceSecret (ms.toList ++ marker) img.svn,
                            dbgNext := false, waiting := false }) s

/-- Parts that fail or are recorded as retired. -/
def badSitesOf (c : ColdInputs) (s : State) : List Nat := (c.badSites ++ s.start.flashSites).eraseDups

def badSlicesOf (c : ColdInputs) (s : State) : List Nat := (c.badSlices ++ s.start.flashSlices).eraseDups

/-- A half can be placed in service (R540, R543). -/
def halfPasses (c : ColdInputs) (s : State) (h : Fin 2) : Bool :=
  diesPresent (strapsRead c) (decide (h.val = 1)) && c.trained[h] && slicesReach (badSlicesOf c s) h.val

/-- Steps 1 to 6 of a cold start: straps, halves, spare map, repairs. keep: stand-ins stay in force (R548). -/
def coldParts (kind : StartKind) (c : ColdInputs) (o s : State) : State :=
  let sites := badSitesOf c s
  let slices := badSlicesOf c s
  let halves : BitVec 2 := BitVec.ofNat 2 (b2n (halfPasses c s 0) + 2 * b2n (halfPasses c s 1))
  let s := { s with start := { s.start with kind := kind, step := if halves = 0 then 6 else 11, ms := c.ms, straps := strapsRead c },
                    snaps := { s.snaps with halves := halves, badSites := sites, badSlices := slices } }
  let s := [0, 1].foldl (fun t h => if halfIn t h then mapSlices slices h t else t) s
  let s := (List.range 32).foldl (fun t q => mapQuad sites q t) s
  let s := mapWires c.badWires (mapLanes c.badLanes 1 (mapLanes c.badLanes 0 s))
  (List.finRange 16).foldl (fun t k => repairStack k (getStk o k).repairs t) s

/-- Stacks and pseudo-channels that fail their training are stood in, out of the reserve in force (R323, R542). -/
def failStacks (c : ColdInputs) (s : State) : State :=
  let xs := c.badStacks.map (fun i => ({ stack := Fin.ofNat 16 i, pc := none, span := none, failed := false } : StandIn)) ++
    c.badPcs.map fun i => { stack := Fin.ofNat 16 (i / 64), pc := some (Fin.ofNat 64 i), span := none, failed := false }
  xs.foldl (fun t x =>
    let all (t : State) : State := t.stk.installing.foldl (fun t y => finishStandIn y t) t
    all (all (failScope x t))) s

/-! ## STANDIN_NEXT at a warm or kept cold start (R327) -/

def standinApplies (s : State) (half : Bool) : Bool :=
  let n := (s.stk.standinNext[hIdx half]).toNat
  let cur := (s.stk.standinCur[hIdx half]).toNat
  let low := 1048576 - 512 * n
  let budgets := s.pads.foldl (fun a e => a + e.2.budgets[budgetIdx true half]) 0
  decide (ceilDiv (reserveUsed s half) 1024 ≤ n) &&
  (decide (n ≤ cur) || (!(s.xlt.granules.any fun r => r.barn && r.half == half && decide (low < r.first + r.len)) && decide (786496 + budgets ≤ low)))

def applyStandin (s : State) : State :=
  let take (h : Fin 2) : BitVec 9 := if standinApplies s (decide (h.val = 1)) then s.stk.standinNext[h] else s.stk.standinCur[h]
  { s with stk := { s.stk with standinCur := Vector.ofFn take } }

/-! ## The manifest (R548, R549) -/

/-- The runs of an address space's own extents, with the paddocks that share them. -/
def manifestRuns (spaces : Tbl AddrSpace) (tag : Nat) (sp : AddrSpace) : List GranRun :=
  (sp.table.filter fun e => e.share.isNone).map fun e =>
    let dests := (spaces.filter fun t => t.2.table.any fun x => x.share == some (tag, e.index)).map fun t => t.2.pad
    { e.run with share := BitVec.ofNat 32 (dests.eraseDups.foldl (fun m p => m + 2 ^ p) 0) }

/-- What a kept cold start keeps of the beat: the count, the BEAT.SET in force, the PTP domain and the synchronous groups; the other fields take their Reset
values (R546, R547). -/
def keptBeat (b : Beat) : Beat :=
  { b with pend := none, force := { b.force with cmd := none }, losses := 0, skipped := 0, gap := 0,
           groups := b.groups.map fun g => { g with drops := 0, origin := 0, slip := 0, short := false, dbeat := 0, notices := 0 } }

/-- The paddocks as the manifest re-creates them over a state that a kept cold start has reset. The Barn, the beat and the generations are kept. -/
def manifest (o s : State) : State :=
  let spaces : Tbl AddrSpace := (o.xlt.spaces.filter fun t => t.2.valid).map fun t =>
    (t.1, { AddrSpace.reset with valid := true, pad := t.2.pad, mig := t.2.mig, hot := t.2.hot, table := t.2.table.filter fun e => !e.mixer })
  let wins : Tbl Window := (o.xlt.wins.filter fun w => w.2.given).map fun w => (w.1, { windowReset with given := true, pad := w.2.pad })
  let queues : Tbl DrayQ := o.drays.queues.map fun q => (q.1, { q.2 with next := 0, skip := none })
  let pads : Tbl Pad := o.pads.map fun e => (e.1,
    { freshPad e.2.p e.2.vf e.2.posts with quads := e.2.quads, cache := e.2.cache, commons := e.2.commons, budgets := e.2.budgets, share := e.2.share })
  let bands := Vector.ofFn fun k : Fin 16 =>
    let x := o.stk.stk[k]
    { s.stk.stk[k] with standin := x.standin, pcLo := x.pcLo, pcHi := x.pcHi }
  let runs := spaces.flatMap fun (t : Nat × AddrSpace) => manifestRuns spaces t.1 t.2
  let s : State :=
    { s with pads := pads,
             xlt := { s.xlt with spaces := spaces, granules := runs, wins := wins },
             drays := { s.drays with queues := queues },
             mem := { s.mem with barn := o.mem.barn, poison := o.mem.poison.filter (fun x => x.2.1), tozero := o.mem.tozero.filter fun z => z.barn },
             stk := { s.stk with standing := o.stk.standing, standinCur := o.stk.standinCur, stk := bands },
             snaps := { s.snaps with gens := o.snaps.gens },
             beat := keptBeat o.beat }
  let s := s.pads.foldl (fun t e => setRing (2 + e.1) { Ring.reset with csize := e.2.p.cring, ssize := e.2.p.sring } t) s
  showCap (applyStandin ((registered s).foldl (fun t m => dirtyRun m.half m.gran 1 t) s))

/-- Auto-resume of the paddocks to which R471 applies, with no entry RESTART_DONE (R371, R548). -/
def resumeAll (s : State) : State :=
  let l := (s.pads.map Prod.fst).filter fun p => willResume s p
  if l.isEmpty then s
  else
    let s := l.foldl (fun t p => modPad p (fun d => { d with resuming := true }) t) s
    { s with snaps := { s.snaps with restart := some { freshRestart 0 with silent := true, ended := true, toResume := l } } }

/-- A half that a kept cold start cannot place in service again is lost with what it held. -/
def loseFailing (halves : BitVec 2) (s : State) : State :=
  [false, true].foldl (fun t w => if halves.getLsbD (b2n w) then t else loseHalf w t) s

/-! ## Cold starts (R516, R517, R535, R536) -/

/-- A cold start of either kind. -/
def coldStart (kept : Bool) (c : ColdInputs) (s : State) : State :=
  let o := cutMark { s with ym := { s.ym with cmds := [] } }
  let s := resetAll { o with free := o.free + 1 }
  let s := { s with pins := { s.pins with pwrOk := true } }
  let s := coldParts (if kept then .keptCold else .cold) c o s
  let halves := s.snaps.halves
  let s := if kept && halves != 0 then
      let s := failStacks c (manifest o s)
      resumeAll (loseFailing halves { s with snaps := { s.snaps with halves := halves ||| o.snaps.halves } })
    else failStacks c s
  let img := c.flash
  if img.check == .ok && decide (s.sec.fusedSvn.toNat ≤ img.svn.toNat) then bootImage img (setSec (fun x => { x with flashImg := img }) s)
  else
    let v := if img.check == .readFailed then 0 else img.version
    report (secErr s 0x01 2 0xFF v)
      { s with sec := { s.sec with waiting := true, flashImg := img, meas := measurements { img with meas := Vector.replicate 3 0 } },
               start := { s.start with step := if halves = 0 then 6 else 1 } }

/-- PWR_EN is high. -/
def pwrEnHigh (s : State) : State := { s with pins := { s.pins with pwrEn := true } }

/-- A rising edge of PWR_EN with P48V in range begins a cold start (R535, R538). -/
def powerEnable (c : ColdInputs) (s : State) : State :=
  if s.pins.p48vOk then coldStart false c (pwrEnHigh s) else pwrEnHigh s

/-- P48V stays out of range for 100 µs (R29): the entry where a host port carries it, then the dies power down. The repair record is in flash and stays
(R312, R313). -/
def inputLost (s : State) : State :=
  if !s.pins.p48vOk then s
  else
    let up := s.hosts.toList.any fun h => h.up
    let s := if up && s.pins.pwrOk then
        report (quantErr 5 0x01 3 0xFF 0x0D (leadHalf s) s.pwr.millivolt.toNat) s
      else s
    let r := resetAll { s with ym := { s.ym with cmds := [] } }
    { r with pins := { s.pins with p48vOk := false, pwrOk := false },
             stk := { r.stk with stk := Vector.ofFn fun k : Fin 16 => { r.stk.stk[k] with repairs := (getStk s k).repairs } }, hosts := s.hosts.map fun h => { h with up := false, d3 := 0, numVf := 0 },
             start := { r.start with step := 0, kind := s.start.kind, straps := Vector.replicate 12 none }, snaps := { r.snaps with halves := 0 } }

/-- P48V comes into its range: the Lodge starts, and a press that is already held is ignored (R32, R538). -/
def inputBack (s : State) : State :=
  if s.pins.p48vOk then s
  else { s with pins := { s.pins with p48vOk := true }, panel := { s.panel with ignored := s.panel.held } }

/-! ## Warm start (R371, R469, R535, R537, R545, R546) -/

/-- Every job goes, whatever the resume records hold: a warm start without RESTORE. -/
def loseAllJobs (s : State) : State :=
  (s.pads.map Prod.fst).foldl (fun t p =>
    loseCarry p (modPad p (fun d => { d with resuming := false }) (dropServing p false (unloadPipe p false (loseLaunches p (stopCompute p t)))))) s

/-- Every link port goes down, and what it had not been acknowledged is discarded. -/
def warmPorts (s : State) : State :=
  allPortsLose ((List.finRange 36).foldl (fun t p => if (getPort t p).state == .up then portEntry 0x05 0 p 0 t else t) s)

/-- Residence moves in progress are undone. -/
def undoMoves (s : State) : State :=
  { s with xlt := { s.xlt with mig := s.xlt.mig.map fun m =>
      { m with cmd := none, asked := [], res := match m.res with | .movingOut => .dev | .movingIn => .host | r => r } } }

/-- Windows that close, tags that drain and paddocks that reset have nothing left to wait for. -/
def warmDrains (s : State) : State :=
  let wins : Tbl Window := s.xlt.wins.map fun w => (w.1, { w.2 with inflight := 0, closing := none, old := [] })
  let pads : Tbl Pad := s.pads.map fun e => (e.1, { e.2 with drain := none })
  let s := { s with xlt := { s.xlt with wins := wins, held := [] }, pads := pads }
  (s.xlt.spaces.map Prod.fst).foldl (fun t k => tagDrainOp k t) s

/-- DEV.WARM. Its entry is written when its port is up again. -/
def warmStart (seq : Nat) (restore : Bool) (s : State) : State :=
  let s := restartDone s
  let s := loseUnbegun (fun c => c.seq != seq) s
  let s := beginRestart (if restore then s else loseAllJobs s)
  let s := loseCmds (fun c => c.seq != seq) s
  let s := dropXfers (fun _ => true) (restartLoft (dropAdds (fun _ => true) s))
  let pads := s.pads.map Prod.fst
  let s := pads.foldl (fun t p => emptySends p (emptyQueues p t)) s
  let s := { s with posts := { s.posts with cnt := [], upds := [], waits := [] }, accs := [], copies := [], mesh := { s.mesh with pkts := [], red := [] },
                    snaps := { s.snaps with waiting := [], streams := [] }, shadow := Shadow.empty,
                    cnt := { s.cnt with slots := s.cnt.slots.map fun x => { x with pend := none } }, beat := { s.beat with pend := none } }
  let s := setPwr (fun p => { p with state := .gallop, exiting := false, target := none, caps := [] }) s
  let s := hostDown 1 (hostDown 0 (warmPorts s))
  let s := undoMoves (warmDrains s)
  let s := (s.cores.map Prod.fst).foldl (fun t n => clearCore n t) s
  let s := endHandlings (finishRetires (s.loft.retireDue.length + 1) s)
  let s := applyStandin (settleReq (s.stk.installing.foldl (fun t x => completeStandIn x [] t) s))
  let f (i : Nat) : Nat := Config.freeChoice (s.free + i)
  let s := { s with free := s.free + 4,
                    start := { s.start with kind := .warm, step := 11, ms := BitVec.ofNat 16 (f 0), seamFull := BitVec.ofNat 8 (f 1), hbmFull := BitVec.ofNat 8 (f 2),
                                            barnFull := BitVec.ofNat 8 (f 3) } }
  if restore then resumeAll s else s

def beginWarm (c : Cmd) (restore : Bool) (s : State) : State := warmStart c.seq restore s

/-! ## Firmware images (R517 to R519) -/

/-- RESULT of a failing check, or none. -/
def imageFault (s : State) (addr : W64) (len : W32) (img : Image) : Option Nat :=
  if addr.toNat % 4096 ≠ 0 || len.toNat % 4096 ≠ 0 then some 4
  else match img.check with
    | .readFailed => some 7
    | .header => some 4
    | .signature => if len.toNat < img.length then some 4 else some 5
    | .ok => if len.toNat < img.length then some 4 else if img.svn.toNat < s.sec.fusedSvn.toNat then some 6 else none

/-- A write of SEC_IMG with GO set: the image is read and checked; the boot ROM boots it, the running device writes it to flash or only checks it. -/
def imageGo (h : Fin 2) (persist : Bool) (addr : W64) (len : W32) (img : Image) (s : State) : State :=
  if !(funcUp s h 0 && (awake s || s.sec.waiting)) || s.sec.busy then s
  else
    let s := setSec (fun x => { x with persist := persist, addr := addr, len := len }) s
    let setResult (n : Nat) (t : State) : State := setSec (fun x => { x with result := BitVec.ofNat 4 n }) t
    match imageFault s addr len img with
    | some n => setResult n s
    | none =>
      if s.sec.waiting then
        if s.snaps.halves = 0 then setResult 1 (bootImage img s)
        else
          let s := bootImage img (setSec (fun x => { x with hostimg := true }) { s with start := { s.start with step := 11 } })
          setResult 1 (report (secErr s 0x02 0 0xFF img.version) s)
      else if persist then setResult 2 (setSec (fun x => { x with flashImg := img }) s)
      else setResult 3 s

/-- RAISE of SEC_IMG: the fused minimum rises to the running image's SVN. -/
def raiseSvn (s : State) : State :=
  if awake s && decide (s.sec.fusedSvn.toNat < s.sec.svn.toNat) then setSec (fun x => { x with fusedSvn := x.svn }) s else s

/-! ## The test chain (R550, R551) and TEST.SELF (R553) -/

/-- A scan, but for one that reaches an instrument while debug is open. -/
def chainOp (op : ChainOp) (s : State) : State :=
  match op with
  | .reset => { s with start := { s.start with tapReset := true } }
  | .instrument _ => { s with start := { s.start with tapReset := false } }
  | .readRepair k =>
    let s := { s with start := { s.start with tapReset := false } }
    if s.stk.hold.getLsbD k.val then
      let x := getStk s k
      withReply ([(0 : Byte)] ++ leBytes 2 x.soft.toNat ++ leBytes 2 x.hard.toNat ++ leBytes 2 x.dry.toNat) s
    else s
  | .softRepair k pc bank row =>
    let s := { s with start := { s.start with tapReset := false } }
    let x := getStk s k
    let n := spareRows x pc.val bank.val
    if !s.stk.hold.getLsbD k.val || n = 0 then s
    else setStk k { x with spares := tput x.spares (64 * pc.val + bank.val) (n - 1), soft := BitVec.ofNat 16 (satAdd 16 x.soft.toNat 1),
                           dry := if n = 1 then x.dry + 1 else x.dry,
                           rows := x.rows.filter fun r => !(r.pc == pc.val && r.bank == bank.val && r.row == row.val) } s

/-- TEST.SELF is not refused. -/
def selfOk (s : State) (q : Nat) : Bool := halfIn s (q / 16) && (padOfQuad s q).isNone

/-- TEST.SELF: each failing site is retired at once, and the entry gives the pass mask and the free spares. -/
def beginSelf (c : Cmd) (q : Nat) (bad : List (Fin 36)) (s : State) : State :=
  if !selfOk s q then refuseCmd c.seq s
  else
    let sites := bad.map fun i => 36 * q + i.val
    let users := (List.range 32).filter fun j =>
      let k := getCore s (32 * q + j)
      !k.out && sites.contains k.site
    let spare := sites.filter fun p => (freeSites s q).contains p
    let s := { s with snaps := { s.snaps with badSites := spare ++ s.snaps.badSites }, start := { s.start with flashSites := spare ++ s.start.flashSites } }
    let s := users.foldl (fun t j => judgeCore (32 * q + j) t) s
    let mask := (List.range 36).foldl (fun m i => if s.snaps.badSites.contains (36 * q + i) then m else m + 2 ^ i) 0
    writeStatus c.seq done (leBytes 5 mask ++ [BitVec.ofNat 8 (freeSites s q).length]) s

end Sys2Proof.Machine
end

