-- ==== Sys2Proof/Machine/Beat.lean ====
section
/-! DEFINITION. The beat reference and count, counter snapshots, synchronous groups and LATE notices (R328 to R345). -/

namespace Sys2Proof

/-! ## BEAT_REF frames (R329) -/

/-- What a cycle's high time means. -/
inductive RefCycle where
  | start
  | bit (b : Bool)
  | plain
  | invalid
  deriving DecidableEq, Repr

/-- The table of R329, each time with its tolerance of 4 ns. -/
def refCycle (ns : Nat) : RefCycle :=
  let near (t : Nat) : Bool := decide (t ≤ ns + 4 ∧ ns ≤ t + 4)
  if near 20 then .start else if near 30 then .bit false else if near 70 then .bit true else if near 50 then .plain else .invalid

/-- Cycles 1 to 64 of a frame carry its number, the least significant bit first. -/
def RefFrame.number (f : RefFrame) : W64 :=
  BitVec.ofNat 64 (((f.highs.drop 1).take 64).zipIdx.foldl (fun a x => if refCycle x.1 = .bit true then a + 2 ^ x.2 else a) 0)

/-- No condition of R337 that lies within one frame holds: cycle 0 is a frame start, cycles 1 to 64 are data bits, every other cycle is plain, the next frame
start comes at cycle 10,000, the frequency is within 200 ppm. -/
def RefFrame.good (f : RefFrame) : Bool :=
  f.highs.length == 10000 && (f.highs.head?.any fun h => refCycle h == .start) &&
  (((f.highs.drop 1).take 64).all fun h => match refCycle h with | .bit _ => true | _ => false) && ((f.highs.drop 65).all fun h => refCycle h == .plain) &&
  decide (f.ppm ≤ 200)

end Sys2Proof

namespace Sys2Proof.Machine

def setBeat (f : Beat → Beat) (s : State) : State := { s with beat := f s.beat }

/-! ## The reference (R328 to R330, R337 to R339) -/

/-- An entry of the beat unit. -/
def beatErr (code : Byte) (sev : BitVec 2) (q : Nat) : Err := quantErr 6 code sev 0xFF 0x0D 0x20 q

/-- The beat unit runs: every start step is done and the device is not in STABLED (R496). -/
def beatOn (s : State) : Bool := awake s

/-- A cause of R337 belongs to a source. -/
def causeSource (c : LossCause) : Byte := match c with | .port0 => 1 | .noSync => 1 | .servoStep => 1 | _ => 0

/-- The reference is lost: the count freezes, and one entry is written (R338). -/
def loseReference (s : State) : State :=
  report (beatErr 0x01 2 0)
    (setBeat (fun b => { b with locked := false, regained := false, good := 0, sync := 0, lastFrame := none, losses := BitVec.ofNat 16 (satAdd 16 b.losses.toNat 1) }) s)

/-- Port 0 carries PTP: up and in Ethernet mode (R328, R337). -/
def ptpPort (s : State) : Bool := let x := getPort s 0; x.state == .up && x.mode != 0

/-- SOURCE 1 is in force and port 0 cannot carry it: the reference is lost at once (R337, R425). -/
def checkPort0 (s : State) : State := if beatOn s && s.beat.locked && s.beat.source == 1 && !ptpPort s then loseReference s else s

/-- REFERENCE_LOST: a condition of R337 holds for the source in force. That of port 0 is read off the port. -/
def referenceLost (cause : LossCause) (s : State) : State :=
  if beatOn s && s.beat.locked && s.beat.source == causeSource cause && !(cause == .port0 && ptpPort s) then loseReference s else s

/-- A frame's number follows the last one. -/
def frameFollows (s : State) (n : W64) : Bool := match s.beat.lastFrame with | some m => n == m + 1 | none => true

/-- A decoded frame, at the frame start that ends it. In a lost reference good frames count; where the reference holds, a frame in which a condition of R337
holds loses it. -/
def refFrame (f : RefFrame) (s : State) : State :=
  if !beatOn s || s.beat.source != 0 then s
  else
    let ok := f.good && frameFollows s f.number
    let s := setBeat (fun b => { b with lastFrame := some f.number, rt := if f.good then (f.number + 1) * 1000000 else b.rt }) s
    if s.beat.locked then (if ok then s else loseReference s)
    else setBeat (fun b => { b with good := if ok then b.good + 1 else 0 }) s

/-- A Sync message of the domain PTPDOM: RT, and what it counts toward the regain. A servo step above 1 µs is a condition of R337. -/
def ptpSync (m : SyncMsg) (s : State) : State :=
  if !beatOn s || s.beat.source != 1 || !ptpPort s || m.domain != s.beat.ptpdom then s
  else
    let s := setBeat (fun b => { b with rt := m.time }) s
    if s.beat.locked then (if 1000 < m.step then loseReference s else s)
    else setBeat (fun b => { b with sync := if m.offset < 100 && m.step ≤ 1000 then b.sync + 1 else 0 }) s

/-- The reference of the source in force can be regained now. -/
def regainDue (s : State) : Bool :=
  !s.beat.locked && (if s.beat.source = 0 then decide (3 ≤ s.beat.good) else s.beat.source == 1 && decide (8 ≤ s.beat.sync) && ptpPort s)

/-- RT of the boundary into a beat under a BEAT.SET (R331). -/
def beatTime (x : BeatSet) (n : Nat) : Nat := x.t0.toNat + (n - x.n0.toNat) * (1000 * x.period.toNat)

/-- The beat that RT lies in under a BEAT.SET, or none before its T0. -/
def beatAt (x : BeatSet) (rt : Nat) : Option Nat :=
  if rt < x.t0.toNat || x.period = 0 then none else some (x.n0.toNat + (rt - x.t0.toNat) / (1000 * x.period.toNat))

/-- REFERENCE_REGAINED (R334, R339). The first lock after a cold start gives T0 of the beat defaults. -/
def regain (s : State) : State :=
  if !beatOn s || !regainDue s then s
  else
    let b := s.beat
    if !b.reached0 && b.force.cmd.isNone && b.force.t0 = 0 && b.losses = 0 then
      setBeat (fun b => { b with locked := true, good := 0, sync := 0, next := 0, force := { b.force with t0 := b.rt } }) s
    else
      let next := match beatAt b.force b.rt.toNat with
        | some m => if b.count.toNat < m then m + 1 else b.count.toNat + 1
        | none => b.count.toNat + 1
      setBeat (fun b => { b with locked := true, good := 0, sync := 0, next := BitVec.ofNat 64 next, regained := true }) s

/-! ## BEAT.SET (R331, R332) -/

def beatSetOk (s : State) (p : BeatSetParams) : Bool :=
  decide (1 ≤ p.period.toNat ∧ p.period.toNat ≤ 10000) && decide (p.t0.toNat % 1000 = 0 ∧ s.beat.rt.toNat < p.t0.toNat ∧ s.beat.count.toNat < p.n0.toNat) &&
  decide (p.source.toNat ≤ 1)

/-- An accepted BEAT.SET replaces one that has not reached its T0. -/
def beginBeatSet (seq : Nat) (p : BeatSetParams) (s : State) : State :=
  let s := match s.beat.pend with
    | some x => statusOpt x.cmd replaced [] s
    | none => s
  setBeat (fun b => { b with pend := some { t0 := p.t0, n0 := p.n0, period := p.period, source := p.source, cmd := some seq } }) s

/-- A BEAT.SET comes into force. Where it changes the source, frames and Sync messages of the new source are counted anew; whether a condition of R337 holds
for that source is seen after the event (checkPort0) or reported (referenceLost). -/
def takeBeatSet (x : BeatSet) (s : State) : State :=
  let s := if x.source == s.beat.source then s else setBeat (fun b => { b with good := 0, sync := 0, lastFrame := none }) s
  setBeat (fun b => { b with force := x, pend := none, source := x.source }) s

/-- BEAT_SET_T0_REACHED: RT reaches T0 of the pending BEAT.SET where no boundary falls: the count is there already, or the reference is lost. -/
def beatSetReached (s : State) : State :=
  if !beatOn s then s
  else match s.beat.pend with
    | none => s
    | some x =>
      if !s.beat.locked then takeBeatSet x s
      else if x.n0.toNat ≤ s.beat.count.toNat && x.t0.toNat ≤ beatTime s.beat.force s.beat.next.toNat then
        let s := setBeat (fun b => { b with rt := if b.rt.toNat < x.t0.toNat then x.t0 else b.rt }) s
        setBeat (fun b => { b with next := b.count + 1 }) (takeBeatSet x s)
      else s

/-- The boundary that comes next: under which BEAT.SET, its number, its RT. -/
def nextBoundary (s : State) : BeatSet × Nat × Nat :=
  let b := s.beat
  let t := beatTime b.force b.next.toNat
  match b.pend with
  | some x =>
    if x.t0.toNat ≤ t then
      (if b.count.toNat < x.n0.toNat then (x, x.n0.toNat, x.t0.toNat) else (x, b.count.toNat + 1, beatTime x (b.count.toNat + 1)))
    else (b.force, b.next.toNat, t)
  | none => (b.force, b.next.toNat, t)

/-- What RT has not passed: the next boundary, the end of the frame that runs, or the 250 ms after a Sync message; without a locked reference RT stands
(R330, R337). -/
def rtBound (s : State) : Nat :=
  let b := s.beat
  if !b.locked then b.rt.toNat
  else
    let edge := if b.source = 0 then (match b.lastFrame with | some m => (m.toNat + 2) * 1000000 | none => b.rt.toNat + 1000000) else b.rt.toNat + 250000000
    min edge (nextBoundary s).2.2

/-- RT now: what the reference last gave, moved on by a free amount within its bound (log 10). Within frame M, RT = M × 1,000,000 + 100 × c at cycle c
(R330): the number of cycles since the frame start is what is free. -/
def rtNow (s : State) : W64 := BitVec.ofNat 64 (max s.beat.rt.toNat (min (s.beat.rt.toNat + (Config.elapsedNs s.free).toNat) (rtBound s)))

/-- RT has been looked at: it does not fall below what was seen. -/
def tickRt (s : State) : State := setBeat (fun b => { b with rt := rtNow s }) (useFree s)

/-! ## Counter snapshots (R340, R341) -/

/-- CNT.SNAP is not refused. -/
def cntSnapOk (s : State) (slot : BitVec 2) : Bool := (s.cnt.slots[slot.toNat]).pend.isNone

def beginCntSnap (seq : Nat) (beat : W64) (slot : BitVec 2) (s : State) : State :=
  let k : Fin 4 := Fin.ofNat 4 slot.toNat
  { s with cnt := { s.cnt with slots := s.cnt.slots.set k { s.cnt.slots[k] with pend := some (beat, seq) } } }

/-- The counters of a paddock's view: 2,048 + 16p + j. -/
def padCounter (p i : Nat) : Bool := decide (2048 + 16 * p ≤ i ∧ i < 2064 + 16 * p)

/-- The view of a confidential paddock takes a latch no more often than every 1 ms. -/
def viewTakes (s : State) (c : Conf) : Bool := match c.viewed with | some t => decide (t.toNat + 1000000 ≤ s.beat.rt.toNat) | none => true

/-- The latch into a slot. -/
def latchSlot (k : Fin 4) (s : State) : State :=
  let x := s.cnt.slots[k]
  match x.pend with
  | none => s
  | some (_, seq) =>
    let keeps (p : Nat) : Bool := match getPad s p with | some d => (match d.conf with | some c => !viewTakes s c | none => false) | none => false
    let shown (i : Nat) : W64 := tget x.view i (tget x.vals i 0)
    let view : Tbl W64 := ((s.pads.map Prod.fst).filter keeps).flatMap fun p => (List.range 16).map fun j => (2048 + 16 * p + j, shown (2048 + 16 * p + j))
    let new : SnapSlot := { valid := true, pend := none, beat := s.beat.count, vals := s.cnt.live, view := view }
    let s := { s with cnt := { s.cnt with slots := s.cnt.slots.set k new } }
    let s := s.pads.foldl (fun t e => match e.2.conf with
      | some c => if viewTakes s c then modPad e.1 (fun d => { d with conf := some { c with viewed := some s.beat.rt } }) t else t
      | none => t) s
    writeStatus seq done (leBytes 8 s.beat.count.toNat) s

/-- Row 1 of R335: the latches that are due up to a beat, in acceptance order. -/
def latchesDue (lim : Nat) (s : State) : State :=
  let due := (List.finRange 4).filterMap fun k => match (s.cnt.slots[k]).pend with
    | some (b, seq) => if b.toNat ≤ lim then some (seq, k) else none
    | none => none
  ((due.mergeSort fun a b => decide (a.1 ≤ b.1)).map Prod.snd).foldl (fun t k => latchSlot k t) s

/-! ## Beat-class writes (R9 to R13) -/

/-- Row 2 of R335: the shadow is applied. -/
def applyShadow (s : State) : State :=
  let w := s.shadow
  { s with loft := { s.loft with keepmax := w.keepmax.getD s.loft.keepmax }, xlt := { s.xlt with migPeriod := w.migPeriod.getD s.xlt.migPeriod },
           stk := { s.stk with rowthr := w.rowthr.getD s.stk.rowthr, period := w.scrub.getD s.stk.period },
           pwr := { s.pwr with floor := w.floor.getD s.pwr.floor },
           snaps := { s.snaps with wirethr := w.wirethr.getD s.snaps.wirethr, slicethr := w.slicethr.getD s.snaps.slicethr,
                                   corethr := w.corethr.getD s.snaps.corethr },
           shadow := Shadow.empty }

/-! ## Synchronous groups (R342 to R345, R383) -/

/-- The group record holds no refused value. -/
def groupFields (g : GroupRec) : Bool :=
  g.gid != 0 && decide (2 ≤ g.nmemb.toNat ∧ g.nmemb.toNat ≤ 4096 ∧ g.policy.toNat ≤ 1 ∧ 1 ≤ g.lead.toNat ∧ g.lendW.toNat ≤ 1000 ∧ 1 ≤ g.ttl.toNat ∧
    1 ≤ g.capstep.toNat)

def groupJoinOk (s : State) (g : GroupRec) : Bool :=
  ((s.beat.groups.any fun x => x.cfg.gid == g.gid) || decide (s.beat.groups.length < 8)) &&
  ((List.finRange 36).all fun p => !g.ports.getLsbD p.val || (getPort s p).mode == 0)

def freshGroup (g : GroupRec) : Group :=
  { cfg := g, drops := 0, origin := 0, slip := 0, short := false, dbeat := 0, notices := 0, seen := [], sent := 0, lend := [] }

/-- A join, or a replacement of the group's record. -/
def joinGroup (g : GroupRec) (s : State) : State :=
  if s.beat.groups.any fun x => x.cfg.gid == g.gid then
    setBeat (fun b => { b with groups := mapWhere (fun x => x.cfg.gid == g.gid) (fun x => { x with cfg := g }) b.groups }) s
  else setBeat (fun b => { b with groups := b.groups ++ [freshGroup g] }) s

def leaveGroup (gid : W16) (s : State) : State := setBeat (fun b => { b with groups := b.groups.filter fun x => x.cfg.gid != gid }) s

def modGroup (gid : W16) (f : Group → Group) (s : State) : State :=
  setBeat (fun b => { b with groups := mapWhere (fun x => x.cfg.gid == gid) f b.groups }) s

/-- The interval a notice lends for; one that overlaps a lending of the device is handled as under WAIT (R345). -/
def lendFor (s : State) (g : Group) (k : LatePkt) (late : Bool) : List (W64 × W64 × Bool) :=
  let b := k.apply.toNat
  let e := k.d.toNat + k.slip.toNat + 1
  let taken := s.beat.groups.any fun x => x.lend.any fun y => decide (y.1.toNat < e ∧ b < y.2.1.toNat ∧ s.beat.count.toNat < y.2.1.toNat)
  if g.cfg.policy = 1 && b < e && !taken then [(k.apply, BitVec.ofNat 64 e, late)] else []

/-- A notice is recorded in its group, sent or received. -/
def recordNotice (k : LatePkt) (late : Bool) (s : State) : State :=
  modGroup k.gid (fun g =>
    { g with origin := k.origin, slip := k.slip, short := k.short, dbeat := k.d.setWidth 32, notices := BitVec.ofNat 32 (satAdd 32 g.notices.toNat 1),
             seen := (k.origin, k.seq) :: g.seen,
             lend := g.lend.filter (fun y => decide (s.beat.count.toNat < y.2.1.toNat)) ++ lendFor s g k late }) s

/-- A notice leaves on the group's ports that are up, but for one. -/
def sendNotice (k : LatePkt) (ports : BitVec 36) (but : Option (Fin 36)) (s : State) : State :=
  (List.finRange 36).foldl (fun t p =>
    if ports.getLsbD p.val && but != some p && (getPort t p).state == .up && (getPort t p).mode == 0 then takeFlits p (sendOut (.late p.val k) t) else t) s

/-- A received LATE packet (R344, R437). -/
def lateIn (p : Fin 36) (k : LatePkt) (s : State) : State :=
  if !portLive s p || (getPort s p).state != .up then s
  else if (getPort s p).mode != 0 then bump (1096 + p.val) 1 s
  else match s.beat.groups.find? fun g => g.cfg.gid == k.gid with
    | none => bump (1096 + p.val) 1 s
    | some g =>
      if g.seen.contains (k.origin, k.seq) then modGroup k.gid (fun g => { g with drops := BitVec.ofNat 16 (satAdd 16 g.drops.toNat 1) }) s
      else
        let s := recordNotice k false s
        if k.ttl = 0 then s else sendNotice { k with ttl := k.ttl - 1 } g.cfg.ports (some p) s

/-- A notice of one group for an invocation that is predicted late, sent at this boundary (R343). -/
def sendLate (pad stage inv d : Nat) (slip : Byte) (gid : W16) (s : State) : State :=
  match s.beat.groups.find? fun g => g.cfg.gid == gid with
  | none => s
  | some g =>
    let now := s.beat.count.toNat
    let short := decide (d < now + g.cfg.lead.toNat)
    let k : LatePkt := { gid := gid, origin := g.cfg.self, seq := g.sent, d := BitVec.ofNat 64 d, apply := BitVec.ofNat 64 (now + g.cfg.lead.toNat), slip := slip,
                         ttl := g.cfg.ttl, short := short }
    let s := recordNotice k true (modGroup gid (fun g => { g with sent := g.sent + 1 }) s)
    reportPace 2 0 pad stage slip.toNat (b2n short) inv d (sendNotice k g.cfg.ports none s)

/-- The notices for the invocations that the Weathervane predicts late: of each stage the one that runs and the one that comes next. -/
def sendLates (m : BoundaryInputs) (s : State) : State :=
  m.late.foldl (fun (t : State) (x : Fin 32 × Fin 64 × Bool × Byte) =>
    if x.2.2.2 == (0 : Byte) then t
    else match getPipe t x.1.val with
      | none => t
      | some p => match p.start, stageRt p x.2.1.val with
        | some st, some r =>
          let k := if r.running && x.2.2.1 then r.inv + 1 else r.inv
          if st.ended || (!r.running && !x.2.2.1) || (st.count != 0 && decide (st.count.toNat ≤ k)) then t
          else
            let d := (releaseBeat p st { r with inv := k } + p.period).toNat
            (t.beat.groups.map fun g => g.cfg.gid).foldl (fun t gid => sendLate x.1.val x.2.1.val k d x.2.2.2 gid t) t
        | _, _ => t) s

/-- After a regain, the first boundary gives the number of beats skipped (R339). -/
def tellRegained (s : State) : State :=
  if s.beat.regained then report (beatErr 0x02 0 s.beat.gap.toNat) (setBeat (fun b => { b with regained := false }) s) else s

end Sys2Proof.Machine
end

