-- ==== Sys2Proof/Machine/Repair.lean ====
section
/-! DEFINITION. Stack controllers: scrubbing, repair requests, holds, temperatures, stand-ins, refetches, zeroing (R310 to R316, R323 to R327, R467, R545). -/

namespace Sys2Proof.Machine

/-- A stack controller runs: the device is awake and the stack's half in service. -/
def stackLive (s : State) (k : Fin 16) : Bool := awake s && halfIn s (k.val / 8)

/-- The half-local line in a row of a stack. -/
def rowAddr (k : Fin 16) (pc bank row sub : Nat) : Nat := 1024 * lineOfRow (k.val % 8) pc bank row + 64 * sub

/-- A scrub pass of a stack begins: the rows' counts start again (R308, R311). -/
def beginPass (k : Fin 16) (s : State) : State := setStk k { getStk s k with rows := [] } s

/-- SCRUB_READ of one 64 B (R310). A held stack's scrubber stands still (R314); what it finds uncorrectable is refetched or reported (R466). -/
def scrub (k : Fin 16) (pc bank row sub : Nat) (found : EccResult) (s : State) : State :=
  if !stackLive s k || s.stk.hold.getLsbD k.val then s
  else
    let half := decide (8 ≤ k.val)
    let a := rowAddr k pc bank row sub
    let s := if pc = 0 && bank = 0 && row = 0 && sub = 0 then beginPass k s else s
    let s := stackEcc half a found s
    if found == .uncorrectable && !covered s half (a / 1024) && (secondCopy s half (a / granBytes)).isSome then startRefetch half (a / granBytes) false s else s

/-- A request of STK_REPAIR_REQ (R311): ignored while one is in progress. -/
def repairGo (k : Fin 16) (pc bank : Fin 64) (row : Nat) (s : State) : State :=
  if !awake s || s.stk.reqBusy then s
  else
    let s := { s with stk := { s.stk with reqStack := BitVec.ofNat 4 k.val, reqPc := BitVec.ofNat 6 pc.val, reqBank := BitVec.ofNat 6 bank.val, reqRow := BitVec.ofNat 15 row, reqScope := (k.val, pc.val, row) } }
    if !stackLive s k || 24576 ≤ row then s
    else
      let s := candidate k pc bank.val row s
      { s with stk := { s.stk with reqBusy := s.stk.installing.any fun x => x.coversRow k.val pc.val row } }

/-- STK_HOLD (R8, R314). -/
def holdWrite (hold : W16) (s : State) : State :=
  if anyConf s || ((hold &&& ~~~s.stk.hold) != 0 && !s.pads.isEmpty) then s else { s with stk := { s.stk with hold := hold } }

/-! ## Refetches (R467, R468) -/

/-- One poisoned 64 B of the Stack is written from its source, unless that is poisoned too. -/
def refetchUnit (half h2 : Bool) (src u : Nat) (s : State) : State :=
  if poisoned s h2 true (src / 64) then s
  else setPoison half false u false (setStackMem half (mcopy (barnMem s h2) src (stackMem s half) (64 * u) 64) s)

/-- Poisoned 64 B of a dirty Loft sector are written from the same source. -/
def refetchFrame (h2 : Bool) (base g key : Nat) (f : Frame) (s : State) : State :=
  let f := f.poison.foldl (fun (f : Frame) i =>
    let src := base + 1024 * (keyLine key - 2048 * g) + 64 * i
    if poisoned s h2 true (src / 64) then f
    else { f with data := mwrites f.data (64 * i) (mreads (barnMem s h2) src 64), poison := f.poison.filter (· != i) }) f
  setFrames (tput s.loft.frames key f) s

/-- The first poisoned place of a granule: of its units, then of its frames. -/
def firstPoison (g : Nat) (units : List Nat) (frames : List (Nat × Frame)) : Nat :=
  match units with
  | u :: _ => 64 * u
  | [] => match frames with
    | e :: _ => 1024 * keyLine e.1
    | [] => granBytes * g

/-- The poisoned units of a granule are read from its second copy, into the Stack and into the frames that hold them; the rows become candidates, and the
STACK entry names the first (R466). -/
def refetchFrom (half : Bool) (g : Nat) (lostw : Bool) (c : Bool × Nat × Bool) (s : State) : State :=
  let h2 := c.1
  let base := c.2.1
  let gen := c.2.2
  let units := (s.mem.poison.filter fun x => x.1 == half && !x.2.1 && x.2.2 / 32768 == g).map fun x => x.2.2
  let frames := s.loft.frames.filter fun e => keyInGran half g e.1 && !e.2.poison.isEmpty
  let s := units.foldl (fun t u => refetchUnit half h2 (base + 64 * (u - 32768 * g)) u t) s
  let s := frames.foldl (fun t e => refetchFrame h2 base g e.1 e.2 t) s
  let s := if gen then s else markDirty half (granBytes * g) s
  let s := units.foldl (fun t u =>
    let row := rowOfLine (u / 16)
    candidate (Fin.ofNat 16 (stackAt half (64 * u))) (Fin.ofNat 64 row.1) row.2.1 row.2.2 t) s
  let a := firstPoison g units frames
  let k : Fin 16 := Fin.ofNat 16 (stackAt half a)
  bump (1064 + k.val) 1 (report (stackErr 0x04 1 false (ownerPad s false half a) k a (b2n lostw + 2 * b2n gen)) s)

/-- REFETCH_DONE: the granule's poisoned 64 B are rewritten, their rows are candidates, one entry is written, and the held accesses go on. -/
def refetched (half : Bool) (g : Nat) (s : State) : State :=
  match s.stk.refetch.find? fun r => r.1 == half && r.2.1 == g with
  | none => s
  | some r =>
    let s := { s with stk := { s.stk with refetch := s.stk.refetch.filter fun x => !(x.1 == half && x.2.1 == g) } }
    match secondCopy s half g with
    | none => s
    | some c => refetchFrom half g r.2.2.1 c s

/-! ## Temperature (R315, R316) -/

/-- Lower bounds of the rows of R315, from the second on. -/
def tempBounds : List Nat := [85, 95, 105, 108]

/-- The row a reading lies in. -/
def tempRow (t : Nat) : Nat := (tempBounds.filter fun b => decide (b ≤ t)).length

/-- The row that stands while a reading falls: a row is left once the reading is 3 °C below its lower bound. -/
def tempKept (t : Nat) : Nat := (tempBounds.filter fun b => decide (b < t + 3)).length

/-- The row in force. -/
def tempNow (x : Stack) : Nat := if x.throttle = 2 then 4 else if x.throttle = 1 then 3 else x.refresh.toNat

def setTempRow (r : Nat) (x : Stack) : Stack :=
  { x with refresh := BitVec.ofNat 2 (min r 2), throttle := BitVec.ofNat 2 (r - 2) }

def stackPower (k : Fin 16) (code : Byte) (sev : BitVec 2) (q : Nat) : Err := quantErr 5 code sev 0xFF 0x03 k.val q

/-- STACK_TEMP_READ: refresh rate and throttle follow the reading; the third failure in a row takes the top row. -/
def stackTemp (k : Fin 16) (temp : Option Byte) (s : State) : State :=
  let x := getStk s k
  if !stackLive s k || !x.present then s
  else match temp with
    | none =>
      let y := { x with failed := x.failed + 1, temp := 0xFF }
      if x.failed = 2 then report (stackPower k 0x03 2 0xFF) (setStk k (setTempRow 4 y) s) else setStk k y s
    | some b =>
      let t := b.toNat
      let now := tempNow x
      let r := if 3 ≤ x.failed then tempRow t else max (tempRow t) (min now (tempKept t))
      let y := setTempRow r { x with failed := 0, temp := b }
      let s := setStk k y s
      if y.throttle != x.throttle then report (stackPower k 0x02 0 t) s else s

/-! ## Zeroing (R498, R545) -/

/-- BACKGROUND_ZEROING_DONE of a granule, of the Barn or, after STABLED, of the Stack by its number (R320). -/
def zeroingDone (half : Bool) (g : Nat) (s : State) : State :=
  let barn := decide (393216 ≤ g)
  { s with mem := { s.mem with tozero := cutZero barn half g 1 s.mem.tozero } }

/-! ## Stand-ins and failed interfaces (R323, R324, R326) -/

/-- STACK_INTERFACE_FAILURE of a stack or of one of its pseudo-channels. -/
def interfaceFails (k : Fin 16) (pc : Option (Fin 64)) (s : State) : State :=
  if stackLive s k then failScope { stack := k, pc := pc, span := none, failed := true } s else s

/-- STANDIN_INSTALL_DONE: the oldest stand-in of the stack that is being installed is in force (R324). found: what the copy's reads find. -/
def installDone (k : Fin 16) (found : List (Nat × EccResult)) (s : State) : State :=
  match s.stk.installing.find? fun x => x.stack == k with
  | none => s
  | some x => completeStandIn x found s

end Sys2Proof.Machine
end

