-- ==== Sys2Proof/Machine/Window.lean ====
section
/-! DEFINITION. The register window (R7 to R13, R347, R348, R555 to R568) and the sideband's register protocol (R561): reads and writes of every register
of the blocks of R275, R304, R327, R347, R348, R453, R454, R492, R512, R534, R554 and of the DEV, YM, FQ and SVC blocks. -/

namespace Sys2Proof.Machine

/-! ## Who may read and write (R555, R556, R559, R560) -/

/-- The blocks of the device map by bits 23:20 of the offset. -/
def blkDev : Nat := 0
def blkYm : Nat := 1
def blkFq : Nat := 2
def blkBeat : Nat := 3
def blkPwr : Nat := 4
def blkCnt : Nat := 5
def blkSec : Nat := 6
def blkSvc : Nat := 7
def blkLink : Nat := 8
def blkChk : Nat := 9
def blkLoft : Nat := 10
def blkXlt : Nat := 11
def blkStk : Nat := 12
def blkBarn : Nat := 13
def blkRes : Nat := 14
def blkTest : Nat := 15

/-- In STABLED only DEV and PWR answer, and while the boot ROM waits only DEV and SEC (R560). -/
def blockAnswers (s : State) (blk : Nat) : Bool :=
  if s.pwr.state == .stabled then blk == blkDev || blk == blkPwr
  else if s.sec.waiting then blk == blkDev || blk == blkSec
  else true

/-- The paddock whose function a virtual function is (R556). -/
def vfPad (s : State) (f : Func) : Option Nat :=
  (s.pads.find? fun e => e.2.p.port == decide (f.port.val = 1) && e.2.vf == f.vf.val && f.vf.val != 0).map Prod.fst

/-- The ring of a function. -/
def funcRing (s : State) (f : Func) : Option Nat := if f.vf.val = 0 then some f.port.val else (vfPad s f).map (2 + ·)

/-- The block and the offset in it that an aligned offset of an accessor's BAR0 names, or none where it reads zero and ignores writes. -/
def blockAt (s : State) (a : Accessor) (offset : Nat) : Option (Nat × Nat) :=
  if offset % 4 != 0 || 16777216 ≤ offset then none
  else
    let blk := offset / 1048576
    let off := offset % 1048576
    match a with
    | .sideband => if blk == blkYm || blk == blkFq || !blockAnswers s blk then none else some (blk, off)
    | .func f =>
      if f.vf.val = 0 then (if blockAnswers s blk then some (blk, off) else none)
      else if (vfPad s f).isNone || s.pwr.state == .stabled || s.sec.waiting then none
      else if blk = 0 then some (blkYm, off)
      else if blk = 1 then some (blkCnt, off)
      else none

/-- The accessor reaches the window: a function that answers memory requests, or the sideband with power. -/
def accessorUp (s : State) (a : Accessor) : Bool :=
  match a with
  | .func f => funcUp s f.port f.vf.val
  | .sideband => s.pins.p48vOk

/-! ## LO and HI pairs (R347) -/

/-- A view's rounding of a counter of a confidential paddock (R341). -/
def coarse16 (v : W64) : W64 := BitVec.ofNat 64 (v.toNat / 65536 * 65536)

/-- The live value of counter i as an accessor sees it: a virtual function sees its own paddock's alone (R341, R348). -/
def counterFor (s : State) (a : Accessor) (i : Nat) : W64 :=
  let v := tget s.cnt.live i 0
  match a with
  | .sideband => v
  | .func f =>
    if f.vf.val = 0 then v
    else match vfPad s f with
      | some p => if padCounter p i then (if isConf s p then coarse16 v else v) else 0
      | none => 0

/-- Counter i of slot k as an accessor sees it. -/
def latchedFor (s : State) (a : Accessor) (k : Fin 4) (i : Nat) : W64 :=
  let x := s.cnt.slots[k]
  let v := tget x.vals i 0
  match a with
  | .sideband => v
  | .func f =>
    if f.vf.val = 0 then v
    else match vfPad s f with
      | some p => if padCounter p i then (if isConf s p then coarse16 (tget x.view i v) else v) else 0
      | none => 0

/-- The 64 bits of a pair at this read. -/
def pairValue (s : State) (a : Accessor) (p : Pair) : W64 :=
  match p with
  | .beatNow => s.beat.count
  | .beatRt => rtNow s
  | .cntLive i => counterFor s a i.val
  | .cntSnap k i => latchedFor s a k i.val
  | .chkBytes d u => (getChk s (8 * d.val + u.val)).bytes
  | .chkValue d u => (getChk s (8 * d.val + u.val)).value

/-- The block that holds a pair. -/
def pairBlock (p : Pair) : Nat :=
  match p with
  | .beatNow => blkBeat
  | .beatRt => blkBeat
  | .cntLive _ => blkCnt
  | .cntSnap _ _ => blkCnt
  | .chkBytes _ _ => blkChk
  | .chkValue _ _ => blkChk

/-- The accessor's view has the pair (R347, R348, R454, R496). -/
def pairSeen (s : State) (a : Accessor) (p : Pair) : Bool :=
  match a with
  | .sideband => blockAnswers s (pairBlock p)
  | .func f => if f.vf.val = 0 then blockAnswers s (pairBlock p) else pairBlock p == blkCnt && (vfPad s f).isSome && blockAnswers s (pairBlock p)

def isLatch (a : Accessor) (p : Pair) (x : Accessor × Pair × W32) : Bool := x.1 == a && x.2.1 == p

/-- A look at RT moves it on. -/
def usePair (p : Pair) (s : State) : State := match p with | .beatRt => tickRt s | _ => s

/-- A LO read: bits 31:0, and the latch of bits 63:32, which replaces one that stands. -/
def readLo (a : Accessor) (p : Pair) (s : State) : State × W32 :=
  let v := pairValue s a p
  (usePair p { s with latches := (a, p, BitVec.ofNat 32 (v.toNat / 2 ^ 32)) :: s.latches.filter fun x => !isLatch a p x }, BitVec.ofNat 32 v.toNat)

/-- A HI read: the latch, which is consumed, or bits 63:32 as they stand. -/
def readHi (a : Accessor) (p : Pair) (s : State) : State × W32 :=
  match s.latches.find? fun x => isLatch a p x with
  | some x => ({ s with latches := s.latches.filter fun x => !isLatch a p x }, x.2.2)
  | none => (usePair p s, BitVec.ofNat 32 ((pairValue s a p).toNat / 2 ^ 32))

/-- The pair and whether its HI register that an offset of a block names. -/
def pairAt (blk off : Nat) : Option (Pair × Bool) :=
  if blk = blkBeat then
    (if off = 4 then some (.beatNow, false) else if off = 8 then some (.beatNow, true) else if off = 16 then some (.beatRt, false)
     else if off = 20 then some (.beatRt, true) else none)
  else if blk = blkCnt then
    (if off < 32768 then some (.cntLive (Fin.ofNat 4096 (off / 8)), off % 8 == 4)
     else if 65536 ≤ off && off < 196608 then
       some (.cntSnap (Fin.ofNat 4 ((off - 65536) / 32768)) (Fin.ofNat 4096 ((off - 65536) % 32768 / 8)), off % 8 == 4)
     else none)
  else if blk = blkChk && off < 512 then
    let d : Fin 2 := Fin.ofNat 2 (off / 256)
    let u : Fin 8 := Fin.ofNat 8 (off / 32)
    let w := off % 32 / 4
    if w = 1 then some (.chkBytes d u, false) else if w = 2 then some (.chkBytes d u, true)
    else if w = 4 then some (.chkValue d u, false) else if w = 5 then some (.chkValue d u, true) else none
  else none

/-! ## Reads -/

/-- A power reading as the PWR block shows it: in multiples of 50 W while a confidential paddock exists (R511). -/
def shownWatts (s : State) (w : W16) : Nat := if anyConf s then w.toNat / 50 * 50 else w.toNat

/-- Entry of a table of words from base on, at a stride: its number and the offset in it. -/
def tableAtOff (off base stride n : Nat) : Option (Nat × Nat) :=
  if base ≤ off && off < base + stride * n then some ((off - base) / stride, (off - base) % stride) else none

def readDev (s : State) (a : Accessor) (off : Nat) : Nat :=
  if off = 0 then Config.revision.toNat * 65536 + 0x0D21
  else if off = 4 then (match a with | .func f => 256 * f.port.val | .sideband => 0) + s.snaps.halves.toNat
  else match tableAtOff off 256 4 12 with
    | some (i, _) =>
      (match s.start.straps[Fin.ofNat 12 i] with
       | some x => 2147483648 + 16 * b2n x.half + 2 * x.slot.toNat + b2n x.mirror
       | none => 0)
    | none => 0

/-- A packet taken from the ring has no status entry yet. -/
def ringBusy (s : State) (r : Nat) : Bool := s.ym.cmds.any fun c => c.hdr.ring.val == r

/-- Word 0 or 1 of a 64-bit address. -/
def half32 (v : W64) (hi : Bool) : Nat := if hi then v.toNat / 2 ^ 32 else v.toNat % 2 ^ 32

/-- The YM block as the function of ring r sees it; vf: through a virtual function. -/
def readYm (s : State) (r : Nat) (vf : Bool) (off : Nat) : Nat :=
  let g := getRing s r
  if off = 0 then (if vf then 0 else s.ym.mode.toNat * 1048576 + s.ym.period.toNat)
  else if off = 0x100 then 2147483648 * b2n g.enable + 1073741824 * b2n (ringBusy s r) + 65536 * g.csize.toNat + 256 * g.ssize.toNat + g.vec.toNat
  else if off = 0x108 then half32 g.cring false
  else if off = 0x10C then half32 g.cring true
  else if off = 0x110 then half32 g.sring false
  else if off = 0x114 then half32 g.sring true
  else if off = 0x118 then half32 g.rcb false
  else if off = 0x11C then half32 g.rcb true
  else if off = 0x120 then g.refused.toNat
  else 0

def readFq (s : State) (q : Fin 2) (off : Nat) : Nat :=
  let x := getFq s q
  if off = 0 then 2147483648 * b2n x.enable + 536870912 * b2n x.overflow + 65536 * x.log2n.toNat + x.vec.toNat
  else if off = 8 then half32 x.base false
  else if off = 12 then half32 x.base true
  else if off = 16 then x.prod.toNat
  else if off = 20 then x.cons.toNat
  else 0

def readBeat (s : State) (off : Nat) : Nat :=
  let b := s.beat
  if off = 0 then 2147483648 * b2n b.locked + 1073741824 * b2n b.pend.isSome + b.source.toNat
  else if off = 0xC then b.force.period.toNat
  else if off = 0x20 then b.ptpdom.toNat
  else if off = 0x24 then 65536 * b.losses.toNat + b.skipped.toNat
  else match tableAtOff off 0x100 16 8 with
    | some (i, w) =>
      (match b.groups[i]? with
       | some g =>
         if w = 0 then 65536 * g.cfg.gid.toNat + g.drops.toNat
         else if w = 4 then 1048576 * g.origin.toNat + 4096 * g.slip.toNat + 2048 * b2n g.short
         else if w = 8 then g.dbeat.toNat
         else g.notices.toNat
       | none => 0)
    | none => 0

def readPwr (s : State) (off : Nat) : Nat :=
  let p := s.pwr
  if off = 0 then 536870912 * p.state.code + 268435456 * b2n p.fixed + 134217728 * b2n p.binding + 67108864 * b2n p.exiting +
    (if p.fixed then p.fixmhz.toNat else 0)
  else if off = 4 then 65536 * p.inforce.toNat + p.devcap.toNat
  else if off = 8 then 65536 * p.millivolt.toNat + shownWatts s p.watts
  else if off = 0xC then (if anyConf s then 0 else p.floor.toNat)
  else match tableAtOff off 0x100 16 8, tableAtOff off 0x400 8 32 with
    | some (d, w), _ =>
      let x := p.dies[Fin.ofNat 8 d]
      if w = 0 then 65536 * x.ceil.toNat + x.mhz.toNat
      else if w = 4 then 65536 * shownWatts s x.watts + 256 * x.hot.toNat + x.temp.toNat
      else if w = 8 then (List.finRange 4).foldl (fun a q => a + 2 ^ (8 * q.val) * ofSigned 8 x.trim[q]) 0
      else x.stretch.toNat
    | none, some (i, w) =>
      if w = 0 then 65536 * shownWatts s (tget p.draw i 0) + (match getPad s i with | some d => d.share.toNat | none => 0)
      else 65536 * shownWatts s (tget p.portion i 0) + (tget p.stalls i 0).toNat
    | none, none => 0

/-- CNT_SNAPINFO; the pairs are read apart. -/
def readCnt (s : State) (off : Nat) : Nat :=
  match tableAtOff off 0x8000 16 4 with
  | some (k, w) =>
    let x := s.cnt.slots[Fin.ofNat 4 k]
    if w = 0 then 2147483648 * b2n x.valid + 1073741824 * b2n x.pend.isSome
    else if w = 8 then half32 x.beat false
    else if w = 12 then half32 x.beat true
    else 0
  | none => 0

def confOf (s : State) (p : Nat) : Option Conf := match getPad s p with | some d => d.conf | none => none

def readSec (s : State) (off : Nat) : Nat :=
  let c := s.sec
  if off = 0 then 2147483648 * b2n c.prod + 1073741824 * b2n c.dbgopen + 536870912 * b2n c.dbgever + 268435456 * b2n c.hostimg +
    65536 * (s.pads.filter fun e => e.2.conf.isSome).length + (c.sessions.filter fun x => x.isOpen).length
  else if off = 4 then Config.deviceId.toNat % 2 ^ 32
  else if off = 8 then Config.deviceId.toNat / 2 ^ 32
  else if off = 0xC then 65536 * c.svn.toNat + c.fusedSvn.toNat
  else if off = 0x200 then 1073741824 * b2n c.busy + 536870912 * b2n c.persist + 16777216 * c.result.toNat
  else if off = 0x204 then half32 c.addr false
  else if off = 0x208 then half32 c.addr true
  else if off = 0x20C then c.len.toNat
  else match tableAtOff off 0x100 32 4, tableAtOff off 0x400 16 32 with
    | some (m, w), _ => bitsOf (c.meas[Fin.ofNat 4 m]).toNat (8 * w + 31) (8 * w)
    | none, some (p, w) =>
      (match confOf s p with
       | some x => if w = 0 then 2147483648 else if w = 4 then x.session.toNat else if w = 8 then x.authfail.toNat else x.pages.toNat
       | none => 0)
    | none, none => 0

def readSvc (s : State) (off : Nat) : Nat :=
  if off = 0 then 2147483648 * b2n s.panel.drain + 1073741824 * b2n s.panel.ident + 536870912 * b2n s.panel.held + 16777216 * faultLed s else 0

/-- The RWL fields of a send queue are locked (R8, R453). -/
def sqLocked (s : State) (q : Nat) : Bool := isConf s (getSq s q).pad.toNat

def sqBusy (s : State) (q : Nat) : Bool := s.links.ops.any fun o => o.queue == q

def readLink (s : State) (off : Nat) : Nat :=
  match tableAtOff off 0 16 36, tableAtOff off 0x400 4 2, tableAtOff off 0x1000 32 64, tableAtOff off 0x2000 16 16 with
  | some (p, w), _, _, _ =>
    let x := getPort s (Fin.ofNat 36 p)
    if w = 0 then 2147483648 * b2n x.present + 268435456 * x.state.code + 67108864 * x.mode.toNat + 8388608 * x.width.toNat + 1048576 * x.cfgw.toNat + x.pfcpri.toNat
    else if w = 4 then x.feccorr.toNat
    else if w = 8 then 65536 * x.retries.toNat + x.fecunc.toNat
    else 67108864 * x.peerPort.toNat + x.peerId.toNat % 67108864
  | none, some (d, _), _, _ =>
    let x := s.links.lanes[Fin.ofNat 2 d]
    536870912 * (x.spare.toList.filter fun l => l == 0x7F).length + (List.finRange 4).foldl (fun a k => a + 2 ^ (7 * k.val) * (x.spare[k]).toNat) 0
  | none, none, some (q, w), _ =>
    let x := getSq s q
    let open_ := !sqLocked s q
    if w = 0 then 1073741824 * b2n (sqBusy s q) + (if open_ then 2147483648 * b2n x.enable + 32768 * x.pad.toNat + 2048 * x.log2size.toNat + x.aspace.toNat else 0)
    else if w = 24 then x.ftag.toNat
    else if w = 28 then 16777216 * x.reason.toNat + 4096 * x.slot.toNat + x.fails.toNat
    else if !open_ then 0
    else if w = 4 then x.rbase.toNat
    else if w = 8 then x.kick.toNat
    else if w = 12 then x.cpost.toNat
    else if w = 16 then x.ports.toNat
    else x.targets.toNat
  | none, none, none, some (t, w) =>
    let x := getTgt s t
    if w = 0 then 2147483648 * b2n x.connect + 268435456 * x.state.toNat + 4194304 * x.port.toNat
    else if w = 4 then half32 x.haddr false
    else if w = 8 then half32 x.haddr true
    else x.nsid.toNat
  | none, none, none, none => 0

/-- CHK_UNIT word 0; the pairs are read apart. -/
def readChk (s : State) (off : Nat) : Nat :=
  match tableAtOff off 0 32 16 with
  | some (k, w) =>
    let x := getChk s k
    if w = 0 then 2147483648 * b2n x.armed + 1073741824 * b2n x.user.isSome + 268435456 * x.poly.toNat else 0
  | none => 0

def readLoft (s : State) (off : Nat) : Nat :=
  if off = 0x800 then 1073741824 * b2n s.loft.retire.isSome + 32 * s.loft.regDie.toNat + s.loft.regSlice.toNat
  else if off = 0x804 then (if anyConf s then 0 else s.loft.keepmax.toNat)
  else match tableAtOff off 0 4 256, tableAtOff off 0x400 4 8, tableAtOff off 0x1000 16 32 with
    | some (k, _), _, _ =>
      let x := getSlice s (k / 32) (k % 32)
      2147483648 * b2n (x.valid && halfIn s (k / 128)) + 16777216 * x.pdie.toNat + 65536 * x.pslice.toNat + x.cerr.toNat
    | none, some (d, _), _ => (s.loft.free[Fin.ofNat 8 d]).toNat
    | none, none, some (p, w) =>
      (match getPad s p with
       | some d => if w = 0 then d.cache.toNat else if w = 4 then d.commons.toNat else if w = 8 then slotCount s p false + slotCount s p true else d.spillUsed.length
       | none => 0)
    | none, none, none => 0

def readXlt (s : State) (off : Nat) : Nat :=
  if off = 0x3000 then (if anyConf s then 0 else s.xlt.migPeriod.toNat)
  else match tableAtOff off 0 8 1024, tableAtOff off 0x2000 8 256 with
    | some (t, w), _ =>
      let x := getSpace s t
      if w = 0 then 2147483648 * b2n x.valid + 536870912 * x.mig.toNat + 268435456 * b2n x.draining.isSome + 65536 * x.pad + x.epoch.toNat else x.table.length
    | none, some (i, w) =>
      let x := getWin s i
      if w = 0 then 2147483648 * b2n x.isOpen + 1073741824 * b2n (x.closing.isSome || x.old.any fun o => o.2.2.isSome) + 65536 * x.pad + 256 * x.wgen.toNat else x.drops.toNat
    | none, none => 0

def readStk (s : State) (off : Nat) : Nat :=
  if off = 0x400 then 256 * s.stk.rowthr.toNat + s.stk.period.toNat
  else if off = 0x404 then 1073741824 * b2n s.stk.reqBusy + 67108864 * s.stk.reqStack.toNat + 1048576 * s.stk.reqPc.toNat + 16384 * s.stk.reqBank.toNat
  else if off = 0x408 then s.stk.reqRow.toNat
  else if off = 0x40C then (if anyConf s then 0 else s.stk.hold.toNat)
  else match tableAtOff off 0 4 16, tableAtOff off 0x100 4 16, tableAtOff off 0x200 8 16, tableAtOff off 0x300 8 16 with
    | some (k, _), _, _, _ =>
      let x := getStk s (Fin.ofNat 16 k)
      2147483648 * b2n (x.present && halfIn s (k / 8)) + 65536 * x.standin.toNat + 16384 * x.throttle.toNat + 4096 * x.refresh.toNat + x.temp.toNat
    | none, some (k, _), _, _ => let x := getStk s (Fin.ofNat 16 k); 65536 * x.uncorr.toNat + x.corr.toNat
    | none, none, some (k, w), _ => let x := getStk s (Fin.ofNat 16 k); if w = 0 then 65536 * x.soft.toNat + x.hard.toNat else x.dry.toNat
    | none, none, none, some (k, w) => let x := getStk s (Fin.ofNat 16 k); if w = 0 then x.pcLo.toNat else x.pcHi.toNat
    | none, none, none, none => 0

def readBarn (s : State) (off : Nat) : Nat :=
  match tableAtOff off 0 8 16, tableAtOff off 0x100 4 2 with
  | some (c, w), _ => let x := s.stk.barn[Fin.ofNat 16 c]; if w = 0 then 2147483648 * b2n x.usedup + x.temp.toNat else 65536 * x.uncorr.toNat + x.corr.toNat
  | none, some (h, _) =>
    let i : Fin 2 := Fin.ofNat 2 h
    4194304 * ceilDiv (reserveUsed s (decide (h = 1))) 1024 + 2048 * (s.stk.standinNext[i]).toNat + (s.stk.standinCur[i]).toNat
  | none, none => 0

/-- Links or groups of a set that keep a condition in some direction. -/
def countWires (s : State) (mine : WireUnit → Bool) (p : WireSt → Bool) : Nat :=
  ((s.mesh.wires.filter fun w => mine w.unit && p w).map fun w => w.unit).eraseDups.length

def wiresOf (s : State) (mine : WireUnit → Bool) : Nat := 256 * countWires s mine (fun w => w.half) + countWires s mine fun w => decide (16 ≤ w.used)

def freeSpares (s : State) (g : Fin 16) (toHigh : Bool) : Nat :=
  match s.mesh.wires.find? fun w => w.unit == .seam g && w.toHigh == toHigh with
  | some w => 16 - w.used
  | none => 16

/-- The resume record of a paddock in the generation in force. -/
def resumeIn (s : State) (p : Nat) : Option Resume :=
  match currentGen s with
  | some g => (s.snaps.gens[g]).records.find? fun r => r.pad == p
  | none => none

def readRes (s : State) (off : Nat) : Nat :=
  let n := s.snaps
  if off = 0x700 then 16777216 * n.wirethr.toNat + 4096 * n.slicethr.toNat + n.corethr.toNat
  else if off = 0x704 then 1073741824 * b2n n.retBusy + n.retCore.toNat
  else match tableAtOff off 0 16 2, tableAtOff off 0x100 16 32, tableAtOff off 0x400 8 32 with
    | some (g, w), _, _ =>
      let i : Fin 2 := Fin.ofNat 2 g
      let x := n.gens[i]
      if w = 0 then 2147483648 * b2n x.current + 1073741824 * b2n x.complete + 536870912 * b2n (n.mark.any fun m => m.gen == i) +
        268435456 * b2n (n.streams.any fun y => y.active && y.gen == i)
      else if w = 4 then half32 x.markbeat false
      else if w = 8 then half32 x.markbeat true
      else x.gib.toNat
    | none, some (p, w), _ =>
      let rec? := resumeIn s p
      let inv := match rec? with | some r => (match r.pipe with | some x => x.2.2.2 | none => 0) | none => 0
      if w = 0 then
        2147483648 * b2n (match rec? with | some r => r.pipe.isSome | none => false) + 1073741824 * b2n (match getPad s p with | some d => d.p.autores | none => false) +
        268435456 * (match rec? with | some r => min 3 r.resumes | none => 0)
      else if w = 4 then inv % 2 ^ 32
      else if w = 8 then inv / 2 ^ 32
      else 0
    | none, none, some (q, w) =>
      if w = 0 then 536870912 * (freeSites s q).length
      else (List.range 32).foldl (fun a j => if (getCore s (32 * q + j)).out then a + 2 ^ j else a) 0
    | none, none, none =>
      match tableAtOff off 0x600 4 12, tableAtOff off 0x640 4 16, tableAtOff off 0x680 4 8 with
      | some (e, _), _, _ => wiresOf s fun u => match u with | .edge i _ => i.val == e | _ => false
      | none, some (g, _), _ =>
        let i : Fin 16 := Fin.ofNat 16 g
        2147483648 * b2n (s.mesh.wires.any fun w => w.unit == .seam i && w.half) + 32 * freeSpares s i true + freeSpares s i false
      | none, none, some (d, _) => wiresOf s fun u => match u with | .mesh l => coreDie (linkEnds l.val).1 == d | _ => false
      | none, none, none => 0

def StartKind.code (k : StartKind) : Nat := match k with | .cold => 0 | .keptCold => 1 | .warm => 2 | .restart => 3

/-- Straps by the chain order of R550, from TDI. -/
def chainOrder : List Nat := [8, 0, 1, 2, 3, 4, 5, 6, 7, 9]

/-- A die is bypassed: held in reset, or without rails. -/
def bypassed (s : State) (i : Nat) : Bool :=
  !s.pins.p48vOk || !s.pins.pwrOk ||
  match s.start.straps[Fin.ofNat 12 i] with
  | some x => s.snaps.dark.getLsbD (b2n x.half)
  | none => true

def readTest (s : State) (off : Nat) : Nat :=
  if off = 0 then 1073741824 * s.start.kind.code + 67108864 * s.start.step + s.start.ms.toNat
  else if off = 4 then (chainOrder.zipIdx.filter fun x => bypassed s x.1).foldl (fun a x => a + 2 ^ x.2) 0
  else if off = 8 then 65536 * s.start.seamFull.toNat + 256 * s.start.hbmFull.toNat + s.start.barnFull.toNat
  else 0

/-- A word of a block as an accessor reads it, the pairs apart. -/
def readWord (s : State) (a : Accessor) (blk off : Nat) : Nat :=
  match blk with
  | 0 => readDev s a off
  | 1 => (match a with
    | .func f => (match funcRing s f with | some r => readYm s r (f.vf.val != 0) off | none => 0)
    | .sideband => 0)
  | 2 => (match a with | .func f => readFq s f.port off | .sideband => 0)
  | 3 => readBeat s off
  | 4 => readPwr s off
  | 5 => readCnt s off
  | 6 => readSec s off
  | 7 => readSvc s off
  | 8 => readLink s off
  | 9 => readChk s off
  | 10 => readLoft s off
  | 11 => readXlt s off
  | 12 => readStk s off
  | 13 => readBarn s off
  | 14 => readRes s off
  | 15 => readTest s off
  | _ => 0

/-- A 32-bit read at an offset (R558, R559). -/
def windowRead (a : Accessor) (offset : Nat) (s : State) : State × W32 :=
  match blockAt s a offset with
  | none => (s, 0)
  | some (blk, off) =>
    match pairAt blk off with
    | some (p, hi) => if hi then readHi a p s else readLo a p s
    | none => (s, BitVec.ofNat 32 (readWord s a blk off))

/-! ## Writes -/

/-- A W1C field: each 1 clears its bit (R7). -/
def w1c {w : Nat} (x : BitVec w) (v : Nat) : BitVec w := x &&& ~~~(BitVec.ofNat w v)

/-- A 64-bit address with one of its words replaced; the low bits given read zero. -/
def setHalf (x : W64) (hi : Bool) (v low : Nat) : W64 :=
  if hi then BitVec.ofNat 64 (v % 2 ^ 32 * 2 ^ 32 + x.toNat % 2 ^ 32) else BitVec.ofNat 64 (x.toNat / 2 ^ 32 * 2 ^ 32 + v % 2 ^ 32 / 2 ^ low * 2 ^ low)

def ringIdle (s : State) (r : Nat) : Bool := !(getRing s r).enable && !ringBusy s r

/-- ENABLE of a ring (R566): set from 0, the first sweep takes its indices from the control block. -/
def ringEnable (r : Nat) (on : Bool) (s : State) : State :=
  let g := getRing s r
  setRing r { g with enable := on, fresh := (if on && !g.enable then true else g.fresh) } s

/-- Writes of the YM block (R350 to R354, R563, R564, R566). -/
def writeYm (r : Nat) (vf : Bool) (off v : Nat) (s : State) : State :=
  let g := getRing s r
  let idle := ringIdle s r
  if off = 0 then
    if vf then s
    else
      let mode := bitsOf v 21 20
      let period := bitsOf v 19 0
      { s with ym := { s.ym with mode := if mode = 3 then s.ym.mode else BitVec.ofNat 2 mode,
                                 period := if 250 ≤ period && period ≤ 1000000 then BitVec.ofNat 20 period else s.ym.period } }
  else if off = 0x100 then
    let c := bitsOf v 20 16
    let k := bitsOf v 12 8
    let g := if idle && !vf then
        { g with csize := (if 12 ≤ c && c ≤ 20 then BitVec.ofNat 5 c else g.csize), ssize := (if 6 ≤ k && k ≤ 16 then BitVec.ofNat 5 k else g.ssize),
                 vec := BitVec.ofNat 2 v }
      else g
    ringEnable r (bitOf v 31) (setRing r g s)
  else if off = 0x108 then (if idle then setRing r { g with cring := setHalf g.cring false v 12 } s else s)
  else if off = 0x10C then (if idle then setRing r { g with cring := setHalf g.cring true v 0 } s else s)
  else if off = 0x110 then (if idle then setRing r { g with sring := setHalf g.sring false v 12 } s else s)
  else if off = 0x114 then (if idle then setRing r { g with sring := setHalf g.sring true v 0 } s else s)
  else if off = 0x118 then (if idle then setRing r { g with rcb := setHalf g.rcb false v 6 } s else s)
  else if off = 0x11C then (if idle then setRing r { g with rcb := setHalf g.rcb true v 0 } s else s)
  else if off = 0x120 then setRing r { g with refused := w1c g.refused v } s
  else s

/-- ENABLE of a fault queue (R544, R567): from 0 to 1 its indices are zero, and the first setup of all takes the held entries. -/
def fqEnable (q : Fin 2) (on : Bool) (s : State) : State :=
  let x := getFq s q
  if on && !x.enable then
    let first := noneSetUp s
    let s := setFq q { x with enable := true, prod := 0, cons := 0, setUp := true } s
    if first then flushHeld q s else s
  else setFq q { x with enable := on } s

def writeFq (q : Fin 2) (off v : Nat) (s : State) : State :=
  let x := getFq s q
  if off = 0 then
    let n := bitsOf v 19 16
    let y := if x.enable then x else { x with log2n := (if 10 ≤ n then BitVec.ofNat 4 n else x.log2n), vec := BitVec.ofNat 2 v }
    fqEnable q (bitOf v 31) (setFq q y s)
  else if off = 8 then (if x.enable then s else setFq q { x with base := setHalf x.base false v 12 } s)
  else if off = 12 then (if x.enable then s else setFq q { x with base := setHalf x.base true v 0 } s)
  else if off = 20 then setFq q { x with cons := BitVec.ofNat 32 v } s
  else s

def writeBeat (off v : Nat) (s : State) : State :=
  if off = 0x20 then setBeat (fun b => { b with ptpdom := BitVec.ofNat 8 v }) s
  else if off = 0x24 then setBeat (fun b => { b with losses := w1c b.losses (v / 65536) }) s
  else s

def setShadow (f : Shadow → Shadow) (s : State) : State := { s with shadow := f s.shadow }

def writePwr (a : Accessor) (off v : Nat) (s : State) : State :=
  if off = 0xC then
    let mhz := bitsOf v 10 0
    if anyConf s || !isStep mhz then s else setShadow (fun x => { x with floor := some (BitVec.ofNat 11 mhz) }) s
  else if off = 0x10 then (if bitOf v 0 then wake a s else s)
  else match tableAtOff off 0x100 16 8, tableAtOff off 0x400 8 32 with
    | some (d, w), _ => if w = 12 then modDie (Fin.ofNat 8 d) (fun x => { x with stretch := w1c x.stretch v }) s else s
    | none, some (p, w) => if w = 4 then setPwr (fun x => { x with stalls := tput x.stalls p (w1c (tget x.stalls p 0) v) }) s else s
    | none, none => s

/-- The host port through which an accessor's image or target record is read (R446, R518); the sideband has none. -/
def accessorPort (a : Accessor) : Option (Fin 2) := match a with | .func f => some f.port | .sideband => none

/-- Word 0 of SEC_IMG: PERSIST, GO and RAISE. Through the sideband no port can read the image (log 2). -/
def writeImg (a : Accessor) (v : Nat) (s : State) : State :=
  let persist := bitOf v 29
  let s := setSec (fun c => { c with persist := persist }) s
  let s := if !bitOf v 31 || s.sec.busy then s
    else match accessorPort a with
      | some h => imageGo h persist s.sec.addr s.sec.len (Config.freeImage s.free) (useFree s)
      | none => setSec (fun c => { c with result := 7 }) s
  if bitOf v 28 then raiseSvn s else s

def writeSec (a : Accessor) (off v : Nat) (s : State) : State :=
  if off = 0x200 then writeImg a v s
  else if off = 0x204 then setSec (fun c => { c with addr := setHalf c.addr false v 0 }) s
  else if off = 0x208 then setSec (fun c => { c with addr := setHalf c.addr true v 0 }) s
  else if off = 0x20C then setSec (fun c => { c with len := BitVec.ofNat 32 v }) s
  else match tableAtOff off 0x400 16 32 with
    | some (p, w) => if w = 8 then modConf p (fun c => { c with authfail := w1c c.authfail v }) s else s
    | none => s

def writeSvc (off v : Nat) (s : State) : State :=
  if off = 0 then
    let s := if bitOf v 31 then drainClear s else s
    identWrite (bitOf v 30) s
  else s

/-- ENABLE of a send queue: while its paddock is confidential the field is locked (R453). -/
def sqEnable (q : Nat) (on : Bool) (s : State) : State := if sqLocked s q then s else setSq q { getSq s q with enable := on } s

def sqIdle (s : State) (q : Nat) : Bool := !(getSq s q).enable && !sqBusy s q

def writeSq (q w v : Nat) (s : State) : State :=
  let x := getSq s q
  if w = 28 then setSq q { x with fails := w1c x.fails v } s
  else if sqLocked s q then s
  else
    let idle := sqIdle s q
    if w = 0 then
      let n := bitsOf v 14 11
      let y := if idle then { x with pad := BitVec.ofNat 5 (bitsOf v 19 15), log2size := (if 4 ≤ n && n ≤ 12 then BitVec.ofNat 4 n else x.log2size),
                                     aspace := BitVec.ofNat 10 v } else x
      setSq q { y with enable := bitOf v 31 } s
    else if !idle then s
    else if w = 4 then setSq q { x with rbase := BitVec.ofNat 32 v } s
    else if w = 8 then setSq q { x with kick := BitVec.ofNat 32 v } s
    else if w = 12 then setSq q { x with cpost := BitVec.ofNat 32 v } s
    else if w = 16 then setSq q { x with ports := BitVec.ofNat 18 v } s
    else if w = 20 then setSq q { x with targets := BitVec.ofNat 16 v } s
    else s

/-- A write of a target's registers: idle-only fields against the state before it, then CONNECT (R446, R564). -/
def writeTgt (a : Accessor) (t : Fin 16) (w v : Nat) (s : State) : State :=
  let x := getTgt s t.val
  let idle := x.state == 0 || x.state == 3
  if w = 0 then
    let s := if idle then setTgt t.val { x with port := BitVec.ofNat 6 (bitsOf v 27 22) } s else s
    if bitOf v 31 then connectTarget ((accessorPort a).getD 0) t s else disconnectTarget t s
  else if !idle then s
  else if w = 4 then setTgt t.val { x with haddr := setHalf x.haddr false v 0 } s
  else if w = 8 then setTgt t.val { x with haddr := setHalf x.haddr true v 0 } s
  else setTgt t.val { x with nsid := BitVec.ofNat 32 v } s

def writeLink (a : Accessor) (off v : Nat) (s : State) : State :=
  match tableAtOff off 0 16 36, tableAtOff off 0x1000 32 64, tableAtOff off 0x2000 16 16 with
  | some (i, w), _, _ =>
    modPort (Fin.ofNat 36 i) (fun x =>
      if w = 0 then (if x.state == .up then x else { x with pfcpri := BitVec.ofNat 3 v })
      else if w = 4 then { x with feccorr := w1c x.feccorr v }
      else if w = 8 then { x with retries := w1c x.retries (v / 65536), fecunc := w1c x.fecunc v }
      else x) s
  | none, some (q, w), _ => writeSq q w v s
  | none, none, some (t, w) => writeTgt a (Fin.ofNat 16 t) w v s
  | none, none, none => s

/-- LOFT_RETIRE with GO: ignored while a retirement is in progress (R273, R275). -/
def retireSlice (die : BitVec 3) (slice : BitVec 5) (s : State) : State :=
  let busy := s.loft.retire.isSome
  let s := { s with loft := { s.loft with regDie := die, regSlice := slice } }
  if busy || !halfIn s (die.toNat / 4) then s else failSlice die.toNat slice.toNat s

def writeLoft (off v : Nat) (s : State) : State :=
  if off = 0x800 then
    let d := BitVec.ofNat 3 (bitsOf v 7 5)
    let i := BitVec.ofNat 5 v
    if bitOf v 31 then retireSlice d i s else { s with loft := { s.loft with regDie := d, regSlice := i } }
  else if off = 0x804 then (if anyConf s then s else setShadow (fun x => { x with keepmax := some (BitVec.ofNat 4 v) }) s)
  else s

def writeXlt (off v : Nat) (s : State) : State :=
  if off = 0x3000 then
    let n := bitsOf v 13 0
    if anyConf s || n < 100 || 10000 < n then s else setShadow (fun x => { x with migPeriod := some (BitVec.ofNat 14 n) }) s
  else s

/-- STK_REPAIR_REQ: the fields, then GO with the row of STK_REPAIR_ROW (R311). -/
def writeRepair (v : Nat) (s : State) : State :=
  let s' := { s with stk := { s.stk with reqStack := BitVec.ofNat 4 (bitsOf v 29 26), reqPc := BitVec.ofNat 6 (bitsOf v 25 20), reqBank := BitVec.ofNat 6 (bitsOf v 19 14) } }
  if bitOf v 31 then repairGo (Fin.ofNat 16 (bitsOf v 29 26)) (Fin.ofNat 64 (bitsOf v 25 20)) (Fin.ofNat 64 (bitsOf v 19 14)) s'.stk.reqRow.toNat s' else s'

def writeStk (off v : Nat) (s : State) : State :=
  if off = 0x400 then
    let r := bitsOf v 11 8
    let p := bitsOf v 7 0
    setShadow (fun x => { x with rowthr := if r = 0 then x.rowthr else some (BitVec.ofNat 4 r),
                                 scrub := if 1 ≤ p && p ≤ 168 then some (BitVec.ofNat 8 p) else x.scrub }) s
  else if off = 0x404 then writeRepair v s
  else if off = 0x408 then { s with stk := { s.stk with reqRow := BitVec.ofNat 15 v } }
  else if off = 0x40C then holdWrite (BitVec.ofNat 16 v) s
  else match tableAtOff off 0x100 4 16 with
    | some (k, _) =>
      let i : Fin 16 := Fin.ofNat 16 k
      let x := getStk s i
      setStk i { x with uncorr := w1c x.uncorr (v / 65536), corr := w1c x.corr v } s
    | none => s

def writeBarn (off v : Nat) (s : State) : State :=
  match tableAtOff off 0 8 16, tableAtOff off 0x100 4 2 with
  | some (c, w), _ =>
    if w = 4 then
      let i : Fin 16 := Fin.ofNat 16 c
      let x := s.stk.barn[i]
      { s with stk := { s.stk with barn := s.stk.barn.set i { x with uncorr := w1c x.uncorr (v / 65536), corr := w1c x.corr v } } }
    else s
  | none, some (h, _) =>
    let n := bitsOf v 19 11
    if n ≤ 256 then { s with stk := { s.stk with standinNext := s.stk.standinNext.set (Fin.ofNat 2 h) (BitVec.ofNat 9 n) } } else s
  | none, none => s

def writeRes (off v : Nat) (s : State) : State :=
  if off = 0x700 then
    let w := bitsOf v 31 24
    let l := bitsOf v 23 12
    let c := bitsOf v 11 0
    setShadow (fun x => { x with wirethr := (if w = 0 then x.wirethr else some (BitVec.ofNat 8 w)), slicethr := (if l = 0 then x.slicethr else some (BitVec.ofNat 12 l)),
                                 corethr := (if c = 0 then x.corethr else some (BitVec.ofNat 12 c)) }) s
  else if off = 0x704 then
    let s := { s with snaps := { s.snaps with retCore := BitVec.ofNat 10 v } }
    if bitOf v 31 then retireGo (bitsOf v 9 0) s else s
  else s

/-- A word written by an accessor. -/
def writeWord (a : Accessor) (blk off v : Nat) (s : State) : State :=
  match blk with
  | 1 => (match a with
    | .func f => (match funcRing s f with | some r => writeYm r (f.vf.val != 0) off v s | none => s)
    | .sideband => s)
  | 2 => (match a with | .func f => writeFq f.port off v s | .sideband => s)
  | 3 => writeBeat off v s
  | 4 => writePwr a off v s
  | 6 => writeSec a off v s
  | 7 => writeSvc off v s
  | 8 => writeLink a off v s
  | 10 => writeLoft off v s
  | 11 => writeXlt off v s
  | 12 => writeStk off v s
  | 13 => writeBarn off v s
  | 14 => writeRes off v s
  | _ => s

/-- A 32-bit write at an offset (R558, R559, R560). -/
def windowWrite (a : Accessor) (offset : Nat) (v : W32) (s : State) : State :=
  match blockAt s a offset with
  | none => s
  | some (blk, off) => writeWord a blk off v.toNat s

/-! ## The sideband (R561, R562) -/

/-- A block that the Lodge holds itself (R30): DEV, PWR and SVC need no die that is powered down or out of service. -/
def lodgeReaches (s : State) (offset : Nat) (reached : Bool) : Bool :=
  let blk := offset / 1048576
  (reached && s.pins.pwrOk) || blk == blkDev || blk == blkPwr || blk == blkSvc || !blockAnswers s blk

/-- REG_READ: byte count 5, STATUS, VALUE. -/
def sidebandRead (pecOk : Bool) (offset : W32) (reached : Bool) (s : State) : State :=
  if !pecOk || !s.pins.p48vOk || offset.toNat % 4 != 0 then s
  else if !lodgeReaches s offset.toNat reached then withReply (leBytes 1 5 ++ leBytes 1 1 ++ leBytes 4 0) s
  else
    let r := windowRead .sideband offset.toNat s
    withReply (leBytes 1 5 ++ leBytes 1 0 ++ leBytes 4 r.2.toNat) r.1

def sidebandWrite (pecOk : Bool) (offset value : W32) (reached : Bool) (s : State) : State :=
  if !pecOk || !s.pins.p48vOk || offset.toNat % 4 != 0 || !lodgeReaches s offset.toNat reached then s else windowWrite .sideband offset.toNat value s

end Sys2Proof.Machine
end

