-- ==== Sys2Proof/Machine/Tyest.lean ====
section
/-! DEFINITION. The Tyest protocol (R349 to R369): packets, checks, acceptance, when a command begins, what each begins, the sweep. -/

namespace Sys2Proof.Machine

/-! ## What an opcode takes (R360, R361, R368) -/

/-- The scopes of R360. -/
inductive Scope where
  | device | paddock | fresh | either
  deriving DecidableEq, Repr

def Body.scope (b : Body) : Scope :=
  match b with
  | .devInfo => .either
  | .devWarm _ => .device
  | .devHalfloss _ => .device
  | .padCreate _ => .fresh
  | .groupJoin _ => .device
  | .groupLeave _ => .device
  | .linkQuery _ => .device
  | .linkEnable _ => .device
  | .linkDisable _ => .device
  | .linkSet _ _ _ => .device
  | .checkArm _ _ _ => .device
  | .checkRead _ _ => .device
  | .snapMark _ => .device
  | .snapRestore _ => .either
  | .faultAck _ => .device
  | .snapStream _ => .device
  | .pwrCap _ => .either
  | .pwrState _ _ => .device
  | .pwrFixed _ _ => .device
  | .attReport _ _ _ => .either
  | .cntSnap _ _ => .device
  | .beatSet _ => .device
  | .testSelf _ _ => .device
  | .testCold _ _ => .device
  | _ => .paddock

/-- Commands of manager rings alone. -/
def Body.managerOnly (b : Body) : Bool :=
  match b with
  | .devInfo => false
  | .attReport _ _ _ => false
  | .extShare _ => true
  | .padDestroy _ => true
  | .padReset _ => true
  | .padCreate _ => true
  | _ => match b.scope with
    | .paddock => false
    | _ => true

/-- Commands that take execute-at-beat. -/
def Body.takesBeat (b : Body) : Bool :=
  match b with
  | .devWarm _ => true
  | .extUnmap _ _ => true
  | .prefetch _ => true
  | .copy _ => true
  | .padDestroy _ => true
  | .padReset _ => true
  | .jobLaunch _ => true
  | .pipeMove _ => true
  | .postSet _ _ => true
  | .groupJoin _ => true
  | .groupLeave _ => true
  | .winOpen _ => true
  | .winClose _ => true
  | .linkQuery _ => true
  | .linkEnable _ => true
  | .linkDisable _ => true
  | .linkSet _ _ _ => true
  | .snapMark _ => true
  | .snapRestore _ => true
  | .snapStream _ => true
  | .pwrCap _ => true
  | .pwrState _ _ => true
  | .pwrFixed _ _ => true
  | _ => false

def Body.isTest (b : Body) : Bool := match b with | .testSelf _ _ => true | .testCold _ _ => true | _ => false

/-! ## Checks on parameters alone (check 9 of R358) -/

/-- An address of a window or extent start: bits 20:0 and 63:47 zero. -/
def startOk (v : W64) : Bool := decide (v.toNat % granBytes = 0 ∧ v.toNat < 2 ^ 47)

def linkModeOk (port : BitVec 6) (mode : BitVec 2) (width : BitVec 3) : Bool :=
  decide (port.toNat < 36) && (if mode = 0 then width == 1 || width == 2 || width == 4 else width == 0 && (mode == 1 || (mode == 2 && decide (port.toNat % 2 = 0))))

/-- Parameter fields hold no refused value. -/
def Body.fieldsOk (b : Body) : Bool :=
  match b with
  | .devHalfloss h => decide (h.toNat ≤ 1)
  | .extMap d => extFields d
  | .adviseHint _ _ h => h != 0
  | .adviseHost r => r.count != 0
  | .adviseMigmode _ m hot => m != 3 && hot != 0
  | .prefetch r => r.count != 0
  | .copy p => decide (p.iodie.toNat ≤ 2) && p.desc.dchkOk && !descBad p.desc && !descMisaligned p.desc
  | .extShare p => startOk p.tvbase
  | .padCreate p => createOk p
  | .padDestroy m => decide (m.toNat ≤ 1)
  | .padReset m => decide (m.toNat ≤ 1)
  | .jobLaunch p => decide (p.prog.toNat % 16 = 0) && p.blocks != 0 && p.limitAc != 0 && shapeOk p.shape &&
      decide ((p.sw.toNat + 1) * (p.sh.toNat + 1) = shapeString p.shape) && p.blocks.toNat % shapeString p.shape == 0 &&
      decide (p.px.toNat + p.pw.toNat ≤ 63 ∧ p.py.toNat + p.ph.toNat ≤ 15)
  | .seqJoin p => p.plen != 0 && decide (p.plen.toNat < p.maxtok.toNat ∧ p.prompt.toNat % 4 = 0)
  | .batchSubmit p => decide (64 ≤ p.len.toNat ∧ p.addr.toNat % 16 = 0)
  | .groupJoin g => groupFields g
  | .groupLeave g => groupFields g
  | .winOpen w => startOk w.vbase && decide (w.npost.toNat ≤ 4096 ∧ 1 ≤ w.len.toNat ∧ w.len.toNat ≤ 524288)
  | .linkQuery p => decide (p.toNat < 36)
  | .linkEnable p => decide (p.toNat < 36)
  | .linkDisable p => decide (p.toNat < 36)
  | .linkSet p m w => linkModeOk p m w
  | .checkArm _ u poly => decide (1 ≤ u.toNat ∧ u.toNat ≤ 8) && poly != 3
  | .checkRead _ u => decide (1 ≤ u.toNat ∧ u.toNat ≤ 8)
  | .snapRestore g => g == 0 || g == 1 || g == 0xFF
  | .snapStream p => streamOk p
  | .pwrState x keep => stateFields x keep
  | .attReport dest _ _ => decide (dest.toNat % 4096 = 0)
  | .confEnter p => decide (p.bounce.toNat % 4096 = 0) && p.pages != 0
  | .beatSet p => decide (1 ≤ p.period.toNat ∧ p.period.toNat ≤ 10000 ∧ p.source.toNat ≤ 1)
  | _ => true

/-! ## Acceptance (R355, R358 to R360) -/

/-- PADDOCK keeps the rule of the scope (R360). -/
def scopeOk (s : State) (h : CmdHdr) (b : Body) : Bool :=
  let device := h.paddock == 0xFF
  let tenant := decide (2 ≤ h.ring.val)
  let exists_ := decide (h.paddock.toNat < 32) && (getPad s h.paddock.toNat).isSome
  let named := exists_ && (!tenant || h.paddock.toNat == h.ring.val - 2)
  match b.scope with
  | .device => device
  | .paddock => named
  | .fresh => decide (h.paddock.toNat < 32) && !exists_
  | .either => if b == .devInfo then (if tenant then named else device) else device && !tenant || named

/-- Manager commands on a paddock that is being reset or destroyed are refused, but for three (R415). -/
def drainOk (s : State) (h : CmdHdr) (b : Body) : Bool :=
  match b with
  | .padQuery => true
  | .padReset _ => true
  | .padDestroy _ => true
  | .padCreate _ => true
  | _ => h.paddock == 0xFF || !((getPad s h.paddock.toNat).any fun d => d.drain.isSome)

/-- The rectangle of a launch keeps R90 and R381. -/
def launchOk (s : State) (pad : Nat) (p : LaunchParams) : Bool :=
  let rect := launchCores p
  let n := shapeString p.shape
  match getPad s pad with
  | none => false
  | some d =>
    let plots := match d.pipe with | some pl => pl.plots | none => []
    let running := d.launches.flatMap fun l => launchCores l.p
    decide (p.px.toNat + p.pw.toNat ≤ 63 ∧ p.py.toNat + p.ph.toNat ≤ 15) &&
    rect.all (fun c => coreOfPad s pad c && !plots.contains c && !running.contains c) &&
    decide ((p.sw.toNat + 1) * (p.sh.toNat + 1) = n) && p.blocks.toNat % n == 0 &&
    rect.any fun c =>
      let cs := stringCores c p.sw.toNat p.sh.toNat
      !cs.isEmpty && cs.all fun x => rect.contains x && coreDie x == coreDie c

/-- WIN.OPEN is not refused (R294, R527). -/
def winOk (s : State) (pad : Nat) (w : WinEntry) : Bool :=
  let x := getWin s w.win.toNat
  x.given && x.pad == pad && !x.isOpen && tagOf s pad w.tag.toNat && !isConf s pad &&
  (w.npost == 0 || (padPost s pad (w.post0.toNat + w.npost.toNat - 1)).isSome)

/-- WIN.CLOSE names a window of the paddock (R296). -/
def closeOk (s : State) (pad : Nat) (win : Byte) : Bool := let x := getWin s win.toNat; x.given && x.pad == pad

/-- PIPE.LOAD is not refused for what the paddock runs (R171, R405). -/
def loadOk (s : State) (pad : Nat) (tag : BitVec 10) : Bool :=
  match getPad s pad with
  | none => false
  | some d => !pipeActive d && (d.p.serve != 1 || tag == d.p.kvtag)

/-- PIPE.START is not refused (R382). -/
def pipeStartOk (s : State) (pad : Nat) : Bool := (getPipe s pad).any fun pl => !(pl.start.any fun st => !st.ended)

/-- A change of a tag whose turn comes later is judged in its turn (R292). -/
def turnWaits (s : State) (tag : Nat) : Bool := !(getSpace s tag).waiting.isEmpty

/-- The port of the function that a ring belongs to, or 2 where it is down. -/
def ownHalf (s : State) (ring : Nat) : Nat := match ringFunc s ring with | some (h, _) => h.val | none => 2

/-- The refusing conditions that a command states on the state of the device (check 9 of R358). -/
def Body.standsOk (s : State) (h : CmdHdr) (b : Body) : Bool :=
  let pad := h.paddock.toNat
  match b with
  | .devHalfloss half => half.toNat != ownHalf s h.ring.val
  | .extMap d => turnWaits s d.tag.toNat || mapOk s pad d
  | .extUnmap tag index => turnWaits s tag.toNat || unmapOk s pad tag.toNat index.toNat
  | .adviseHint tag index _ => turnWaits s tag.toNat || (ownExt s pad tag.toNat index.toNat).isSome
  | .adviseHost r => (rangeExt s pad r).isSome
  | .prefetch r => (rangeExt s pad r).isSome
  | .adviseAperture tag => tagOf s pad tag.toNat
  | .adviseMigmode tag mode hot => migModeOk s pad tag.toNat mode hot
  | .copy p => copyOk s h.ring.val ((ringFunc s h.ring.val).getD (0, 0)).1 pad p
  | .extShare p => shareOk s pad p
  | .padReset _ => !((getPad s pad).any fun d => d.drain.any fun r => !r.destroys.isEmpty)
  | .jobLaunch p => launchOk s pad p
  | .pipeLoad _ tag => loadOk s pad tag
  | .pipeStart _ => pipeStartOk s pad
  | .pipeMove _ => (getPipe s pad).isSome
  | .batchSubmit p => batchOk s pad p
  | .seqJoin p => joinOk s pad p
  | .seqLeave _ => (getPad s pad).any fun d => d.p.serve == 1
  | .postSet post _ => (padPost s pad post.toNat).isSome
  | .postWait post _ _ => (padPost s pad post.toNat).isSome
  | .groupJoin g => groupJoinOk s g
  | .winOpen w => winOk s pad w
  | .winClose w => closeOk s pad w
  | .snapRestore _ => !restoreBusy s h
  | .pwrCap w => capOk s (if h.paddock = 0xFF then none else some pad) w
  | .pwrState x _ => x.toNat < 2 || lowAllowed s
  | .pwrFixed on mhz => fixedOk s on mhz
  | .confEnter p => confOk s pad p
  | .cntSnap _ slot => cntSnapOk s slot
  | .beatSet p => beatSetOk s p
  | .testSelf q _ => selfOk s q.toNat
  | _ => true

/-- The checks of R358 from the fourth on, in their order as far as it shows. -/
def checksOk (s : State) (h : CmdHdr) (b : Body) : Bool :=
  !(decide (2 ≤ h.ring.val) && b.managerOnly) && !(b.isTest && anyConf s) && scopeOk s h b && (h.atBeat.isNone || b.takesBeat) && b.fieldsOk && drainOk s h b &&
  b.standsOk s h

def Body.isBeatSet (b : Body) : Bool := match b with | .beatSet _ => true | _ => false

def Body.isLaunch (b : Body) : Bool := match b with | .jobLaunch _ => true | _ => false

/-- A packet is refused, or it is accepted: a status entry is reserved for it and it takes the next place in acceptance order (R352, R355).
A launch counts as accepted (R403). -/
def accept (h : CmdHdr) (b : Body) (s : State) : State :=
  let s := if b.isBeatSet then tickRt s else s
  if !checksOk s h b then refuse h.ring.val h.tag s
  else
    let r := h.ring.val
    let s := setRing r { getRing s r with reserved := (getRing s r).reserved + 1 } s
    let s := if b.isLaunch then countAccepted h.paddock.toNat s else s
    { s with ym := { s.ym with seq := s.ym.seq + 1, cmds := s.ym.cmds ++ [{ seq := s.ym.seq, hdr := h, body := b, began := false, due := false }] } }

/-! ## What each command begins -/

/-- JOB.LAUNCH (R381). One that cannot begin any more, for what has changed since it was taken, is refused and counts as lost (DESIGN CHOICE, log 32). -/
def beginLaunch (c : Cmd) (p : LaunchParams) (s : State) : State :=
  let pad := c.hdr.paddock.toNat
  if !launchOk s pad p then countLost pad 1 (refuseCmd c.seq s)
  else
    modPad pad (fun d =>
      { d with launches := d.launches ++ [{ id := d.nextLaunch, cmd := some c.seq, p := p, next := 0, ended := 0, first := none, mhz := 0 }],
               nextLaunch := d.nextLaunch + 1 }) s

/-- The result of R187. -/
def notAdmittedEntry (seq : Nat) (x : Nat × Nat) (s : State) : State := writeStatus seq notAdmitted [BitVec.ofNat 8 x.1, BitVec.ofNat 8 x.2] s

/-- In a serving paddock a table whose largest DEPTH is NBUF or more is refused (R405). -/
def depthOk (d : Pad) (t : Table) : Bool := d.p.serve == 0 || t.stages.all fun r => decide (r.depth.toNat < d.p.nbuf.toNat)

/-- PIPE.LOAD (R171, R186, R187, R382). -/
def beginLoad (c : Cmd) (table : W64) (tag : BitVec 10) (s : State) : State :=
  let pad := c.hdr.paddock.toNat
  match getPad s pad with
  | none => refuseCmd c.seq s
  | some d =>
    if !loadOk s pad tag then refuseCmd c.seq s
    else
      let r := readTable pad tag.toNat table.toNat s
      if !depthOk d r.2 then refuseCmd c.seq r.1
      else match admission r.1 pad r.2 (fun _ => []) with
        | some x => notAdmittedEntry c.seq x r.1
        | none => writeStatus c.seq done [] (loadPipe pad table tag.toNat r.2 r.1)

/-- The beat has been reached (R334, R336). -/
def reached (s : State) (b : Nat) : Bool := s.beat.reached0 && decide (b ≤ s.beat.count.toNat)

/-- ACCEPTED of a PIPE.START whose beat b0 is at most lim (R382, R403). -/
def acceptUpto (lim pad : Nat) (s : State) : State :=
  match getPipe s pad with
  | none => s
  | some p => match p.start with
    | none => s
    | some st =>
      if st.accepted || lim < st.b0.toNat then s
      else
        let s := modPipe pad (fun p => { p with start := some { st with accepted := true, cmd := none } }) s
        countAccepted pad (statusOpt st.cmd accepted [] s)

/-- ACCEPTED of a PIPE.START once beat b0 is reached. -/
def acceptStart (pad : Nat) (s : State) : State := if s.beat.reached0 then acceptUpto s.beat.count.toNat pad s else s

/-- PIPE.START (R180, R189, R382): landing posts at zero, tiles from number 0 on. -/
def beginStart (c : Cmd) (p : StartParams) (s : State) : State :=
  let pad := c.hdr.paddock.toNat
  match getPipe s pad with
  | none => refuseCmd c.seq s
  | some pl =>
    if pl.start.any fun st => !st.ended then refuseCmd c.seq s
    else
      let s := zeroLandings pad s
      let st : StartRt := { b0 := p.b0, first := 0, seed := p.seed, count := p.count, epost := p.epost, accepted := false, ended := false, cmd := some c.seq }
      let s := modPipe pad (fun q => { q with start := some st, stages := q.stages.map (fun x => { x with inv := 0, running := false, told := 0 }),
                                              paths := q.paths.map fun x => { x with pairs := [], commits := [] } }) s
      let s := acceptStart pad s
      if reached s p.b0.toNat then releaseStages pad s else s

/-- PIPE.MOVE: admission and reservation; the move is made at a boundary (R190). -/
def beginPipeMove (c : Cmd) (p : MoveParams) (s : State) : State :=
  let pad := c.hdr.paddock.toNat
  match getPipe s pad with
  | none => refuseCmd c.seq s
  | some pl => match moveAdmission s pad pl p.stage.toNat p.px.toNat p.py.toNat with
    | some x => notAdmittedEntry c.seq x s
    | none => reserveMove (some c.seq) pad p.stage.toNat p.px.toNat p.py.toNat s

/-- POST.SET (R383, R384). -/
def beginPostSet (c : Cmd) (post : BitVec 15) (value : W48) (s : State) : State :=
  match padPost s c.hdr.paddock.toNat post.toNat with
  | none => refuseCmd c.seq s
  | some d => writeStatus c.seq done [] (applyUpd { id := 0, post := d, isSet := true, value := value.toNat, pad := none, after := [], sends := [] } s)

/-- POST.WAIT (R384). -/
def beginPostWait (c : Cmd) (post : BitVec 15) (target : W48) (s : State) : State :=
  match padPost s c.hdr.paddock.toNat post.toNat with
  | none => refuseCmd c.seq s
  | some d => registerWait (.cmd c.seq) (postDie d) (some d) target s

/-- POST_WAIT_TIMEOUT: the wait is left (R384). -/
def waitTimeout (seq : Nat) (s : State) : State :=
  match findCmd s seq with
  | none => s
  | some c => match c.body with
    | .postWait _ _ timeout =>
      if timeout = 0 || !c.began then s
      else match s.posts.waits.find? fun w => w.who == .cmd seq with
        | none => s
        | some w =>
          let v := match w.post with | some d => (postValue s d).toNat | none => 0
          writeStatus seq timedOut (leBytes 6 v) (dropWaits (fun x => x.id == w.id) s)
    | _ => s

/-- WIN.OPEN (R294). Operations that passed an earlier opening go on under its WGEN. -/
def beginWinOpen (c : Cmd) (w : WinEntry) (s : State) : State :=
  if !winOk s c.hdr.paddock.toNat w then refuseCmd c.seq s
  else
    let x := getWin s w.win.toNat
    let g := x.wgen + 1
    let old := if x.inflight = 0 then x.old else x.old ++ [(x.wgen, x.inflight, x.closing)]
    writeStatus c.seq done [w.win, g] (setWin w.win.toNat { x with isOpen := true, entry := w, wgen := g, inflight := 0, closing := none, old := old } s)

/-- WIN.CLOSE (R296). A window of another paddock is refused; one that is closed and drained has nothing left to close; one that is closed and drains makes the
command wait for that drain. -/
def beginWinClose (c : Cmd) (win : Byte) (s : State) : State :=
  if !closeOk s c.hdr.paddock.toNat win then refuseCmd c.seq s
  else
    let x := getWin s win.toNat
    if x.isOpen || x.inflight = 0 || x.closing.isNone then closeWindow win.toNat (some c.seq) s
    else setWin win.toNat { x with old := x.old ++ [(x.wgen, x.inflight, some c.seq)] } s

def portOf (p : BitVec 6) : Fin 36 := Fin.ofNat 36 p.toNat

/-- LINK.STATE: the result is read after the action (R386). -/
def linkDone (c : Cmd) (p : BitVec 6) (s : State) : State := writeStatus c.seq done (linkResult (getPort s (portOf p))) s

def checkKey (west : Bool) (unit : BitVec 4) : Nat := 8 * b2n west + (unit.toNat - 1)

/-- CHECK.SETUP with arm: of a busy unit it waits for the unit (R452). -/
def beginArm (c : Cmd) (west : Bool) (unit : BitVec 4) (poly : BitVec 2) (s : State) : State := askUnit (checkKey west unit) poly (some c.seq) s

/-- The port and function of a command's ring. -/
def cmdFunc (s : State) (c : Cmd) : Fin 2 × Nat := (ringFunc s c.hdr.ring.val).getD (0, 0)

/-- The body of a command begins. -/
def beginBody (c : Cmd) (s : State) : State :=
  let pad := c.hdr.paddock.toNat
  match c.body with
  | .devInfo => writeStatus c.seq done (infoResult s c.hdr.ring.val) s
  | .devWarm r => beginWarm c r s
  | .devHalfloss h => beginHalfloss c h s
  | .extMap d => beginMap c d s
  | .extUnmap tag index => beginUnmap c tag index s
  | .adviseHint tag index hint => beginHint c tag index hint s
  | .adviseHost r => (match rangeExt s pad r with | some e => beginMoves c.seq r e false s | none => refuseCmd c.seq s)
  | .adviseAperture tag =>
    if tagOf s pad tag.toNat then
      let f := cmdFunc s c
      writeStatus c.seq done [] { s with xlt := { s.xlt with apert := tput s.xlt.apert (apertKey f.1 f.2) tag.toNat } }
    else refuseCmd c.seq s
  | .adviseMigmode tag mode hot =>
    if migModeOk s pad tag.toNat mode hot then
      writeStatus c.seq done [] (setSpace tag.toNat { getSpace s tag.toNat with mig := mode, hot := hot } s)
    else refuseCmd c.seq s
  | .prefetch r => (match rangeExt s pad r with | some e => beginMoves c.seq r e true s | none => refuseCmd c.seq s)
  | .copy p =>
    let f := cmdFunc s c
    if copyOk s c.hdr.ring.val f.1 pad p then beginCopy c.seq f.1 pad p (gallop s) else refuseCmd c.seq s
  | .extShare p => if shareOk s pad p then writeStatus c.seq done [] (shareExtent pad p s) else refuseCmd c.seq s
  | .padCreate p => createPad c.seq pad p s
  | .padDestroy m => beginDrain c true (m == 1) s
  | .padReset m => beginDrain c false (m == 1) s
  | .padQuery => (match getPad s pad with | some d => writeStatus c.seq done (queryResult d) s | none => refuseCmd c.seq s)
  | .jobLaunch p => beginLaunch c p s
  | .pipeLoad table tag => beginLoad c table tag s
  | .pipeStart p => beginStart c p s
  | .pipeMove p => beginPipeMove c p s
  | .batchSubmit p => beginBatch c p s
  | .seqJoin p => beginJoin c p s
  | .seqLeave _ => beginLeave c s
  | .postSet post value => beginPostSet c post value s
  | .postWait post target _ => beginPostWait c post target s
  | .groupJoin g => if groupJoinOk s g then writeStatus c.seq done (leBytes 2 g.gid.toNat) (joinGroup g s) else refuseCmd c.seq s
  | .groupLeave g => writeStatus c.seq done (leBytes 2 g.gid.toNat) (leaveGroup g.gid s)
  | .winOpen w => beginWinOpen c w s
  | .winClose w => beginWinClose c w s
  | .linkQuery p => linkDone c p s
  | .linkEnable p => linkDone c p (linkEnable (portOf p) s)
  | .linkDisable p => linkDone c p (linkDisable (portOf p) s)
  | .linkSet p m w => linkDone c p (linkSet (portOf p) m w s)
  | .checkArm west unit poly => beginArm c west unit poly s
  | .checkRead west unit => writeStatus c.seq done (leBytes 8 (getChk s (checkKey west unit)).value.toNat) s
  | .snapMark full => beginMark c.seq full s
  | .snapRestore gen => beginRestore c gen s
  | .faultAck q => beginAck c q s
  | .snapStream p => beginStream c.seq p s
  | .pwrCap w => beginCap c w s
  | .pwrState x keep => beginState c x keep s
  | .pwrFixed on mhz => beginFixed c on mhz s
  | .attReport dest size nonce => beginReport c dest size nonce s
  | .confEnter p => beginConf c p s
  | .cntSnap beat slot => if cntSnapOk s slot then beginCntSnap c.seq beat slot s else refuseCmd c.seq s
  | .beatSet p => beginBeatSet c.seq p s
  | .testSelf q bad => beginSelf c q.toNat bad s
  | .testCold keep x => coldStart keep x s

/-- A command begins. One whose paddock has gone meanwhile, or whose new paddock exists by now, is refused. -/
def beginCmd (c : Cmd) (s : State) : State :=
  let c := { c with began := true }
  let s := { s with ym := { s.ym with cmds := s.ym.cmds.map fun x => if x.seq == c.seq then c else x } }
  if scopeOk s c.hdr c.body then beginBody c s else refuseCmd c.seq s

/-! ## When a command begins (R336, R362, R415, R452, R469, R495) -/

/-- Every command accepted earlier from the same ring has its entry. -/
def fenceHolds (s : State) (c : Cmd) : Bool := !c.hdr.fence || !(s.ym.cmds.any fun x => x.hdr.ring == c.hdr.ring && decide (x.seq < c.seq))

def isMove (b : Body) : Bool := match b with | .pipeMove _ => true | _ => false

/-- JOB.LAUNCH and the pipeline commands, which wait for a restart and for their paddock's auto-resume (R469). -/
def isJob (b : Body) : Bool :=
  match b with
  | .jobLaunch _ => true
  | .pipeLoad _ _ => true
  | .pipeStart _ => true
  | .pipeMove _ => true
  | _ => false

def padResuming (s : State) (p : Nat) : Bool := (getPad s p).any fun d => d.resuming

/-- Commands that begin in WALK and STAND without an exit (R495). -/
def restBegins (b : Body) : Bool :=
  match b with
  | .devInfo => true
  | .padQuery => true
  | .faultAck _ => true
  | .cntSnap _ _ => true
  | .beatSet _ => true
  | .linkQuery _ => true
  | .linkEnable _ => true
  | .linkDisable _ => true
  | .linkSet _ _ _ => true
  | .attReport _ _ _ => true
  | .pwrCap _ => true
  | .pwrState _ _ => true
  | .pwrFixed _ _ => true
  | _ => false

/-- What a command waits for beside its fence and its beat: a job or pipeline command for a compute restart and for its paddock's auto-resume (R469). -/
def canBegin (s : State) (c : Cmd) : Bool :=
  !(isJob c.body && (restarting s || (c.hdr.paddock != 0xFF && padResuming s c.hdr.paddock.toNat)))

/-- A command that has not begun begins if it can. In WALK and STAND one that is not exempt starts an exit and waits for it. -/
def tryBegin (seq : Nat) (s : State) : State :=
  match findCmd s seq with
  | none => s
  | some c =>
    if c.began || !awake s || !((c.hdr.atBeat.isNone || isMove c.body) && fenceHolds s c || c.due) || !canBegin s c then s
    else if (s.pwr.state == .walk || s.pwr.state == .stand) && !restBegins c.body then startExit s
    else beginCmd c s

/-- One look at every command that has not begun, in acceptance order. -/
def settlePass (s : State) : State := ((s.ym.cmds.filter fun c => !c.began).map fun c => c.seq).foldl (fun t q => tryBegin q t) s

/-- Commands begin as the entries of others are written, until none can. -/
def settleFuel (fuel : Nat) (s : State) : State :=
  match fuel with
  | 0 => s
  | n + 1 => settleFuel n (settlePass s)

def settle (s : State) : State := if s.ym.cmds.any fun c => !c.began then settleFuel s.ym.cmds.length s else s

/-- The half losses that the present event has brought about (R274, R458, R484). -/
def losses (s : State) : State :=
  match s.snaps.lossDue with
  | [] => s
  | l => l.foldl (fun t w => if halfIn t (b2n w) then loseHalf w t else t) { s with snaps := { s.snaps with lossDue := [] } }

/-- Commands and requests that wait for memory are tried again. -/
def retries (s : State) : State := retryRestores (retryCreates (retryMaps (retryAllHeld s)))

/-- What follows every event: half losses, the loss of a reference that port 0 carried, the end of a restart, what can go on, commands that can begin. -/
def finish (s : State) : State := retries (settle (retries (restartOver (checkPort0 (losses s)))))

/-! ## Rings (R350 to R354, R422, R423, R566) -/

/-- The sweep visits the ring. -/
def ringLive (s : State) (r : Nat) : Bool :=
  awake s && (getRing s r).enable && (match ringFunc s r with | some (h, fn) => funcUp s h fn | none => false) &&
  !(decide (2 ≤ r) && (getPad s (r - 2)).any fun d => d.drain.isSome)

def ringPort (s : State) (r : Nat) : Fin 2 := match ringFunc s r with | some (h, _) => h | none => 0

def rcbWord (s : State) (r i : Nat) : Nat := leNat (hostReads s (ringPort s r) ((getRing s r).rcb.toNat + 8 * i) 8)

/-- A visit begins: after ENABLE the indices are taken from the control block; SCONS is read. -/
def visitRing (r : Nat) (s : State) : State :=
  let g := getRing s r
  let g := if g.fresh then { g with fresh := false, ccons := BitVec.ofNat 64 (rcbWord s r 1), sprod := BitVec.ofNat 64 (rcbWord s r 2) } else g
  setRing r { g with scons := BitVec.ofNat 64 (rcbWord s r 3) } s

/-- A status entry can be reserved (R352). -/
def statusRoom (s : State) (r : Nat) : Bool :=
  let g := getRing s r
  decide (g.sprod.toNat + g.reserved < g.scons.toNat + 2 ^ g.ssize.toNat)

/-- A packet as its own command row delivers it: it is taken at a visit of its ring. -/
def command (h : CmdHdr) (b : Body) (s : State) : State :=
  let r := h.ring.val
  if !ringLive s r || apertWriteWaits s (ringPort s r) then s
  else
    let s := visitRing r s
    if statusRoom s r then finish (accept h b s) else s

/-! ## Packets as bytes (R356, R357, R361) -/

/-- Bytes of a command ring from an index on. -/
def ringBytes (s : State) (r i n : Nat) : List Byte :=
  let g := getRing s r
  let m := (s.hosts[ringPort s r]).mem
  (List.range n).map fun k => mread m (g.cring.toNat + (i + k) % 2 ^ g.csize.toNat)

def need (ok : Bool) (b : Body) : Option Body := if ok then some b else none

def parseRange (p : List Byte) : ExtRange :=
  { tag := BitVec.ofNat 10 (fldAt p 0 2), index := BitVec.ofNat 12 (fldAt p 2 2), first := BitVec.ofNat 32 (fldAt p 8 4), count := BitVec.ofNat 32 (fldAt p 12 4) }

/-- TAG and INDEX of bytes 0 to 3, their upper bits zero. -/
def tagIndexOk (p : List Byte) : Bool := decide (fldAt p 0 2 < 1024 ∧ fldAt p 2 2 < 4096)

def parseExt (p : List Byte) : ExtDesc × Bool :=
  let f := fldAt p
  let b := f 2 1
  ({ index := BitVec.ofNat 12 (f 0 2), space := bitOf b 0, half := bitOf b 1, shared := bitOf b 2, backed := bitOf b 3, conf := bitOf b 4,
     hint := BitVec.ofNat 2 (b / 32), migr := bitOf b 7, tag := BitVec.ofNat 10 (f 4 2), bkidx := BitVec.ofNat 12 (f 6 2), vbase := BitVec.ofNat 64 (f 8 8),
     len := BitVec.ofNat 32 (f 16 4), hbase := BitVec.ofNat 64 (f 24 8), raddr := BitVec.ofNat 64 (f 32 8) },
   decide (f 0 2 < 4096 ∧ f 3 1 = 0 ∧ f 4 2 < 1024 ∧ f 6 2 < 4096 ∧ f 40 8 = 0))

def parseWin (p : List Byte) : WinEntry × Bool :=
  let f := fldAt p
  ({ win := BitVec.ofNat 8 (f 0 1), rd := bitOf (f 1 1) 0, wr := bitOf (f 1 1) 1, add := bitOf (f 1 1) 2, tag := BitVec.ofNat 10 (f 4 2),
     post0 := BitVec.ofNat 15 (f 6 2), npost := BitVec.ofNat 16 (f 8 2), vbase := BitVec.ofNat 64 (f 16 8), len := BitVec.ofNat 32 (f 24 4) },
   decide (f 1 1 < 8 ∧ f 3 1 = 0 ∧ f 4 2 < 1024 ∧ f 6 2 < 32768 ∧ f 10 6 = 0 ∧ f 28 4 = 0))

def parseGroup (p : List Byte) : GroupRec × Bool × Bool :=
  let f := fldAt p
  ({ gid := BitVec.ofNat 16 (f 0 2), self := BitVec.ofNat 12 (f 2 2), nmemb := BitVec.ofNat 13 (f 4 2), policy := BitVec.ofNat 2 (f 6 1),
     lead := BitVec.ofNat 8 (f 7 1), lendW := BitVec.ofNat 16 (f 8 2), ttl := BitVec.ofNat 4 (f 10 1), capstep := BitVec.ofNat 16 (f 12 2),
     ports := BitVec.ofNat 36 (f 16 8) },
   bitOf (f 6 1) 2,
   decide (f 2 2 < 4096 ∧ f 4 2 < 8192 ∧ f 6 1 < 8 ∧ f 10 1 < 16 ∧ f 11 1 = 0 ∧ f 14 2 = 0 ∧ f 16 8 < 2 ^ 36))

def parseQueue (p : List Byte) : QueueRec × Bool :=
  let f := fldAt p
  ({ dray := BitVec.ofNat 5 (f 0 1), die := BitVec.ofNat 4 (f 1 1), queue := BitVec.ofNat 2 (f 1 1 / 16), log2size := BitVec.ofNat 4 (f 2 1),
     rspace := bitOf (f 2 1) 4, kick := BitVec.ofNat 32 (f 4 4), cpost := BitVec.ofNat 32 (f 8 4), aspace := BitVec.ofNat 10 (f 12 2),
     rbase := BitVec.ofNat 64 (f 16 8) },
   decide (f 0 1 < 32 ∧ f 1 1 < 64 ∧ f 2 1 < 32 ∧ f 3 1 = 0 ∧ f 12 2 < 1024 ∧ f 14 2 = 0 ∧ f 24 8 = 0))

def parsePad (p : List Byte) : PadParams × Bool :=
  let f := fldAt p
  let qs := (List.range (f 3 1)).map fun i => parseQueue (p.drop (128 + 32 * i))
  ({ port := bitOf (f 0 1) 0, lc := bitOf (f 0 1) 1, autores := bitOf (f 0 1) 2, serve := BitVec.ofNat 2 (f 0 1 / 8), cring := BitVec.ofNat 5 (f 1 1),
     sring := BitVec.ofNat 5 (f 2 1), qmask := BitVec.ofNat 32 (f 4 4), cache := BitVec.ofNat 32 (f 8 4), commons := BitVec.ofNat 32 (f 12 4),
     taglo := BitVec.ofNat 10 (f 16 2), ntag := BitVec.ofNat 11 (f 18 2), winlo := BitVec.ofNat 8 (f 20 1), nwin := BitVec.ofNat 9 (f 22 2),
     posts := Vector.ofFn fun d : Fin 8 => BitVec.ofNat 8 (f (24 + d.val) 1), stacke := BitVec.ofNat 32 (f 32 4), stackw := BitVec.ofNat 32 (f 36 4),
     barne := BitVec.ofNat 32 (f 40 4), barnw := BitVec.ofNat 32 (f 44 4), spille := BitVec.ofNat 9 (f 48 2), spillw := BitVec.ofNat 9 (f 50 2),
     tokbudget := BitVec.ofNat 16 (f 52 2), chunk := BitVec.ofNat 16 (f 54 2), kvtag := BitVec.ofNat 10 (f 56 2), maxseq := BitVec.ofNat 10 (f 58 2),
     kvtok := BitVec.ofNat 32 (f 60 4), kvgrow := BitVec.ofNat 11 (f 64 2), nbuf := BitVec.ofNat 7 (f 66 1), boff := BitVec.ofNat 32 (f 68 4),
     spost := BitVec.ofNat 15 (f 72 2),
     buckets := Vector.ofFn fun i : Fin 4 => { rate := BitVec.ofNat 16 (f (80 + 4 * i.val) 2), depth := BitVec.ofNat 16 (f (82 + 4 * i.val) 2) },
     queues := qs.map Prod.fst },
   decide (f 0 1 < 32 ∧ f 1 1 < 32 ∧ f 2 1 < 32 ∧ f 3 1 ≤ 32 ∧ f 16 2 < 1024 ∧ f 18 2 < 2048 ∧ f 21 1 = 0 ∧ f 22 2 < 512 ∧ f 48 2 < 512 ∧ f 50 2 < 512) &&
   decide (f 56 2 < 1024 ∧ f 58 2 < 1024 ∧ f 64 2 < 2048 ∧ f 66 1 < 128 ∧ f 67 1 = 0 ∧ f 72 2 < 32768 ∧ f 74 6 = 0 ∧ f 96 32 = 0) &&
   qs.all fun q => q.2)

def parseLaunch (p : List Byte) : LaunchParams × Bool :=
  let f := fldAt p
  ({ prog := BitVec.ofNat 64 (f 0 8), arg := BitVec.ofNat 64 (f 8 8), shape := BitVec.ofNat 32 (f 16 4), blocks := BitVec.ofNat 32 (f 20 4),
     tag := BitVec.ofNat 10 (f 24 2), sw := BitVec.ofNat 4 (f 26 1), sh := BitVec.ofNat 4 (f 26 1 / 16), limitAc := BitVec.ofNat 32 (f 28 4),
     seed := BitVec.ofNat 64 (f 32 8), px := BitVec.ofNat 6 (f 40 1), py := BitVec.ofNat 4 (f 41 1), pw := BitVec.ofNat 6 (f 42 1),
     ph := BitVec.ofNat 4 (f 43 1), dpost := BitVec.ofNat 32 (f 44 4) },
   decide (f 24 2 < 1024 ∧ f 27 1 = 0 ∧ f 40 1 < 64 ∧ f 41 1 < 16 ∧ f 42 1 < 64 ∧ f 43 1 < 16))

def parseShare (p : List Byte) : ShareParams × Bool :=
  let f := fldAt p
  ({ spad := BitVec.ofNat 5 (f 0 1), stag := BitVec.ofNat 10 (f 2 2), sindex := BitVec.ofNat 12 (f 4 2), ttag := BitVec.ofNat 10 (f 6 2),
     tindex := BitVec.ofNat 12 (f 8 2), tvbase := BitVec.ofNat 64 (f 16 8) },
   decide (f 0 1 < 32 ∧ f 1 1 = 0 ∧ f 2 2 < 1024 ∧ f 4 2 < 4096 ∧ f 6 2 < 1024 ∧ f 8 2 < 4096 ∧ f 10 6 = 0))

/-- EXT.ADVISE by its advice code (R298, R374). -/
def parseAdvice (p : List Byte) : Option Body :=
  let f := fldAt p
  let tag := BitVec.ofNat 10 (f 0 2)
  let index := BitVec.ofNat 12 (f 2 2)
  if !tagIndexOk p || f 6 2 != 0 || f 19 5 != 0 || 4 ≤ f 18 1 then none
  else match f 4 1 with
    | 0 => need (decide (f 5 1 < 4 ∧ f 8 11 = 0)) (.adviseHint tag index (BitVec.ofNat 2 (f 5 1)))
    | 1 => need (decide (f 5 1 = 0 ∧ f 16 3 = 0)) (.adviseHost (parseRange p))
    | 2 => need (decide (f 2 2 = 0 ∧ f 5 1 = 0 ∧ f 8 11 = 0)) (.adviseAperture tag)
    | 3 => need (decide (f 2 2 = 0 ∧ f 5 1 = 0 ∧ f 8 8 = 0)) (.adviseMigmode tag (BitVec.ofNat 2 (f 18 1)) (BitVec.ofNat 16 (f 16 2)))
    | _ => none

/-- LINK.STATE by its action (R385). -/
def parseLink (p : List Byte) : Option Body :=
  let f := fldAt p
  let port := BitVec.ofNat 6 (f 0 1)
  if 64 ≤ f 0 1 || 4 ≤ f 2 1 || 8 ≤ f 3 1 || f 4 12 != 0 then none
  else match f 1 1 with
    | 0 => some (.linkQuery port)
    | 1 => some (.linkEnable port)
    | 2 => some (.linkDisable port)
    | 3 => some (.linkSet port (BitVec.ofNat 2 (f 2 1)) (BitVec.ofNat 3 (f 3 1)))
    | _ => none

def parseCheck (p : List Byte) : Option Body :=
  let f := fldAt p
  if 2 ≤ f 0 1 || 16 ≤ f 1 1 || 3 ≤ f 2 1 || 2 ≤ f 3 1 || f 4 12 != 0 then none
  else if f 3 1 = 0 then some (.checkArm (f 0 1 == 1) (BitVec.ofNat 4 (f 1 1)) (BitVec.ofNat 2 (f 2 1)))
  else some (.checkRead (f 0 1 == 1) (BitVec.ofNat 4 (f 1 1)))

/-- The parameter length of an opcode, or none where the table has no such opcode (R368). -/
def bodyLen (op : Nat) (p : List Byte) : Option Nat :=
  match op with
  | 0x01 => some 0 | 0x03 => some 8 | 0x05 => some 8
  | 0x10 => some 48 | 0x11 => some 8 | 0x12 => some 24 | 0x13 => some 16 | 0x14 => some 72 | 0x15 => some 24
  | 0x20 => some (128 + 32 * bitsOf (fldAt p 3 1) 5 0) | 0x21 => some 8 | 0x22 => some 8 | 0x23 => some 0
  | 0x30 => some 48 | 0x31 => some 16 | 0x32 => some 24 | 0x33 => some 8 | 0x34 => some 16 | 0x35 => some 24 | 0x36 => some 8
  | 0x40 => some 16 | 0x41 => some 24 | 0x42 => some 24
  | 0x50 => some 32 | 0x51 => some 8 | 0x52 => some 16 | 0x53 => some 16
  | 0x60 => some 8 | 0x61 => some 8 | 0x62 => some 16 | 0x63 => some 32
  | 0x70 => some 8 | 0x71 => some 8 | 0x72 => some 8
  | 0x80 => some 48 | 0x81 => some 32
  | 0x90 => some 16 | 0x91 => some 24
  | 0xA0 => some 8 | 0xA1 => some 8
  | _ => none

/-- The command that parameters of the right length spell; none where a reserved bit is nonzero or a code names nothing. free feeds what only a test
bench could supply (log 2). -/
def parseBody (op free : Nat) (p : List Byte) : Option Body :=
  let f := fldAt p
  match op with
  | 0x01 => some .devInfo
  | 0x03 => need (decide (f 0 8 < 2)) (.devWarm (f 0 1 == 1))
  | 0x05 => need (f 1 7 == 0) (.devHalfloss (BitVec.ofNat 8 (f 0 1)))
  | 0x10 => let r := parseExt p; need r.2 (.extMap r.1)
  | 0x11 => need (tagIndexOk p && f 4 4 == 0) (.extUnmap (BitVec.ofNat 10 (f 0 2)) (BitVec.ofNat 12 (f 2 2)))
  | 0x12 => parseAdvice p
  | 0x13 => need (tagIndexOk p && f 4 4 == 0) (.prefetch (parseRange p))
  | 0x14 => need (f 1 1 == 0 && decide (f 2 2 < 1024) && f 4 4 == 0) (.copy { iodie := BitVec.ofNat 8 (f 0 1), tag := BitVec.ofNat 10 (f 2 2), desc := parseDesc (p.drop 8) })
  | 0x15 => let r := parseShare p; need r.2 (.extShare r.1)
  | 0x20 => let r := parsePad p; need r.2 (.padCreate r.1)
  | 0x21 => need (f 1 7 == 0) (.padDestroy (BitVec.ofNat 8 (f 0 1)))
  | 0x22 => need (f 1 7 == 0) (.padReset (BitVec.ofNat 8 (f 0 1)))
  | 0x23 => some .padQuery
  | 0x30 => let r := parseLaunch p; need r.2 (.jobLaunch r.1)
  | 0x31 => need (decide (f 8 2 < 1024 ∧ f 10 6 = 0)) (.pipeLoad (BitVec.ofNat 64 (f 0 8)) (BitVec.ofNat 10 (f 8 2)))
  | 0x32 => some (.pipeStart { b0 := BitVec.ofNat 64 (f 0 8), seed := BitVec.ofNat 64 (f 8 8), count := BitVec.ofNat 32 (f 16 4), epost := BitVec.ofNat 32 (f 20 4) })
  | 0x33 => need (decide (f 0 1 < 64 ∧ f 1 1 < 64 ∧ f 2 1 < 16 ∧ f 3 5 = 0))
      (.pipeMove { stage := BitVec.ofNat 6 (f 0 1), px := BitVec.ofNat 6 (f 1 1), py := BitVec.ofNat 4 (f 2 1) })
  | 0x34 => some (.batchSubmit { addr := BitVec.ofNat 64 (f 0 8), len := BitVec.ofNat 32 (f 8 4), dpost := BitVec.ofNat 32 (f 12 4) })
  | 0x35 => some (.seqJoin { plen := BitVec.ofNat 32 (f 0 4), maxtok := BitVec.ofNat 32 (f 4 4), prompt := BitVec.ofNat 64 (f 8 8), user := BitVec.ofNat 64 (f 16 8) })
  | 0x36 => need (f 4 4 == 0) (.seqLeave (BitVec.ofNat 32 (f 0 4)))
  | 0x40 => need (decide (f 0 2 < 32768 ∧ f 2 6 = 0 ∧ f 14 2 = 0)) (.postSet (BitVec.ofNat 15 (f 0 2)) (BitVec.ofNat 48 (f 8 6)))
  | 0x41 => need (decide (f 0 2 < 32768 ∧ f 2 6 = 0 ∧ f 14 2 = 0 ∧ f 20 4 = 0)) (.postWait (BitVec.ofNat 15 (f 0 2)) (BitVec.ofNat 48 (f 8 6)) (BitVec.ofNat 32 (f 16 4)))
  | 0x42 => let r := parseGroup p; need r.2.2 (if r.2.1 then .groupLeave r.1 else .groupJoin r.1)
  | 0x50 => let r := parseWin p; need r.2 (.winOpen r.1)
  | 0x51 => need (f 1 7 == 0) (.winClose (BitVec.ofNat 8 (f 0 1)))
  | 0x52 => parseLink p
  | 0x53 => parseCheck p
  | 0x60 => need (decide (f 0 8 < 2)) (.snapMark (f 0 1 == 1))
  | 0x61 => need (f 1 7 == 0) (.snapRestore (BitVec.ofNat 8 (f 0 1)))
  | 0x62 => need (f 8 8 == 0) (.faultAck (BitVec.ofNat 64 (f 0 8)))
  | 0x63 => need (decide (f 1 1 < 16 ∧ f 2 1 < 16 ∧ f 3 1 < 2 ∧ f 4 4 = 0 ∧ f 24 8 = 0))
      (.snapStream { gen := BitVec.ofNat 8 (f 0 1), target := BitVec.ofNat 4 (f 1 1), unit := BitVec.ofNat 4 (f 2 1), cont := f 3 1 == 1,
                     offset := BitVec.ofNat 64 (f 8 8), limit := BitVec.ofNat 64 (f 16 8) })
  | 0x70 => need (f 2 6 == 0) (.pwrCap (BitVec.ofNat 16 (f 0 2)))
  | 0x71 => need (decide (f 0 1 < 8 ∧ f 1 1 = 0 ∧ f 2 2 < 512 ∧ f 4 4 = 0)) (.pwrState (BitVec.ofNat 3 (f 0 1)) (BitVec.ofNat 9 (f 2 2)))
  | 0x72 => need (decide (f 0 1 < 2 ∧ f 1 1 = 0 ∧ f 4 4 = 0)) (.pwrFixed (f 0 1 == 1) (BitVec.ofNat 16 (f 2 2)))
  | 0x80 => need (f 12 4 == 0) (.attReport (BitVec.ofNat 64 (f 0 8)) (BitVec.ofNat 32 (f 8 4)) (BitVec.ofNat 256 (f 16 32)))
  | 0x81 => need (f 4 4 == 0 && f 20 12 == 0) (.confEnter { session := BitVec.ofNat 32 (f 0 4), bounce := BitVec.ofNat 64 (f 8 8), pages := BitVec.ofNat 32 (f 16 4) })
  | 0x90 => need (decide (f 8 1 < 4 ∧ f 9 7 = 0)) (.cntSnap (BitVec.ofNat 64 (f 0 8)) (BitVec.ofNat 2 (f 8 1)))
  | 0x91 => need (f 21 3 == 0) (.beatSet { t0 := BitVec.ofNat 64 (f 0 8), n0 := BitVec.ofNat 64 (f 8 8), period := BitVec.ofNat 32 (f 16 4), source := BitVec.ofNat 8 (f 20 1) })
  | 0xA0 => need (decide (f 0 1 < 32) && f 1 7 == 0) (.testSelf (BitVec.ofNat 5 (f 0 1)) (Config.freeSelf free))
  | 0xA1 => need (decide (f 0 8 < 2)) (.testCold (f 0 1 == 1) (Config.freeCold free))
  | _ => none

/-- The command that a whole packet spells, or none where one of checks 2 to 4, 7, 8 or 9 refuses it. -/
def parsePacket (ring : Fin 34) (free : Nat) (bs : List Byte) : Option (CmdHdr × Body) :=
  let f := fldAt bs
  let flags := f 9 1
  let atBeat := bitOf flags 2
  let params := bs.drop 16
  let own := if atBeat then params.drop 8 else params
  let sum := crc crc32c (bs.take 12 ++ params)
  if sum != f 12 4 || 8 ≤ flags || f 10 2 != 0 then none
  else match bodyLen (f 0 2) own with
    | none => none
    | some n =>
      if own.length != n || (atBeat && params.length < 8) then none
      else (parseBody (f 0 2) free own).map fun b =>
        ({ ring := ring, tag := BitVec.ofNat 32 (f 4 4), paddock := BitVec.ofNat 8 (f 8 1), irq := bitOf flags 0, fence := bitOf flags 1,
           atBeat := if atBeat then some (BitVec.ofNat 64 (fldAt params 0 8)) else none }, b)

/-! ## The sweep (R351, R354) -/

/-- One whole packet taken. -/
def takePacket (r : Nat) (bs : List Byte) (s : State) : State :=
  match parsePacket (Fin.ofNat 34 r) s.free bs with
  | some (h, b) => finish (accept h b (if b.isTest then useFree s else s))
  | none => refuse r (BitVec.ofNat 32 (fldAt bs 4 4)) s

def setCcons (r i : Nat) (s : State) : State := setRing r { getRing s r with ccons := BitVec.ofNat 64 i } s

/-- Packets taken from a ring up to the CPROD that was read; one whose bytes are not all there yet stays. None is read while an aperture write of the ring's
port waits to be performed (R220). -/
def takePackets (fuel r cprod : Nat) (s : State) : State :=
  match fuel with
  | 0 => s
  | n + 1 =>
    let at_ := (getRing s r).ccons.toNat
    if !ringLive s r || !statusRoom s r || apertWriteWaits s (ringPort s r) || cprod < at_ + 16 then s
    else
      let head := ringBytes s r at_ 16
      let len := fldAt head 2 2
      if len % 8 != 0 || 4080 < len then refuse r (BitVec.ofNat 32 (fldAt head 4 4)) (setCcons r cprod s)
      else if cprod < at_ + 16 + len then s
      else takePackets n r cprod (takePacket r (ringBytes s r at_ (16 + len)) (setCcons r (at_ + 16 + len) s))

/-- The visit of one ring: indices, up to 64 packets, CCONS. -/
def sweepRing (r : Nat) (s : State) : State :=
  if !ringLive s r then s
  else
    let s := visitRing r s
    let g := getRing s r
    let cprod := rcbWord s r 0
    if cprod < g.ccons.toNat || g.ccons.toNat + 2 ^ g.csize.toNat < cprod || cprod % 8 != 0 then bump (1160 + r) 1 s
    else
      let s := takePackets 64 r cprod s
      let g' := getRing s r
      match ringFunc s r with
      | some (h, fn) => if g'.ccons != g.ccons && funcUp s h fn then hostWrites h (g'.rcb.toNat + 8) (leBytes 8 g'.ccons.toNat) s else s
      | none => s

/-- A sweep of every ring in sweep order. -/
def sweepAll (s : State) : State := (List.range 34).foldl (fun t r => sweepRing r t) s

end Sys2Proof.Machine
end

