-- ==== Sys2Proof/Machine/Yard.lean ====
section
/-! DEFINITION. What happens at a beat boundary, row by row (R333 to R336, R339). -/

namespace Sys2Proof.Machine

/-- A command named by its place in acceptance order has been accepted for a beat up to this one and has not begun. -/
def cmdDue (lim : Nat) (c : Cmd) : Bool := !c.began && (match c.hdr.atBeat with | some b => decide (b.toNat ≤ lim) | none => false)

def isPower (b : Body) : Bool :=
  match b with
  | .pwrCap _ => true
  | .pwrFixed _ _ => true
  | _ => false

/-- The beat that a move waits for: that of its command, or none. -/
def moveBeat (s : State) (m : MoveRt) : Option Nat :=
  match m.cmd with
  | none => none
  | some seq => match findCmd s seq with
    | some c => c.hdr.atBeat.map BitVec.toNat
    | none => none

def moveDue (s : State) (lim : Nat) (m : MoveRt) : Bool :=
  !m.took && (match moveBeat s m with | some b => decide (b ≤ lim) | none => true)

/-- The beats after the present one for which something of rows 1 to 4 is scheduled (R333). -/
def scheduledBeats (s : State) : List Nat :=
  (s.cnt.slots.toList.filterMap fun x => x.pend.map fun p => p.1.toNat) ++ (s.pwr.caps.map fun x => x.beat.toNat) ++
  (s.ym.cmds.filterMap fun c => if c.began then none else c.hdr.atBeat.map BitVec.toNat) ++
  s.pads.flatMap fun e => match e.2.pipe with
    | some p => p.moves.filterMap fun m => if m.took then none else moveBeat s m
    | none => []

/-- The beats up to m at which a paddock's pipeline is accepted, releases an invocation or meets a deadline. -/
def pipeBeats (m : Nat) (p : Pipe) : List Nat :=
  match p.start with
  | none => []
  | some st =>
    if st.ended then []
    else st.b0.toNat :: p.stages.flatMap fun x =>
      let deadlines := ((List.range (deadlinesDue m p st x)).filter fun k => decide (x.told ≤ k)).map fun k =>
        st.b0.toNat + (k - st.first + x.cfg.depth.toNat + 1) * p.period
      if x.running then deadlines else (releaseBeat p st x).toNat :: deadlines

/-- The beat numbers that a boundary to m takes in turn: each skipped beat from lo on that has an event, then m (R333). -/
def boundaryBeats (s : State) (lo m : Nat) : List Nat :=
  let pipes := s.pads.flatMap fun e => match e.2.pipe with | some p => pipeBeats m p | none => []
  let l := (scheduledBeats s ++ pipes).map fun b => max b lo
  (((l.filter fun b => decide (b < m)).eraseDups).mergeSort fun a b => decide (a ≤ b)) ++ [m]

/-- The first beat number that a boundary acts on: the one after the count, or beat 0 where that has not been reached (R333, R334). -/
def firstBeat (s : State) : Nat := if s.beat.reached0 then s.beat.count.toNat + 1 else 0

/-- A command whose boundary has come begins, if its fence holds; else it waits for a later boundary (R362). -/
def beginDue (seq : Nat) (s : State) : State :=
  match findCmd s seq with
  | none => s
  | some c =>
    if fenceHolds s c then
      tryBegin seq { s with ym := { s.ym with cmds := s.ym.cmds.map fun c => if c.seq == seq then { c with due := true } else c } }
    else s

/-- Ascending numbers without repeats. -/
def inOrder (l : List Nat) : List Nat := l.eraseDups.mergeSort fun a b => decide (a ≤ b)

/-- Row 3, but for the division of power: caps and PWR.FIXED in acceptance order. -/
def capRow (lim : Nat) (s : State) : State :=
  let waits := (s.pwr.caps.filter fun x => decide (x.beat.toNat ≤ lim)).map fun x => x.cmd
  let due := (s.ym.cmds.filter fun c => isPower c.body && cmdDue lim c).map fun c => c.seq
  (inOrder (waits ++ due)).foldl (fun t q => if waits.contains q then capDue q t else beginDue q t) s

/-- The move of a command, or without one a move the DZ1 makes itself, takes effect if its boundary has come. -/
def takeMoves (lim : Nat) (cmd : Option Nat) (s : State) : State :=
  (s.pads.flatMap fun e => match e.2.pipe with
    | some p => (p.moves.filter fun m => m.cmd == cmd && moveDue s lim m).map fun m => (e.1, m)
    | none => []).foldl (fun t x => takeMove x.1 x.2 t) s

/-- Row 4: commands with execute-at-beat, marks and moves, in acceptance order. -/
def commandRow (lim : Nat) (s : State) : State :=
  let due := (s.ym.cmds.filter fun c => cmdDue lim c).map fun c => c.seq
  let marks := s.snaps.waiting.map Prod.fst
  let moves := s.pads.flatMap fun e => match e.2.pipe with
    | some p => p.moves.filterMap fun m => if moveDue s lim m then m.cmd else none
    | none => []
  (inOrder (due ++ marks ++ moves)).foldl (fun t q =>
    let t := if due.contains q then beginDue q t else t
    let t := match t.snaps.waiting with
      | (k, _) :: _ => if k = q then marksDue t else t
      | [] => t
    takeMoves lim (some q) t) (takeMoves lim none s)

/-- Row 5 for one paddock: its pipeline's acceptance, its releases, the deadlines that have come; the mixer forms its steps first (R407). -/
def releaseRow (lim : Nat) (s : State) : State :=
  (s.pads.map Prod.fst).foldl (fun t p => tellDeadlines lim p (releaseUpto lim p (acceptUpto lim p (formSteps lim p t)))) s

/-- The events of one beat number (R335). last: it is the number that the boundary moves the count to, where the Weathervane acts. -/
def beatEvents (m : BoundaryInputs) (last : Bool) (b : Nat) (s : State) : State :=
  let s := capRow b (applyShadow (latchesDue b s))
  let s := if last then powerRow m s else s
  releaseRow b (commandRow b s)

/-- The count moves to the next boundary's number, under the BEAT.SET that governs that boundary (R332, R333). -/
def moveCount (x : BeatSet) (number time : Nat) (s : State) : State :=
  let gap := number - s.beat.count.toNat - 1
  let s := if x == s.beat.force then s else takeBeatSet x s
  setBeat (fun b =>
    { b with count := BitVec.ofNat 64 number, next := BitVec.ofNat 64 (number + 1), reached0 := true, rt := BitVec.ofNat 64 time,
             force := { b.force with cmd := none }, skipped := if b.regained then BitVec.ofNat 16 (min gap 65535) else b.skipped,
             gap := if b.regained then BitVec.ofNat 64 gap else b.gap }) s

/-- Path sends that wait for tokens of their paddock's buckets are tried again: time has passed (R399). -/
def retryTokens (s : State) : State := (s.pads.map Prod.fst).foldl (fun t p => retrySends p t) s

/-- BEAT_BOUNDARY: the next boundary under the BEAT.SET that governs it, whose entry follows the boundary's own events. The count does not pass its 64 bits. -/
def boundary (m : BoundaryInputs) (s : State) : State :=
  if !beatOn s || !s.beat.locked then s
  else
    let n := nextBoundary s
    if 2 ^ 64 ≤ n.2.1 || (s.beat.reached0 && decide (n.2.1 ≤ s.beat.count.toNat)) then s
    else
      let beats := boundaryBeats s (firstBeat s) n.2.1
      let s := moveCount n.1 n.2.1 n.2.2 s
      let s := beats.foldl (fun t b => beatEvents m (b == n.2.1) b t) s
      let s := finish (sendLates m (tellRegained (retryTokens (statusOpt n.1.cmd done [] s))))
      if s.ym.mode == 1 || s.ym.mode == 2 then finish (sweepAll s) else s

end Sys2Proof.Machine
end

