-- ==== Sys2Proof/Machine/Issue.lean ====
section
/-! DEFINITION. The issue of one instruction for the current group of a team (R83 to R85, R99, R100, R121, R123, R570). -/

namespace Sys2Proof.Machine

/-- The place of an issue: state, core, slot and team numbers, block, team, issuing group as it stood, and the lanes of the group whose guard is true,
ascending. In a meaning the team's current group has already advanced to the next PC. -/
structure Ctx where
  s    : State
  core : Nat
  slot : Nat
  team : Nat
  b    : Block
  t    : Team
  g    : TGroup
  on   : List Nat

/-- STAGE of a JOB entry. -/
def blockStageByte (b : Block) : Nat := match b.src with | .stage k _ => k | .launch _ => 0xFF

/-- What a JOB entry of this instruction names (R121). -/
def Ctx.unit (c : Ctx) : JobUnit :=
  { utype := 1, uindex := c.core, pad := c.b.pad, block := c.b.block, team := c.team, stage := blockStageByte c.b, pc := c.g.pc }

/-- The instruction raises a job fault. -/
def Ctx.fault (c : Ctx) (code : Nat) : State := finish (jobFault c.unit code 0 c.s)

/-- A thread's guard (R95). -/
def guardTrue (w : IWord) (t : Team) (lane : Nat) : Bool := readP t lane w.gpred.toNat != w.gneg

/-- The group that may issue now: the current one, if it is not held and has instructions left of its 16 (R84, R85). -/
def ready (s : State) (i : Issue) (w : IWord) : Option Ctx :=
  if !atWork s then none
  else match getBlock s i.core.val i.slot.val with
    | none => none
    | some b => match tfind b.teams i.team.val with
      | none => none
      | some t =>
        let t := { t with ring := turnReady t.ring }
        match t.ring with
        | [] => none
        | g :: _ =>
          if g.held || g.left = 0 || t.waits then none
          else some { s := s, core := i.core.val, slot := i.slot.val, team := i.team.val, b := b, t := t, g := g, on := g.lanes.filter (guardTrue w t) }

/-- The state with the team of an issue set. -/
def Ctx.put (c : Ctx) (t : Team) : State := modTeam c.core c.slot c.team (fun _ => t) c.s

/-- What a read of a core's register file or local store finds (R123): the state after it, and whether an uncorrectable error is consumed. -/
def coreEcc (core : Nat) (found : EccResult) (s : State) : State × Bool :=
  match found with
  | .clean => (s, false)
  | .corrected =>
    let c := getCore s core
    let s := setCore core { c with errs := c.errs + 1 } (bump core 1 s)
    let s := report (memErr 0x01 1 false (corePad s core) 0x01 core 0 3 (core / 512) 0 0 0xFFFFFFFF) s
    (if c.errs + 1 = s.snaps.corethr.toNat then judgeCore core s else s, false)
  | .uncorrectable => (setCore core { getCore s core with retire := true } s, true)

/-- The line with a parity error leaves its cache, and the core fetches it again (R123). The instruction words come with their commands (log 114). -/
def dropCached (cache : CoreCache) (line core : Nat) (s : State) : State :=
  let c := getCore s core
  match cache with
  | .l1 => setCore core { c with l1 := c.l1.eraseIdx line } s
  | .constant => setCore core { c with constant := c.constant.eraseIdx line } s
  | .descriptor => setCore core { c with desc := c.desc.eraseIdx line } s
  | .instruction => s

/-- What the reads of the core's memories find (R123): the state after it, and whether the instruction consumes an uncorrectable error. -/
def sramFound (r : SramResult) (core : Nat) (s : State) : State × Bool :=
  match r with
  | .clean => (s, false)
  | .parity cache line =>
    (dropCached cache line core (report (memErr 0x02 1 false (corePad s core) 0x01 core 0 3 (core / 512) 0 0 0xFFFFFFFF) (bump (1032 + coreDie core) 1 s)), false)
  | .corrected => coreEcc core .corrected s
  | .uncorrectable => coreEcc core .uncorrectable s

/-- A LOCAL access that waited is performed; found: what the read of the local store that it names finds (R94, R123). -/
def localArrives (id : Nat) (found : EccResult) (s : State) : State :=
  match findAcc s id with
  | none => s
  | some a =>
    if a.space ≠ 0 || unsent s a || reqBehind s a then localReq id s
    else
      let e := coreEcc (((localCores s a).head?).getD a.core) found s
      if e.2 then jobFault a.unit uncorrectableFault 0 e.1 else localReq id e.1

/-- Bytes of a copy land; found: what the read of its source finds, of a local store too (R119, R123). -/
def copyLands (id bytes : Nat) (found : EccResult) (s : State) : State :=
  match s.copies.find? fun c => c.id == id with
  | none => s
  | some c =>
    if c.read < c.total && c.sspace == 0 && (copiesBefore s c.core c.slot c.team c.id c.compact (copySpans s c)).isEmpty &&
        !blockedBy s c.core c.slot c.team c.id c.compact (copySpans s c) then
      let e := coreEcc c.core found s
      if e.2 then jobFault c.unit uncorrectableFault 0 e.1 else copyPart id bytes .clean e.1
    else copyPart id bytes found s

/-- The current group moves past an instruction; YIELD ends its quantum (R84, R95). -/
def advance (w : IWord) (t : Team) : Team :=
  t.modHead fun g => { g with pc := g.pc + 16, left := if w.yield then 0 else g.left - 1 }

/-- After an instruction: groups at one PC merge, and a group that now waits gives its turn to the next ready one (R83, R84). -/
def settleTeam (t : Team) : Team := let t := t.merged; { t with ring := turnReady t.ring }

/-- The instruction uses SR (R105, R133), which the team instruction count counts (R61). -/
def countSr (sr : Bool) (t : Team) : Team := if sr then { t with icnt := t.icnt + 1 } else t

/-- One instruction for the current group: refused words raise ILLEGAL_INSTR (R99), a register that a load has still to write holds it back (R85), else its
meaning follows. -/
def issueWith (i : Issue) (w : IWord) (form : Ctx → Form) (sr : Bool) (body : Ctx → State) (s : State) : State :=
  match ready s i w with
  | none => s
  | some c =>
    let f := form c
    if !legal (shapeRegs c.b.shape) f w then c.fault illegalInstr
    else if waitsOperand s c.core c.slot c.team c.g.lanes (formRegs f w) then s
    else
      let x := sramFound i.sram c.core s
      if x.2 then { c with s := x.1 }.fault uncorrectableFault
      else modTeam c.core c.slot c.team (fun t => settleTeam (countSr sr t)) (body { c with s := x.1, t := advance w c.t })

def issue (i : Issue) (w : IWord) (form : Form) (body : Ctx → State) (s : State) : State := issueWith i w (fun _ => form) false body s

/-- The meaning that changes the team alone. -/
def issueTeam (i : Issue) (w : IWord) (form : Form) (f : Ctx → Team) (s : State) : State := issue i w form (fun c => c.put (f c)) s

/-- What a command answers. -/
abbrev Answer := Host.Outcome State Fault Refusal

/-- The state t with the queue of s and with pins as p has them, but for PWR_OK and the presence debounce, which the module drives itself. The queue and
the other pins are inputs. -/
def keepInputs (s : State) (p : Pins) (t : State) : State :=
  { t with pending := s.pending, pins := { p with pwrOk := t.pins.pwrOk, cageDeb := t.pins.cageDeb } }

/-- The answer of a command at state s that makes the state t. Without input power no domain of the module works (R29, R538). -/
def answer (s t : State) : Answer := .next (if s.pins.p48vOk then keepInputs s s.pins t else s)

/-- The answer of an event that leaves the pins as p has them; it needs no power to happen. -/
def pinAnswer (p : Pins) (s t : State) : Answer := .next (keepInputs s p t)

end Sys2Proof.Machine
end

