-- ==== Sys2Proof/Machine/Int.lean ====
section
/-! DEFINITION. The INT family (R101, R103). -/

namespace Sys2Proof.Machine

/-! ## Modifiers and operands -/

/-- MOD bit 57 (`.s`), bit 58 (`.64`), bit 59 (`.sat`). -/
def modS (w : IWord) : Bool := w.mod.getLsbD 0
def mod64 (w : IWord) : Bool := w.mod.getLsbD 1
def modSat (w : IWord) : Bool := w.mod.getLsbD 2

/-- Width of the operation, and the registers of an operand. -/
def intW (w : IWord) : Nat := if mod64 w then 64 else 32
def intN (w : IWord) : Nat := if mod64 w then 2 else 1

/-- The form of an operation with sources a, b and c of so many registers: `.sat` is refused here. -/
def intForm (w : IWord) (d a b c : OpUse) : Form := { bareForm with dst := d, a := a, b := b, c := c, mod := true, ok := !modSat w }

/-- Two sources of the operation's width. -/
def intForm2 (w : IWord) : Form := intForm w (dest (intN w)) (src (intN w)) (src (intN w)) noUse

/-- One source. -/
def intForm1 (w : IWord) : Form := intForm w (dest (intN w)) (src (intN w)) noUse noUse

/-- A source and an amount in one 32-bit register (DEDUCED, log 33). -/
def intFormShift (w : IWord) : Form := intForm w (dest (intN w)) (src (intN w)) (src 1) noUse

/-- A count of bits, which one register takes (DEDUCED, log 33). -/
def intFormCount (w : IWord) : Form := intForm w (dest 1) (src (intN w)) noUse noUse

def intA (w : IWord) (c : Ctx) (l : Nat) : Nat := readInt c.t (mod64 w) l w.srcA w.imm
def intB (w : IWord) (c : Ctx) (l : Nat) : Nat := readInt c.t (mod64 w) l w.srcB w.imm
def intC (w : IWord) (c : Ctx) (l : Nat) : Nat := readInt c.t (mod64 w) l w.srcC w.imm

/-- An operand as the number it stands for. -/
def intVal (w : IWord) (v : Nat) : Int := if modS w then toSigned (intW w) v else v

/-- Results of n registers by lane. -/
def laneResults (n : Nat) (w : IWord) (f : Nat → Nat) (c : Ctx) : Team := writeLanes n w.dst (c.on.map fun l => (l, f l)) c.t

/-- An operation of one form whose result has the operation's width. -/
def intOp (i : Issue) (w : IWord) (form : Form) (f : Ctx → Nat → Nat) (s : State) : State :=
  issueTeam i w form (fun c => laneResults (intN w) w (fun l => f c l % 2 ^ intW w) c) s

/-! ## Arithmetic -/

/-- An exact result wrapped, or under `.sat` kept within the range. -/
def wrapOrSat (w : IWord) (v : Int) : Nat :=
  let n := intW w
  if modSat w then
    (if modS w then ofSigned n (max (-(2 ^ (n - 1) : Int)) (min (2 ^ (n - 1) - 1) v)) else (max 0 (min (2 ^ n - 1) v)).toNat)
  else ofSigned n v

def addSubForm (w : IWord) : Form := { intForm2 w with ok := true }

def intMulHigh (w : IWord) (a b : Nat) : Nat := ofSigned (intW w) (intVal w a * intVal w b / 2 ^ intW w)

/-- |a|; the most negative value is returned unchanged. -/
def intAbsVal (w : IWord) (a : Nat) : Nat := ofSigned (intW w) (toSigned (intW w) a).natAbs

/-- The number of leading zeros of a number of n bits. -/
def leadingZeros (n v : Nat) : Nat := n - bitLen v

/-- The n bits of a number in reverse. -/
def bitReverse (n v : Nat) : Nat := (List.range n).foldl (fun r k => if bitOf v k then r + 2 ^ (n - 1 - k) else r) 0

/-- The field of a at bit position pos, width bits wide. -/
def fieldGet (w : IWord) (a pos width : Nat) : Nat :=
  let x := ofSigned width (intVal w a / 2 ^ pos)
  if modS w && width != 0 then ofSigned (intW w) (toSigned width x) else x

/-- b with width bits from pos upward replaced by the low bits of a. -/
def fieldPut (w : IWord) (a b pos width : Nat) : Nat :=
  let m := ((2 ^ width - 1) * 2 ^ pos) % 2 ^ intW w
  (b - (b &&& m)) + ((a * 2 ^ pos) &&& m)

def cmpForm (w : IWord) : Form :=
  { intForm w noUse (src (intN w)) (src (intN w)) noUse with ext := extMask 98 96, pen := 2, ok := !modSat w && decide (ext w 98 96 ≤ 5) }

/-- Predicates by lane. -/
def lanePreds (w : IWord) (p : Nat → Bool) (c : Ctx) : Team := c.on.foldl (fun t l => writeP l w.pdst.toNat (p l) t) c.t

def intCompare (w : IWord) (a b : Nat) : Bool := condHolds (ext w 98 96) (Int.sign (intVal w a - intVal w b))

/-- The predicate that EXT[102:100] names. -/
def extPred (w : IWord) (c : Ctx) (l : Nat) : Bool := readP c.t l (ext w 102 100)

/-- a from lane (b mod 32), if that lane is in the issuing group. -/
def fromLane (w : IWord) (c : Ctx) (l : Nat) : Nat :=
  let k := read32 c.t l w.srcB w.imm % 32
  if c.g.lanes.contains k then intA w c k else intA w c l

/-- The mask of threads of the group whose predicate is true. -/
def groupMask (w : IWord) (c : Ctx) : Nat := (laneMask (c.g.lanes.filter fun l => extPred w c l)).toNat

/-! ## Meanings -/

def execIntAdd (i : Issue) (w : IWord) (s : State) : Answer :=
  answer s (intOp i w (addSubForm w) (fun c l => wrapOrSat w (intVal w (intA w c l) + intVal w (intB w c l))) s)

def execIntSub (i : Issue) (w : IWord) (s : State) : Answer :=
  answer s (intOp i w (addSubForm w) (fun c l => wrapOrSat w (intVal w (intA w c l) - intVal w (intB w c l))) s)

def execIntMull (i : Issue) (w : IWord) (s : State) : Answer := answer s (intOp i w (intForm2 w) (fun c l => intA w c l * intB w c l) s)

def execIntMulh (i : Issue) (w : IWord) (s : State) : Answer :=
  answer s (intOp i w (intForm2 w) (fun c l => intMulHigh w (intA w c l) (intB w c l)) s)

def execIntMuladd (i : Issue) (w : IWord) (s : State) : Answer :=
  answer s (intOp i w { intForm2 w with c := src (intN w) } (fun c l => intA w c l * intB w c l + intC w c l) s)

def execIntMin (i : Issue) (w : IWord) (s : State) : Answer :=
  answer s (intOp i w (intForm2 w) (fun c l => if intVal w (intA w c l) ≤ intVal w (intB w c l) then intA w c l else intB w c l) s)

def execIntMax (i : Issue) (w : IWord) (s : State) : Answer :=
  answer s (intOp i w (intForm2 w) (fun c l => if intVal w (intA w c l) ≤ intVal w (intB w c l) then intB w c l else intA w c l) s)

def execIntAbs (i : Issue) (w : IWord) (s : State) : Answer := answer s (intOp i w (intForm1 w) (fun c l => intAbsVal w (intA w c l)) s)

def execIntAnd (i : Issue) (w : IWord) (s : State) : Answer := answer s (intOp i w (intForm2 w) (fun c l => intA w c l &&& intB w c l) s)

def execIntOr (i : Issue) (w : IWord) (s : State) : Answer := answer s (intOp i w (intForm2 w) (fun c l => intA w c l ||| intB w c l) s)

def execIntXor (i : Issue) (w : IWord) (s : State) : Answer := answer s (intOp i w (intForm2 w) (fun c l => intA w c l ^^^ intB w c l) s)

def execIntNot (i : Issue) (w : IWord) (s : State) : Answer :=
  answer s (intOp i w (intForm1 w) (fun c l => 2 ^ intW w - 1 - intA w c l) s)

def execIntShl (i : Issue) (w : IWord) (s : State) : Answer :=
  answer s (intOp i w (intFormShift w) (fun c l => intA w c l * 2 ^ (read32 c.t l w.srcB w.imm % intW w)) s)

def execIntShr (i : Issue) (w : IWord) (s : State) : Answer :=
  answer s (intOp i w (intFormShift w) (fun c l => intA w c l / 2 ^ (read32 c.t l w.srcB w.imm % intW w)) s)

def execIntSar (i : Issue) (w : IWord) (s : State) : Answer :=
  answer s (intOp i w (intFormShift w)
    (fun c l => ofSigned (intW w) (toSigned (intW w) (intA w c l) / 2 ^ (read32 c.t l w.srcB w.imm % intW w))) s)

def execIntOnes (i : Issue) (w : IWord) (s : State) : Answer :=
  answer s (issueTeam i w (intFormCount w) (fun c => laneResults 1 w (fun l => popcount (intW w) (intA w c l)) c) s)

def execIntLzc (i : Issue) (w : IWord) (s : State) : Answer :=
  answer s (issueTeam i w (intFormCount w) (fun c => laneResults 1 w (fun l => leadingZeros (intW w) (intA w c l)) c) s)

def execIntBitrev (i : Issue) (w : IWord) (s : State) : Answer :=
  answer s (intOp i w (intForm1 w) (fun c l => bitReverse (intW w) (intA w c l)) s)

def execIntFget (i : Issue) (w : IWord) (s : State) : Answer :=
  answer s (intOp i w (intForm w (dest (intN w)) (src (intN w)) (src 1) (src 1))
    (fun c l => fieldGet w (intA w c l) (bitsOf (read32 c.t l w.srcB w.imm) 7 0) (bitsOf (read32 c.t l w.srcC w.imm) 7 0)) s)

def execIntFput (i : Issue) (w : IWord) (s : State) : Answer :=
  answer s (intOp i w (intForm w (dest (intN w)) (src (intN w)) (src (intN w)) (src 1))
    (fun c l => let x := read32 c.t l w.srcC w.imm; fieldPut w (intA w c l) (intB w c l) (bitsOf x 7 0) (bitsOf x 15 8)) s)

def execIntPick (i : Issue) (w : IWord) (s : State) : Answer :=
  answer s (intOp i w { intForm2 w with ext := extMask 102 100 } (fun c l => if extPred w c l then intA w c l else intB w c l) s)

def execIntCmp (i : Issue) (w : IWord) (s : State) : Answer :=
  answer s (issueTeam i w (cmpForm w) (fun c => lanePreds w (fun l => intCompare w (intA w c l) (intB w c l)) c) s)

def execIntMov (i : Issue) (w : IWord) (s : State) : Answer := answer s (intOp i w (intForm1 w) (fun c l => intA w c l) s)

def execLaneGet (i : Issue) (w : IWord) (s : State) : Answer := answer s (intOp i w (intFormShift w) (fun c l => fromLane w c l) s)

/-- lane.mask writes one 32-bit register under `.64` too (DEDUCED, log 33). -/
def execLaneMask (i : Issue) (w : IWord) (s : State) : Answer :=
  answer s (issueTeam i w { intForm w (dest 1) noUse noUse noUse with ext := extMask 102 100 } (fun c => laneResults 1 w (fun _ => groupMask w c) c) s)

end Sys2Proof.Machine
end

