-- ==== Sys2Proof/Machine/Flt.lean ====
section
/-! DEFINITION. The FLT family (R57, R102, R103). -/

namespace Sys2Proof.Machine

/-- FMT 0x00 is FP64, which takes register pairs. -/
def fltWide (w : IWord) : Bool := w.fmt == 0
def fltN (w : IWord) : Nat := if fltWide w then 2 else 1
def fltFmt (w : IWord) : Fmt := if fltWide w then fp64 else fp32

/-- MOD: RN, RZ, RU, RD. -/
def modeOf (m : BitVec 3) : RMode :=
  match m.toNat with
  | 1 => .rz
  | 2 => .ru
  | 3 => .rd
  | _ => .rn

def fltForm (w : IWord) (a b c : OpUse) : Form :=
  { bareForm with dst := dest (fltN w), a := a, b := b, c := c, fmt := true, mod := true, ok := decide (w.fmt.toNat ≤ 1 ∧ w.mod.toNat ≤ 3) }

def fltForm1 (w : IWord) : Form := fltForm w (src (fltN w)) noUse noUse
def fltForm2 (w : IWord) : Form := fltForm w (src (fltN w)) (src (fltN w)) noUse

/-- Estimates exist for FP32 only, with MOD 0. -/
def estForm (w : IWord) : Form :=
  { bareForm with dst := dest 1, a := src 1, fmt := true, ok := decide (w.fmt = 1) }

def fltA (w : IWord) (c : Ctx) (l : Nat) : Nat := readFlt c.t (fltWide w) l w.srcA w.imm
def fltB (w : IWord) (c : Ctx) (l : Nat) : Nat := readFlt c.t (fltWide w) l w.srcB w.imm
def fltC (w : IWord) (c : Ctx) (l : Nat) : Nat := readFlt c.t (fltWide w) l w.srcC w.imm

/-- Results of n registers by lane, and the flags of every lane (R56). -/
def flaggedResults (n : Nat) (w : IWord) (f : Nat → Nat × Flags) (c : Ctx) : Team :=
  let rs := c.on.map fun l => (l, f l)
  writeFlags (rs.map fun x => x.2.2) (writeLanes n w.dst (rs.map fun x => (x.1, x.2.1)) c.t)

def fltOp (i : Issue) (w : IWord) (form : Form) (f : Ctx → Nat → Nat × Flags) (s : State) : State :=
  issueTeam i w form (fun c => flaggedResults (fltN w) w (f c) c) s

def fltCmpForm (w : IWord) : Form :=
  { fltForm2 w with dst := noUse, ext := extMask 99 96, pen := 2, ok := (fltForm2 w).ok && decide (ext w 98 96 ≤ 5) }

/-- A comparison by lane: predicates and flags. -/
def fltCompare (w : IWord) (c : Ctx) : Team :=
  let r (l : Nat) : Bool × Flags := fCmp (fltFmt w) (ext w 98 96) (ext w 99 99 == 1) (fltA w c l) (fltB w c l)
  writeFlags (c.on.map fun l => (r l).2) (lanePreds w (fun l => (r l).1) c)

def execFltAdd (i : Issue) (w : IWord) (s : State) : Answer :=
  answer s (fltOp i w (fltForm2 w) (fun c l => fAdd (fltFmt w) (modeOf w.mod) (fltA w c l) (fltB w c l)) s)

def execFltSub (i : Issue) (w : IWord) (s : State) : Answer :=
  answer s (fltOp i w (fltForm2 w) (fun c l => fSub (fltFmt w) (modeOf w.mod) (fltA w c l) (fltB w c l)) s)

def execFltMul (i : Issue) (w : IWord) (s : State) : Answer :=
  answer s (fltOp i w (fltForm2 w) (fun c l => fMul (fltFmt w) (modeOf w.mod) (fltA w c l) (fltB w c l)) s)

def execFltFma (i : Issue) (w : IWord) (s : State) : Answer :=
  answer s (fltOp i w (fltForm w (src (fltN w)) (src (fltN w)) (src (fltN w)))
    (fun c l => fFma (fltFmt w) (modeOf w.mod) (fltA w c l) (fltB w c l) (fltC w c l)) s)

def execFltDiv (i : Issue) (w : IWord) (s : State) : Answer :=
  answer s (fltOp i w (fltForm2 w) (fun c l => fDiv (fltFmt w) (modeOf w.mod) (fltA w c l) (fltB w c l)) s)

def execFltSqrt (i : Issue) (w : IWord) (s : State) : Answer :=
  answer s (fltOp i w (fltForm1 w) (fun c l => fSqrt (fltFmt w) (modeOf w.mod) (fltA w c l)) s)

def execFltMin (i : Issue) (w : IWord) (s : State) : Answer :=
  answer s (fltOp i w (fltForm2 w) (fun c l => fMinMax (fltFmt w) true (fltA w c l) (fltB w c l)) s)

def execFltMax (i : Issue) (w : IWord) (s : State) : Answer :=
  answer s (fltOp i w (fltForm2 w) (fun c l => fMinMax (fltFmt w) false (fltA w c l) (fltB w c l)) s)

def execFltAbs (i : Issue) (w : IWord) (s : State) : Answer :=
  answer s (fltOp i w (fltForm1 w) (fun c l => fAbs (fltFmt w) (fltA w c l)) s)

def execFltNeg (i : Issue) (w : IWord) (s : State) : Answer :=
  answer s (fltOp i w (fltForm1 w) (fun c l => fNeg (fltFmt w) (fltA w c l)) s)

def execFltCmp (i : Issue) (w : IWord) (s : State) : Answer := answer s (issueTeam i w (fltCmpForm w) (fltCompare w) s)

def estOp (i : Issue) (w : IWord) (f : W32 → Nat × Flags) (s : State) : State :=
  issueTeam i w (estForm w) (fun c => flaggedResults 1 w (fun l => f (BitVec.ofNat 32 (read32 c.t l w.srcA w.imm))) c) s

def execExp2Est (i : Issue) (w : IWord) (s : State) : Answer := answer s (estOp i w (fExp2 Config.exp2Est) s)

def execLog2Est (i : Issue) (w : IWord) (s : State) : Answer := answer s (estOp i w (fLog2 Config.log2Est) s)

def execRsqEst (i : Issue) (w : IWord) (s : State) : Answer := answer s (estOp i w (fRsq Config.rsqEst) s)

end Sys2Proof.Machine
end

