-- ==== Sys2Proof/Machine/Cvt.lean ====
section
/-! DEFINITION. The CVT family (R104 to R107). -/

namespace Sys2Proof.Machine

/-- The key of the stochastic generator in a team (R60). -/
def Ctx.srKey (c : Ctx) : SrKey :=
  match c.b.src with
  | .stage k _ => { seed := c.b.seed, icnt := c.t.icnt, team := c.team, block := c.b.block, pcore := c.b.plotIdx, stage := k }
  | .launch _ => { seed := c.b.seed, icnt := c.t.icnt, team := c.team, block := c.b.block, pcore := 0, stage := 0 }

/-- MOD 4 is SR (R105, R133). -/
def usesSr (w : IWord) : Bool := w.mod == 4

/-- The rounding of element e of an instruction that takes RN or SR. -/
def Ctx.round (c : Ctx) (w : IWord) (e : Nat) : RMode := modeAt .rn (if usesSr w then some c.srKey else none) e

/-- `.sat` of EXT[100]. -/
def cvtSat (w : IWord) : Bool := ext w 100 100 == 1

/-! ## cvt (R106) -/

/-- Width and value of an element of a source code, 0x00 to 0x09. -/
def srcWidth (code : Nat) : Nat := match fmtOf code with | some f => f.width | none => 8
def srcDecode (code v : Nat) : FVal := match fmtOf code with | some f => f.decode v | none => e8m0 v

/-- Elements of a width packed into one register. -/
def packed (width : Nat) : Nat := if width = 4 then 8 else if width ≤ 8 then 4 else if width = 16 then 2 else 1

/-- Source code and destination code, elements, and the registers of an element on either side. -/
def cvtSrc (w : IWord) : Nat := ext w 105 101
def cvtDst (w : IWord) : Fmt := (fmtOf w.fmt.toNat).getD fp32
def cvtCount (w : IWord) : Nat :=
  let a := srcWidth (cvtSrc w)
  let b := (cvtDst w).width
  if a = b then 1 else packed (min a b)
def regsOf (width : Nat) : Nat := if width = 64 then 2 else 1

/-- Registers of the source and of the destination. -/
def cvtSrcRegs (w : IWord) : Nat := if (cvtDst w).width ≤ srcWidth (cvtSrc w) then regsOf (srcWidth (cvtSrc w)) * cvtCount w else 1
def cvtDstRegs (w : IWord) : Nat := if srcWidth (cvtSrc w) < (cvtDst w).width then regsOf (cvtDst w).width * cvtCount w else regsOf (cvtDst w).width

def cvtForm (w : IWord) : Form :=
  { bareForm with dst := destRange (cvtDstRegs w) ((cvtDst w).width == 64), a := srcRange (cvtSrcRegs w) (srcWidth (cvtSrc w) == 64), fmt := true, mod := true,
                  ext := extMask 105 100, ok := decide (cvtSrc w ≤ 9 ∧ w.fmt.toNat ≤ 8) && (w.mod == 0 || w.mod == 4) }

/-- Source element j of a lane. -/
def cvtElem (w : IWord) (c : Ctx) (l j : Nat) : Nat :=
  let width := srcWidth (cvtSrc w)
  if width < (cvtDst w).width then read32 c.t l w.srcA w.imm / 2 ^ (width * j) % 2 ^ width
  else if width = 64 then (if w.srcA = 320 then widenF32 w.imm.toNat else readAt c.t l w.srcA (2 * j) + 2 ^ 32 * readAt c.t l w.srcA (2 * j + 1))
  else (if w.srcA = 320 then w.imm.toNat else readAt c.t l w.srcA j) % 2 ^ width

/-- All elements of a lane converted: the words of the destination and the flags. -/
def cvtLane (w : IWord) (c : Ctx) (l : Nat) : Nat × Flags :=
  let f := cvtDst w
  let place := if srcWidth (cvtSrc w) < f.width then 32 * regsOf f.width else f.width
  (List.range (cvtCount w)).foldl (fun (a : Nat × Flags) j =>
    let r := f.convert (c.round w (8 * l + j)) (cvtSat w) (srcDecode (cvtSrc w) (cvtElem w c l j))
    (a.1 + r.1 * 2 ^ (place * j), a.2.or r.2)) (0, noFlags)

def execCvt (i : Issue) (w : IWord) (s : State) : Answer :=
  answer s (issueWith i w (fun _ => cvtForm w) (usesSr w) (fun c => c.put (flaggedResults (cvtDstRegs w) w (cvtLane w c) c)) s)

/-! ## Integers (R105) -/

/-- Integer type of EXT[107:106]: s32, u32, s64, u64. -/
def intType (w : IWord) : Nat := ext w 107 106
def typeSigned (w : IWord) : Bool := intType w % 2 == 0
def typeWide (w : IWord) : Bool := decide (2 ≤ intType w)
def typeRegs (w : IWord) : Nat := if typeWide w then 2 else 1
def typeBits (w : IWord) : Nat := if typeWide w then 64 else 32

def cvtIntForm (w : IWord) (d a : Nat) : Form :=
  { bareForm with dst := dest d, a := src a, fmt := true, mod := true, ext := extMask 100 100 ||| extMask 107 106, ok := decide (w.fmt.toNat ≤ 3 ∧ w.mod.toNat ≤ 3) }

def f2iForm (w : IWord) : Form := cvtIntForm w (typeRegs w) (fltN w)
def i2fForm (w : IWord) : Form := cvtIntForm w (fltN w) (typeRegs w)

/-- cvt.f2i of a lane. -/
def f2iLane (w : IWord) (c : Ctx) (l : Nat) : Nat × Flags :=
  fToInt (cvtDst w) (modeOf w.mod) (typeSigned w) (typeBits w) (readFlt c.t (fltWide w) l w.srcA w.imm % 2 ^ (cvtDst w).width)

def i2fLane (w : IWord) (c : Ctx) (l : Nat) : Nat × Flags :=
  let v := readInt c.t (typeWide w) l w.srcA w.imm
  let x : Int := if typeSigned w then toSigned (typeBits w) v else v
  (cvtDst w).round (modeOf w.mod) (cvtSat w) (decide (x < 0)) x.natAbs 0 false

def execCvtF2i (i : Issue) (w : IWord) (s : State) : Answer :=
  answer s (issueTeam i w (f2iForm w) (fun c => flaggedResults (typeRegs w) w (f2iLane w c) c) s)

def execCvtI2f (i : Issue) (w : IWord) (s : State) : Answer :=
  answer s (issueTeam i w (i2fForm w) (fun c => flaggedResults (fltN w) w (i2fLane w c) c) s)

/-! ## cvt.blk (R107) -/

def isKx4 (w : IWord) : Bool := w.fmt == 0x11

/-- Element format of a block format code 0x0C to 0x10. -/
def mxFmt (code : Nat) : Fmt := (fmtOf (code - 8)).getD e4m3

/-- The scale register of EXT[111:106]. -/
def scaleReg (w : IWord) : Nat := ext w 111 106

def blkForm (w : IWord) : Form :=
  { bareForm with dst := dest 1, a := src 1, b := if isKx4 w then src 1 else noUse, fmt := true, mod := true, ext := extMask 111 100,
                  extra := [256 + scaleReg w],
                  ok := decide (cvtSrc w = 1 ∧ 0x0C ≤ w.fmt.toNat ∧ w.fmt.toNat ≤ 0x11) && (w.mod == 0 || w.mod == 4) }

/-- The value that a lane supplies, with its rounding. -/
def blkValue (w : IWord) (c : Ctx) (l : Nat) : Nat × RMode := (if c.on.contains l then read32 c.t l w.srcA w.imm else 0, c.round w l)

/-- Scale word, element codes by lane, flags. -/
def blkConvert (w : IWord) (c : Ctx) (first : Nat) : Nat × List Nat × Flags :=
  let vals := (List.range 32).map (blkValue w c)
  if isKx4 w then
    let t := read32 c.t first w.srcB w.imm
    let x := toKx4 t (vals.take 16)
    let y := toKx4 t (vals.drop 16)
    (x.1 + 256 * y.1, x.2.1 ++ y.2.1, x.2.2.or y.2.2)
  else toMx (mxFmt w.fmt.toNat) vals

/-- Element codes are written first, then the scale register; with no guard true nothing is written. -/
def blkTeam (w : IWord) (c : Ctx) : Team :=
  match c.on with
  | [] => c.t
  | first :: _ =>
    let r := blkConvert w c first
    writeU (scaleReg w) (BitVec.ofNat 32 r.1) (writeFlags [r.2.2] (writeLanes 1 w.dst (c.on.map fun l => (l, (r.2.1[l]?).getD 0)) c.t))

def execCvtBlk (i : Issue) (w : IWord) (s : State) : Answer :=
  answer s (issueWith i w (fun _ => blkForm w) (usesSr w) (fun c => c.put (blkTeam w c)) s)

end Sys2Proof.Machine
end

