-- ==== Sys2Proof/Machine/Ctl.lean ====
section
/-! DEFINITION. The CTL family (R108 to R110), barriers, joins and dozes, and branches in harness regions (R129). -/

namespace Sys2Proof.Machine

def ctlForm (imm ok : Bool) : Form := { bareForm with imm := imm, ok := ok }

/-- PC + 16 × IMM, signed (R108). -/
def branchTarget (w : IWord) (c : Ctx) : W64 := c.g.pc + BitVec.ofInt 64 (16 * w.imm.toInt)

/-- The PCs at which the group's threads stand after a branch of some of them. -/
def pcsAfter (c : Ctx) (taken : List (Nat × W64)) : List W64 :=
  (c.g.lanes.map fun l => match taken.find? fun x => x.1 == l with | some x => x.2 | none => c.g.pc + 16).eraseDups

/-- The branch would leave the team of a harness region at more than one PC (R129). -/
def splits (c : Ctx) (taken : List (Nat × W64)) : Bool := c.t.harness.isSome && decide (1 < (pcsAfter c taken).length)

/-- Threads branch, unless the branch splits a harness region. -/
def branchOr (c : Ctx) (taken : List (Nat × W64)) (t : Team) : State := if splits c taken then c.fault harnessSplit else c.put (t.branch taken)

def execJmp (i : Issue) (w : IWord) (s : State) : Answer :=
  answer s (issue i w (ctlForm true true) (fun c => branchOr c (c.on.map fun l => (l, branchTarget w c)) c.t) s)

def jmpiForm : Form := { bareForm with a := src 2 }

/-- Addresses of jmpi by lane. -/
def jmpiTargets (w : IWord) (c : Ctx) : List (Nat × W64) := c.on.map fun l => (l, BitVec.ofNat 64 (read64 c.t l w.srcA w.imm))

def execJmpi (i : Issue) (w : IWord) (s : State) : Answer :=
  answer s (issue i w jmpiForm (fun c =>
    if (jmpiTargets w c).any fun x => x.2.toNat % 16 != 0 then c.fault illegalInstr else branchOr c (jmpiTargets w c) c.t) s)

/-- A thread's call stack changed by f. -/
def modStack (l : Nat) (f : List W64 → List W64) (t : Team) : Team :=
  let x := thread t l
  { t with threads := tput t.threads l { x with stack := f x.stack } }

def pushAll (c : Ctx) : Team := c.on.foldl (fun t l => modStack l (fun k => (c.g.pc + 16) :: k) t) c.t

def execCall (i : Issue) (w : IWord) (s : State) : Answer :=
  answer s (issue i w (ctlForm true true) (fun c =>
    if c.on.any fun l => decide (32 ≤ (thread c.t l).stack.length) then c.fault callDepth
    else branchOr c (c.on.map fun l => (l, branchTarget w c)) (pushAll c)) s)

/-- Return addresses by lane. -/
def retTargets (c : Ctx) : List (Nat × W64) := c.on.map fun l => (l, ((thread c.t l).stack.head?).getD 0)

def execRet (i : Issue) (w : IWord) (s : State) : Answer :=
  answer s (issue i w bareForm (fun c =>
    if c.on.any fun l => (thread c.t l).stack.isEmpty then c.fault illegalInstr
    else branchOr c (retTargets c) (c.on.foldl (fun t l => modStack l (List.drop 1) t) c.t)) s)

/-! ## Joins (R109, R140) -/

/-- Lanes that stand at a team.join. -/
def joinLanes (t : Team) : W32 :=
  (t.ring.filter fun g => match g.wait with | some (.join _) => true | _ => false).foldl (fun m g => m ||| g.mask) 0

/-- A group's join with the masks of the threads whose wait has not ended. -/
def stillJoining (live at_ : W32) (g : TGroup) : TGroup :=
  match g.wait with
  | some (.join ms) => { g with wait := some (.join (ms.filter fun x => (x.2 &&& live &&& ~~~at_) != 0)) }
  | _ => g

def joinOver (g : TGroup) : Bool := match g.wait with | some (.join []) => true | _ => false

/-- Threads whose wait at a team.join has ended, and groups whose threads have all done so (DEDUCED, log 34). -/
def checkJoins (t : Team) : Team :=
  Team.releaseAll joinOver { t with ring := t.ring.map (stillJoining t.live (joinLanes t)) }

/-- Matrix instructions of a team that have not completed. -/
def mmaBusy (s : State) (core slot team : Nat) : Bool := (getCore s core).mmaQ.any fun e => e.own && e.slot == slot && e.team == team

/-- Matrix instructions of a team that have not completed and read or write the local store. -/
def mmaStores (s : State) (core slot team : Nat) : Bool :=
  (getCore s core).mmaQ.any fun e => e.own && e.store && e.slot == slot && e.team == team

/-- The joins of a team, once its matrix instructions have completed their accesses to the local store (R140). -/
def joinsOver (core slot team : Nat) (s : State) : State := if mmaStores s core slot team then s else modTeam core slot team checkJoins s

def joinForm : Form := { bareForm with a := src 1 }

def execTeamJoin (i : Issue) (w : IWord) (s : State) : Answer :=
  answer s (issue i w joinForm (fun c =>
    let ms := c.on.map fun l => (l, BitVec.ofNat 32 (read32 c.t l w.srcA w.imm))
    joinsOver c.core c.slot c.team (c.put (c.t.modHead fun g => { g with wait := some (.join ms) }))) s)

/-! ## Ends (R108, R127) -/

/-- The accumulator tiles of a team are free (R127). -/
def freeTiles (core slot team : Nat) (s : State) : State :=
  match getTeam s core slot team with
  | none => s
  | some t =>
    let c := getCore s core
    let used := (t.harness.getD []).foldl (fun m k => m &&& ~~~(BitVec.ofNat 8 (2 ^ k.val))) c.tileUsed
    modTeam core slot team (fun t => { t with harness := none }) (setCore core { c with tileUsed := used } s)

/-- The threads of the group whose guard is true leave the team. -/
def endLanes (c : Ctx) : Team :=
  let m := laneMask c.on
  let t := { c.t with live := c.t.live &&& ~~~m }
  match t.ring with
  | [] => t
  | g :: r =>
    if g.mask &&& ~~~m = 0 then
      { t with ring := match r with | [] => [] | h :: q => { h with left := 16 } :: q }
    else { t with ring := { g with mask := g.mask &&& ~~~m } :: r }

/-- The last matrix instruction of an ended team is to free its tiles, and none of them lands flags any more. -/
def closeAfter (slot team : Nat) (ks : List (Fin 8)) (q : List MmaEntry) : List MmaEntry :=
  let mine (e : MmaEntry) : Bool := e.own && e.slot == slot && e.team == team
  let last := (q.zipIdx.filter fun x => mine x.1).getLast?.map Prod.snd
  q.zipIdx.map fun x => if mine x.1 then { x.1 with own := false, frees := if some x.2 = last then ks else [] } else x.1

/-- The region of a team whose threads have all ended closes once its matrix instructions have completed (R127). -/
def closeEnded (core slot team : Nat) (s : State) : State :=
  if mmaBusy s core slot team then
    let ks := match getTeam s core slot team with | some t => t.harness.getD [] | none => []
    let c := getCore s core
    modTeam core slot team (fun t => { t with harness := none }) (setCore core { c with mmaQ := closeAfter slot team ks c.mmaQ } s)
  else freeTiles core slot team s

/-- What follows when threads have ended: joins that waited for them, the harness region of a team that has ended, its block. -/
def afterEnd (c : Ctx) (s : State) : State :=
  let s := joinsOver c.core c.slot c.team s
  match getTeam s c.core c.slot c.team with
  | none => s
  | some t => if t.live = 0 then finish (exitBlock c.core c.slot (closeEnded c.core c.slot c.team s)) else s

def execEndThread (i : Issue) (w : IWord) (s : State) : Answer := answer s (issue i w bareForm (fun c => afterEnd c (c.put (endLanes c))) s)

/-! ## Barriers and dozes -/

def barrierForm (w : IWord) : Form := ctlForm true (decide (w.imm.toNat ≤ 15))

def execBlockWait (i : Issue) (w : IWord) (s : State) : Answer :=
  answer s (issue i w (barrierForm w) (fun c => c.put (c.t.modHead fun g => { g with wait := some (.barrier (Fin.ofNat 16 w.imm.toNat)) })) s)

def atBarrier (n : Fin 16) (g : TGroup) : Bool := match g.wait with | some (.barrier m) => m == n | _ => false

/-- Every live thread of the team has executed block.wait n; an ended team counts as arrived. -/
def teamArrived (n : Fin 16) (t : Team) : Bool := t.live == 0 || t.ring.all (atBarrier n)

/-- BARRIER_RELEASE (R109): every team of the block has arrived, and their matrix instructions have completed their accesses to the local store (R140). -/
def barrierOver (core slot : Nat) (n : Fin 16) (s : State) : State :=
  match getBlock s core slot with
  | none => s
  | some b =>
    if b.teams.all (fun t => teamArrived n t.2) && !((getCore s core).mmaQ.any fun e => e.own && e.store && e.slot == slot) && atWork s then
      setBlock core slot { b with teams := b.teams.map fun t => (t.1, t.2.releaseAll (atBarrier n)) } s
    else s

def execBarrierRelease (core : Fin 1024) (slot barrier : Fin 16) (s : State) : Answer := answer s (barrierOver core.val slot.val barrier s)

def dozeForm (w : IWord) : Form := ctlForm true (decide (1 ≤ w.imm.toNat ∧ w.imm.toNat ≤ 65535))

/-- The group waits if the guard is true for any thread of it (DEDUCED, log 34). -/
def execDoze (i : Issue) (w : IWord) (s : State) : Answer :=
  answer s (issue i w (dozeForm w) (fun c => c.put (if c.on.isEmpty then c.t else c.t.modHead fun g => { g with wait := some .doze })) s)

def dozing (lane : Nat) (g : TGroup) : Bool := g.wait == some .doze && g.mask.getLsbD lane

/-- DOZE_EXPIRY: the group of the thread goes on. -/
def dozeOver (i : Issue) (lane : Nat) (s : State) : State :=
  if atWork s then modTeam i.core.val i.slot.val i.team.val (Team.releaseAll (dozing lane)) s else s

def execDozeExpiry (i : Issue) (lane : Fin 32) (s : State) : Answer := answer s (dozeOver i lane.val s)

/-- QUANTUM_EXPIRY: the current group has issued its 16 instructions or yielded, and the next ready group takes its turn (R84). -/
def quantumOver (i : Issue) (s : State) : State :=
  if atWork s then
    modTeam i.core.val i.slot.val i.team.val (fun t =>
      match turnReady t.ring with
      | [] => t
      | g :: r => if g.left = 0 && !g.held then { t with ring := turnNext (g :: r) } else t) s
  else s

def execQuantumExpiry (i : Issue) (s : State) : Answer := answer s (quantumOver i s)

/-! ## Trap and nop -/

def execTrap (i : Issue) (w : IWord) (s : State) : Answer :=
  answer s (issue i w (ctlForm true true) (fun c => if c.on.isEmpty then c.put c.t else finish (jobFault c.unit trapFault w.imm c.s)) s)

def execNop (i : Issue) (w : IWord) (s : State) : Answer := answer s (issueTeam i w bareForm (fun c => c.t) s)

end Sys2Proof.Machine
end

