-- ==== Sys2Proof/Machine/Sys.lean ====
section
/-! DEFINITION. The SYS family (R111 to R113, R253). -/

namespace Sys2Proof.Machine

/-- The ac count since the block started, as last known, with what has elapsed since (log 10); rounded in a confidential paddock (R112). -/
def clockOf (c : Ctx) : W64 :=
  let v := c.b.ac + Config.elapsedAc c.s.free
  if isConf c.s c.b.pad then BitVec.ofNat 64 (v.toNat / 65536 * 65536) else v

/-- Special register k as lane l reads it (R111). -/
def sregOf (c : Ctx) (k l : Nat) : Nat :=
  match k with
  | 0 => l
  | 1 => c.team
  | 2 => c.b.block.toNat
  | 3 => c.b.member
  | 4 => c.core
  | 5 => coreX c.core
  | 6 => coreY c.core
  | 7 => c.b.plotIdx
  | 8 => (match c.b.src with | .stage j _ => j | .launch _ => 0)
  | 9 => c.s.beat.count.toNat % 2 ^ 32
  | 10 => c.s.beat.count.toNat / 2 ^ 32
  | 11 => (clockOf c).toNat % 2 ^ 32
  | _ => (clockOf c).toNat / 2 ^ 32

def sregForm (w : IWord) : Form := { bareForm with dst := dest 1, imm := true, ok := decide (w.imm.toNat ≤ 12) }

/-- A read of CLOCK moves the known count of the block on. -/
def clockSeen (k : Nat) (c : Ctx) : Ctx :=
  if 11 ≤ k then
    { c with s := useFree (modBlock c.core c.slot (Block.counted (Config.elapsedAc c.s.free).toNat) c.s) }
  else c

def execSreg (i : Issue) (w : IWord) (s : State) : Answer :=
  answer s (issue i w (sregForm w) (fun c => (clockSeen w.imm.toNat c).put (laneResults 1 w (sregOf c w.imm.toNat) c)) s)

def flagsRdForm : Form := { bareForm with dst := dest 1 }

def execFlagsRd (i : Issue) (w : IWord) (s : State) : Answer :=
  answer s (issueTeam i w flagsRdForm (fun c => laneResults 1 w (fun _ => (flagsWord c.t.flags).toNat) c) s)

/-- An instruction that acts for its team acts if the guard of any thread of the group is true (R570). -/
def ifAny (c : Ctx) (f : Team → Team) : Team := if c.on.isEmpty then c.t else f c.t

def execFlagsClr (i : Issue) (w : IWord) (s : State) : Answer :=
  answer s (issueTeam i w (ctlForm true true) (fun c => ifAny c fun t => { t with flags := clearFlags t.flags w.imm }) s)

/-- A cache of the core dropped (R253). -/
def inval (const desc : Bool) (c : Ctx) : State := if c.on.isEmpty then c.put c.t else invalCaches c.core const desc (c.put c.t)

def execInvalConst (i : Issue) (w : IWord) (s : State) : Answer := answer s (issue i w bareForm (inval true false) s)

def execInvalDesc (i : Issue) (w : IWord) (s : State) : Answer := answer s (issue i w bareForm (inval false true) s)

end Sys2Proof.Machine
end

