-- ==== Sys2Proof/Machine/Mem.lean ====
section
/-! DEFINITION. The MEM family (R114 to R117): the instructions that put accesses in flight. -/

namespace Sys2Proof.Machine

/-! ## Fields -/

def memSpace (w : IWord) : Nat := ext w 97 96
def memBytes (w : IWord) : Nat := 2 ^ ext w 100 98
def memRegs (w : IWord) : Nat := max 1 (memBytes w / 4)
def memRo (w : IWord) : Bool := ext w 104 104 == 1
def memAop (w : IWord) : Nat := ext w 111 108

/-- The fields that R114 and R115 give every MEM instruction. -/
def memFieldsOk (kind : MemKind) (w : IWord) : Bool :=
  let atomic := match kind with | .atom => true | .red => true | _ => false
  decide (memSpace w ≤ 2) && decide (ext w 100 98 ≤ 4) &&
  (!memRo w || (kind == .ld && memSpace w == 2)) &&
  (ext w 103 103 == 0 || memSpace w != 0) &&
  (ext w 102 101 == 0 || memSpace w == 2) &&
  (if atomic then decide (memAop w ≤ 8) && (memBytes w == 4 || (memBytes w == 8 && memAop w != 8)) else memAop w == 0) &&
  (w.mod == 0 || (w.mod == 1 && atomic && (memAop w == 1 || memAop w == 2)))

/-- The operands of a MEM instruction. red with cas stores SRCC where the old value is SRCB, as atom does: the table gives red no SRCC (DEDUCED, log 130). -/
def memForm (kind : MemKind) (w : IWord) : Form :=
  let data := src (memRegs w)
  { bareForm with
    dst := match kind with | .ld => dest (memRegs w) | .atom => dest (memRegs w) | _ => noUse
    a := src (if memSpace w = 2 then 2 else 1)
    b := match kind with | .ld => noUse | _ => data
    c := match kind with | .ld => noUse | .st => noUse | _ => if memAop w = 7 then data else noUse
    mod := true, imm := true
    ext := extMask 111 108 ||| extMask 104 96
    ok := memFieldsOk kind w }

/-- SRCA plus IMM as a signed byte offset, also where another operand of the instruction names IMM (R114; DESIGN CHOICE, log 126). -/
def memAddr (w : IWord) (c : Ctx) (l : Nat) : Nat :=
  if memSpace w = 2 then ofSigned 64 (read64 c.t l w.srcA w.imm + w.imm.toInt)
  else ofSigned 32 (read32 c.t l w.srcA w.imm + w.imm.toInt)

/-- The access rule that a lane breaks (R93, R116, R121). -/
def laneFault (w : IWord) (c : Ctx) (l : Nat) : Option Nat :=
  if memSpace w = 0 && localBad c.b false (memAddr w c l) (memBytes w) then some localRange
  else if memAddr w c l % memBytes w != 0 then some misaligned
  else none

/-- The access that an instruction puts in flight. -/
def newAccess (kind : MemKind) (w : IWord) (c : Ctx) : Access :=
  { id := c.s.nextAcc, core := c.core, slot := c.slot, team := c.team, pc := c.g.pc, kind := kind, space := Fin.ofNat 3 (memSpace w),
    bytes := memBytes w
    lanes := c.on.map fun l =>
      { lane := l, addr := memAddr w c l, data := readData c.t (memBytes w) l w.srcB w.imm, cmp := readData c.t (memBytes w) l w.srcC w.imm, got := 0 }
    dst := w.dst, aop := BitVec.ofNat 4 (memAop w), signed := w.mod == 1, ro := memRo w, last := ext w 103 103 == 1,
    hint := BitVec.ofNat 2 (ext w 102 101), pad := c.b.pad, tag := c.b.tag, epoch := (getSpace c.s c.b.tag).epoch, compact := compactPad c.s c.b.pad,
    performed := false, adding := false, block := c.b.block, stage := blockStageByte c.b, nokeep := false, level := none }

/-- Every lane names the block's own local store. -/
def ownLocal (a : Access) (c : Ctx) : Bool :=
  a.space == 0 && a.lanes.all fun l => let p := localPlace c.b c.core c.slot l.addr; p.1 == c.core && p.2.1 == c.slot

/-- An access to the block's own local store is performed at issue, where nothing earlier holds it; every other goes on its way. -/
def startAccess (kind : MemKind) (w : IWord) (c : Ctx) : State :=
  let a := newAccess kind w c
  let s := c.put c.t
  let s := { s with accs := s.accs ++ [a], nextAcc := s.nextAcc + 1 }
  if ownLocal a c then accRsp true a.id (localReq a.id s) else s

/-- A MEM instruction (R114 to R117). -/
def memAccess (kind : MemKind) (i : Issue) (w : IWord) (s : State) : State :=
  issue i w (memForm kind w) (fun c =>
    match c.on.findSome? (laneFault w c) with
    | some code => c.fault code
    | none => if c.on.isEmpty then c.put c.t else startAccess kind w c) s

def execLd (i : Issue) (w : IWord) (s : State) : Answer := answer s (memAccess .ld i w s)

def execSt (i : Issue) (w : IWord) (s : State) : Answer := answer s (memAccess .st i w s)

def execAtom (i : Issue) (w : IWord) (s : State) : Answer := answer s (memAccess .atom i w s)

def execMemRed (i : Issue) (w : IWord) (s : State) : Answer := answer s (memAccess .red i w s)

/-! ## Accesses on their way (R94, R156) -/

def execLocalReq (acc : LocalArrival) (s : State) : Answer :=
  answer s (if atWork s then match acc.bad with | some r => lostPkt true acc.id r s | none => finish (localArrives acc.id acc.found s) else s)

def execLocalRsp (acc : Arrival) (s : State) : Answer :=
  answer s (if atWork s then match acc.bad with | some r => lostPkt false acc.id r s | none => accRsp true acc.id s else s)

def execLoftReq (acc : Arrival) (ecc : EccResult) (s : State) : Answer :=
  answer s (if atWork s then match acc.bad with | some r => lostPkt true acc.id r s | none => finish (loftReq acc.id ecc s) else s)

def execLoftRsp (acc : Arrival) (s : State) : Answer :=
  answer s (if atWork s then match acc.bad with | some r => lostPkt false acc.id r s | none => accRsp false acc.id s else s)

def execAddToLine (req : Nat) (s : State) : Answer := answer s (if atWork s then finish (addToLine req s) else s)

def execSpillDone (req : Nat) (s : State) : Answer := answer s (if atWork s then finish (spillDone req s) else s)

def execReloadDone (req : Nat) (s : State) : Answer := answer s (if atWork s then finish (reloadDone req s) else s)

end Sys2Proof.Machine
end

