-- ==== Sys2Proof/Machine/Cpy.lean ====
section
/-! DEFINITION. The CPY family (R118, R119). -/

namespace Sys2Proof.Machine

def cpyDst (w : IWord) : Nat := ext w 97 96
def cpySrc (w : IWord) : Nat := ext w 99 98

/-- Registers of an address in a space. -/
def addrRegs (space : Nat) : Nat := if space = 2 then 2 else 1

def cpyForm (rows : Bool) (w : IWord) : Form :=
  { bareForm with dst := uniSrc (addrRegs (cpyDst w)), a := uniSrc (addrRegs (cpySrc w)), b := uniSrc 1, c := uniSrc 1, imm := rows,
                  ext := extMask 99 96, ok := decide (cpyDst w ≤ 2 ∧ cpySrc w ≤ 2) }

/-- An address operand of a space. -/
def cpyAddr (w : IWord) (c : Ctx) (space : Nat) (f : BitVec 9) : Nat :=
  if space = 2 then read64 c.t 0 f w.imm else read32 c.t 0 f w.imm

/-- The copy that an instruction starts. -/
def newCopy (rows : Bool) (w : IWord) (c : Ctx) : CopyRun :=
  let len := read32 c.t 0 w.srcB w.imm
  { id := c.s.nextAcc, core := c.core, slot := c.slot, team := c.team, pad := c.b.pad, tag := c.b.tag, epoch := (getSpace c.s c.b.tag).epoch,
    dspace := Fin.ofNat 3 (cpyDst w), daddr := cpyAddr w c (cpyDst w) w.dst, sspace := Fin.ofNat 3 (cpySrc w), saddr := cpyAddr w c (cpySrc w) w.srcA,
    rowLen := if rows then 16 * (len / 65536) else len, rows := if rows then len % 65536 else 1,
    sstride := if rows then 16 * (w.imm.toNat % 65536) else 0, dstride := if rows then 16 * (w.imm.toNat / 65536) else 0,
    handle := BitVec.ofNat 32 (read32 c.t 0 w.srcC w.imm), done := 0, read := 0, buf := [], psn := [], refused := false,
    compact := compactPad c.s c.b.pad, block := c.b.block, pc := c.g.pc, stage := blockStageByte c.b }

/-- The span of a side of a copy, from its first byte to its last. -/
def CopyRun.extent (x : CopyRun) (stride : Nat) : Nat := (x.rows - 1) * stride + x.rowLen

/-- The rule that a copy breaks, in the order of R119. -/
def copyFault (b : Block) (x : CopyRun) : Option Nat :=
  if x.rowLen = 0 || x.rows = 0 || x.rowLen % 16 != 0 || decide (480 * 1024 < x.total) then some copyRange
  else if (x.sspace == 0 && localBad b false x.saddr (x.extent x.sstride)) || (x.dspace == 0 && localBad b false x.daddr (x.extent x.dstride)) then
    some localRange
  else if x.saddr % 16 != 0 || x.daddr % 16 != 0 then some misaligned
  else none

/-- A copy starts. -/
def startCopy (rows : Bool) (w : IWord) (c : Ctx) : State :=
  let x := newCopy rows w c
  match copyFault c.b x with
  | some code => c.fault code
  | none => let s := c.put c.t; { s with copies := s.copies ++ [x], nextAcc := s.nextAcc + 1 }

def copyOp (rows : Bool) (i : Issue) (w : IWord) (s : State) : State :=
  issue i w (cpyForm rows w) (fun c => if c.on.isEmpty then c.put c.t else startCopy rows w c) s

def execCp (i : Issue) (w : IWord) (s : State) : Answer := answer s (copyOp false i w s)

def execCpRows (i : Issue) (w : IWord) (s : State) : Answer := answer s (copyOp true i w s)

def execCopyPartLanded (copy bytes : Nat) (ecc : EccResult) (s : State) : Answer := answer s (if atWork s then finish (copyLands copy bytes ecc s) else s)

end Sys2Proof.Machine
end

