-- ==== Sys2Proof/Machine/Harness.lean ====
section
/-! DEFINITION. Harness regions and accumulator tiles (R124 to R128), and the matrix unit's queue (R139, R140). -/

namespace Sys2Proof.Machine

/-- A HARNESS instruction must be unguarded (R124). -/
def unguarded (w : IWord) : Bool := w.gpred == 7 && !w.gneg

def openForm (w : IWord) : Form := ctlForm true (unguarded w && decide (1 ≤ w.imm.toNat ∧ w.imm.toNat ≤ 8))

def closeForm (w : IWord) : Form := ctlForm false (unguarded w)

/-- Accumulator tiles that no team holds, lowest first. -/
def freeTileList (c : Core) : List (Fin 8) := (List.finRange 8).filter fun k => !c.tileUsed.getLsbD k.val

/-- Elements of a tile, by rows. -/
def tileOf (c : Core) (k : Nat) (i j : Nat) : W32 := tget c.tiles (4096 * k + 64 * i + j) 0

/-- A tile given its elements; +0 is not listed. -/
def setTile (k : Nat) (f : Nat → Nat → W32) (c : Core) : Core :=
  let new := (List.range 4096).filterMap fun e => let v := f (e / 64) (e % 64); if v = 0 then none else some (4096 * k + e, v)
  { c with tiles := c.tiles.filter (fun e => e.1 < 4096 * k) ++ new ++ c.tiles.filter fun e => 4096 * (k + 1) ≤ e.1 }

/-- A team is granted n tiles, every element +0, and its region begins (R126). -/
def grantTiles (core slot team n : Nat) (s : State) : State :=
  let c := getCore s core
  let ks := (freeTileList c).take n
  let c := ks.foldl (fun c k => setTile k.val (fun _ _ => 0) { c with tileUsed := c.tileUsed ||| BitVec.ofNat 8 (2 ^ k.val) }) c
  modTeam core slot team (fun t => { t with harness := some ks }) (setCore core c s)

/-- Requests are granted in the order of issue, all of the tiles asked for or none (R126). -/
def requestTiles (n : Nat) (c : Ctx) : State :=
  let k := getCore c.s c.core
  if k.harnessQ.isEmpty && decide (n ≤ (freeTileList k).length) then grantTiles c.core c.slot c.team n (c.put c.t)
  else
    setCore c.core { getCore (c.put c.t) c.core with harnessQ := k.harnessQ ++ [(c.slot, c.team, n)] }
      (c.put (c.t.modHead fun g => { g with wait := some (.harness n) }))

def execHarnessOpen (i : Issue) (w : IWord) (s : State) : Answer :=
  answer s (issue i w (openForm w) (fun c =>
    if c.t.harness.isSome then c.fault illegalInstr
    else if c.g.mask != c.t.live then c.fault harnessSplit
    else requestTiles w.imm.toNat c) s)

/-- The region of a team closes once its matrix instructions have completed (R127). -/
def execHarnessClose (i : Issue) (w : IWord) (s : State) : Answer :=
  answer s (issue i w (closeForm w) (fun c =>
    if c.t.harness.isNone then c.fault illegalInstr
    else if mmaBusy c.s c.core c.slot c.team then c.s
    else freeTiles c.core c.slot c.team (c.put c.t)) s)

def waitsTiles (g : TGroup) : Bool := match g.wait with | some (.harness _) => true | _ => false

/-- HARNESS_GRANT: the oldest request is granted where its tiles are free. -/
def harnessGrant (core : Nat) (s : State) : State :=
  let c := getCore s core
  match c.harnessQ with
  | [] => s
  | (slot, team, n) :: r =>
    if n ≤ (freeTileList c).length then
      modTeam core slot team (Team.releaseAll waitsTiles) (grantTiles core slot team n (setCore core { c with harnessQ := r } s))
    else s

def execHarnessGrant (core : Fin 1024) (s : State) : Answer := answer s (if atWork s then harnessGrant core.val s else s)

/-- MMA_COMPLETE: the oldest matrix instruction of the core completes (R139); its flags land in the team that issued it (R138), the region of a team that has
ended may close (R127), and joins may be over (R140). -/
def mmaDone (core : Nat) (s : State) : State :=
  let c := getCore s core
  match c.mmaQ with
  | [] => s
  | e :: r =>
    let s := setCore core { c with mmaQ := r, tileUsed := e.frees.foldl (fun m k => m &&& ~~~(BitVec.ofNat 8 (2 ^ k.val))) c.tileUsed } s
    if e.own then joinsOver core e.slot e.team (modTeam core e.slot e.team (addFlags e.flags) s) else s

def execMmaComplete (core : Fin 1024) (s : State) : Answer := answer s (if atWork s then mmaDone core.val s else s)

end Sys2Proof.Machine
end

