-- ==== Sys2Proof/Machine/Mma.lean ====
section
/-! DEFINITION. The MMA family (R130 to R138). -/

namespace Sys2Proof.Machine

/-! ## Matrix formats (R134) -/

/-- A matrix format: the element, K, and scales per row. -/
structure MatFmt where
  elem : Fmt
  k    : Nat
  spr  : Nat
  deriving DecidableEq, Repr

def matFmt (code : Nat) : Option MatFmt :=
  match code with
  | 0x02 => some ⟨bf16, 16, 0⟩
  | 0x03 => some ⟨fp16, 16, 0⟩
  | 0x04 => some ⟨e4m3, 32, 0⟩
  | 0x05 => some ⟨e5m2, 32, 0⟩
  | 0x06 => some ⟨e3m2, 64, 0⟩
  | 0x07 => some ⟨e2m3, 64, 0⟩
  | 0x08 => some ⟨e2m1, 64, 0⟩
  | 0x0C => some ⟨e4m3, 32, 1⟩
  | 0x0D => some ⟨e5m2, 32, 1⟩
  | 0x0E => some ⟨e3m2, 64, 2⟩
  | 0x0F => some ⟨e2m3, 64, 2⟩
  | 0x10 => some ⟨e2m1, 64, 2⟩
  | 0x11 => some ⟨e2m1, 64, 4⟩
  | _ => none

def matOf (w : IWord) : MatFmt := (matFmt w.fmt.toNat).getD ⟨bf16, 16, 0⟩

def MatFmt.rowBytes (m : MatFmt) : Nat := m.k * m.elem.width / 8

/-! ## Fields -/

def mmaAcc (w : IWord) : Nat := ext w 98 96
def mmaZero (w : IWord) : Bool := ext w 100 100 == 1
def mmaCols (w : IWord) : Nat := if ext w 101 101 = 1 then 32 else 64
def mmaAsc (w : IWord) : Nat := ext w 107 102
def mmaBsc (w : IWord) : Nat := ext w 113 108
def mmaTsc (w : IWord) : Nat := ext w 119 114

def tileAt (w : IWord) (c : Ctx) : Nat := match (c.t.harness.getD [])[mmaAcc w]? with | some k => k.val | none => 0

/-- The team is in a region and ACC lies within its grant (R130, R132). -/
def accOk (w : IWord) (c : Ctx) : Bool := match c.t.harness with | some ks => decide (mmaAcc w < ks.length) | none => false

/-- Uniform registers that the EXT fields of an mma name. -/
def mmaExtra (w : IWord) : List Nat :=
  if (matOf w).spr = 0 then [] else [256 + mmaAsc w, 256 + mmaBsc w] ++ if w.fmt = 0x11 then [256 + mmaTsc w, 257 + mmaTsc w] else []

def mmaForm (w : IWord) (c : Ctx) : Form :=
  { bareForm with
    a := uniOnly, b := uniOnly, fmt := true, imm := true, extra := mmaExtra w
    ext := extMask 98 96 ||| extMask 101 100 ||| (if (matOf w).spr = 0 then 0 else extMask 113 102) ||| (if w.fmt = 0x11 then extMask 119 114 else 0)
    ok := (matFmt w.fmt.toNat).isSome && accOk w c && decide (mmaTsc w ≤ 62) }

def accZeroForm (w : IWord) (c : Ctx) : Form := { bareForm with ext := extMask 98 96, ok := accOk w c }

def accLdForm (w : IWord) (c : Ctx) : Form :=
  { bareForm with a := uniOnly, fmt := true, imm := true, ext := extMask 98 96, ok := accOk w c && w.fmt == 1 && decide (w.imm.toNat < 65536) }

def accStForm (w : IWord) (c : Ctx) : Form :=
  { bareForm with a := uniOnly, fmt := true, mod := true, imm := true, ext := extMask 98 96 ||| extMask 100 100,
                  ok := accOk w c && decide (1 ≤ w.fmt.toNat ∧ w.fmt.toNat ≤ 5 ∧ w.imm.toNat < 65536) && (w.mod == 0 || w.mod == 4) }

def accRdForm (w : IWord) (c : Ctx) : Form :=
  { bareForm with dst := genOnly 2 false, fmt := true, imm := true, ext := extMask 98 96, ok := accOk w c && w.fmt == 1 && decide (w.imm.toNat < 64) }

/-! ## Ranges of the local store (R135, R136) -/

/-- Rows of the local store: base, stride, rows, bytes of a row. -/
structure Rows where
  base   : Nat
  stride : Nat
  rows   : Nat
  bytes  : Nat
  deriving DecidableEq, Repr

def Rows.bad (b : Block) (r : Rows) : Bool := localBad b true r.base ((r.rows - 1) * r.stride + r.bytes)

def Rows.spans (core slot : Nat) (r : Rows) : List Span := (List.range r.rows).map fun i => (16 * core + slot + 3, r.base % 524288 + i * r.stride, r.bytes)

def rowsA (w : IWord) (c : Ctx) : Rows := ⟨read32 c.t 0 w.srcA w.imm, 16 * (w.imm.toNat % 65536), 64, (matOf w).rowBytes⟩
def rowsB (w : IWord) (c : Ctx) : Rows := ⟨read32 c.t 0 w.srcB w.imm, 16 * (w.imm.toNat / 65536), mmaCols w, (matOf w).rowBytes⟩
def scalesA (w : IWord) (c : Ctx) : Rows := ⟨(readU c.t (mmaAsc w)).toNat, 0, 1, 64 * (matOf w).spr⟩
def scalesB (w : IWord) (c : Ctx) : Rows := ⟨(readU c.t (mmaBsc w)).toNat, 0, 1, mmaCols w * (matOf w).spr⟩

/-- All ranges that an mma reads. -/
def mmaRows (w : IWord) (c : Ctx) : List Rows :=
  [rowsA w c, rowsB w c] ++ if (matOf w).spr = 0 then [] else [scalesA w c, scalesB w c]

/-- The range that acc.ld reads or acc.st writes. -/
def accRows (w : IWord) (c : Ctx) : Rows := ⟨read32 c.t 0 w.srcA w.imm, 16 * w.imm.toNat, 64, 8 * (cvtDst w).width⟩

/-- The rule that some ranges break: LOCAL_RANGE before MISALIGNED (R121, R136). -/
def rowsFault (b : Block) (rs : List Rows) : Option Nat :=
  if rs.any (Rows.bad b) then some localRange else if rs.any fun r => r.base % 16 != 0 then some misaligned else none

/-! ## The product (R137, R138) -/

/-- Element k of a row, with its scales; nv: a NaN that the scales make. A NaN scale makes its elements NaN; a signalling element or tile scale among them
stays one (R45, R47, R50). -/
def matElem (m : MatFmt) (code : Nat) (t : FVal) (row scales k : Nat) : FVal × Bool :=
  let e := m.elem.decode (row / 2 ^ (m.elem.width * k) % 2 ^ m.elem.width)
  if m.spr = 0 then (e, false)
  else
    let sc := scales / 2 ^ (8 * (k / (m.k / m.spr))) % 256
    if code = 0x11 then
      let x := FVal.mul (ue4m4 sc) e
      if sc = 0xFF then (.nan t.signalling, false) else FVal.mul t x.1
    else if sc = 0xFF then (.nan e.signalling, false)
    else (match e with
      | .fin _ _ _ => (FVal.mul (e8m0 sc) e).1
      | x => x, false)

/-- An operand's rows as chunks of 16 elements. -/
def matRows (m : MatFmt) (code : Nat) (t : FVal) (s : State) (c : Ctx) (r sc : Rows) : List (List (List (FVal × Bool))) :=
  (List.range r.rows).map fun i =>
    let row := leNat (readLocal s c.core c.slot (r.base % 524288 + i * r.stride) r.bytes)
    let scales := leNat (readLocal s c.core c.slot (sc.base % 524288 + i * m.spr) m.spr)
    (List.range (m.k / 16)).map fun q => (List.range 16).map fun e => matElem m code t row scales (16 * q + e)

/-- Infinite products of both signs. -/
def bothInf (ps : List (FVal × Bool)) : Bool := (ps.any fun p => p.1 == .inf false) && ps.any fun p => p.1 == .inf true

/-- The exact sum of the products of a chunk, with NV. -/
def chunkSum (a b : List (FVal × Bool)) : FVal × Bool :=
  let ps := (a.zip b).map fun x => let p := FVal.mul x.1.1 x.2.1; (p.1, p.2 || x.1.2 || x.2.2)
  let nv := ps.any Prod.snd || bothInf ps
  if ps.any fun p => p.1.isNan then (.nan false, nv)
  else
    let r := match ps with | [] => (FVal.fin false 0 0, false) | p :: q => q.foldl (fun (v : FVal × Bool) (x : FVal × Bool) => let y := FVal.add false v.1 x.1; (y.1, v.2 || y.2)) (p.1, false)
    (r.1, nv || r.2)

/-- One element of the tile updated by its chunks in ascending order. -/
def dotChunks (acc : Nat) (a b : List (List (FVal × Bool))) : Nat × Flags :=
  (a.zip b).foldl (fun (r : Nat × Flags) x =>
    let sum := chunkSum x.1 x.2
    let v := withNv (fp32.deliver .rn false sum.1) sum.2
    let y := fAdd fp32 .rn r.1 v.1
    (y.1, r.2.or (v.2.or y.2))) (acc, noFlags)

/-- A tile changed from a list of its elements by rows. -/
def putTile (core k : Nat) (vals : List Nat) (s : State) : State :=
  let a := vals.toArray
  setCore core (setTile k (fun i j => BitVec.ofNat 32 (a[64 * i + j]?.getD 0)) (getCore s core)) s

/-- tile ACC += A × Bᵀ. With N32 set the columns from 32 on keep their values, under ZERO too: the spec states nothing of them (DESIGN CHOICE, log 124). -/
def mmaAct (w : IWord) (c : Ctx) : State × Flags :=
  let m := matOf w
  let code := w.fmt.toNat
  let k := tileAt w c
  let core := getCore c.s c.core
  let a := matRows m code (fp32.decode (readU c.t (mmaTsc w)).toNat) c.s c (rowsA w c) (scalesA w c)
  let b := matRows m code (fp32.decode (readU c.t (mmaTsc w + 1)).toNat) c.s c (rowsB w c) (scalesB w c)
  let res := a.zipIdx.flatMap fun r => (List.range 64).map fun j => match b[j]? with
    | some col => dotChunks (if mmaZero w then 0x80000000 else (tileOf core k r.2 j).toNat) r.1 col
    | none => ((tileOf core k r.2 j).toNat, noFlags)
  (putTile c.core k (res.map Prod.fst) (c.put c.t), allFlags (res.map Prod.snd))

/-! ## The other operations (R131, R133) -/

def accZeroAct (w : IWord) (c : Ctx) : State × Flags := (putTile c.core (tileAt w c) [] (c.put c.t), noFlags)

def accLdAct (w : IWord) (c : Ctx) : State × Flags :=
  let r := accRows w c
  let vals := (List.range 64).flatMap fun i =>
    let row := readLocal c.s c.core c.slot (r.base % 524288 + i * r.stride) 256
    (List.range 64).map fun j => leNat ((row.drop (4 * j)).take 4)
  (putTile c.core (tileAt w c) vals (c.put c.t), noFlags)

/-- acc.st writes its rows in ascending order, so where a stride is below the row length the bytes of the later row stay (DESIGN CHOICE, log 124). -/
def accStAct (w : IWord) (c : Ctx) : State × Flags :=
  let f := cvtDst w
  let r := accRows w c
  let core := getCore c.s c.core
  (List.range 64).foldl (fun (x : State × Flags) i =>
    let es := (List.range 64).map fun j => f.convert (c.round w (64 * i + j)) (mmaZero w) (fp32.decode (tileOf core (tileAt w c) i j).toNat)
    (modLocal c.core c.slot (fun m => mwrites m (r.base % 524288 + i * r.stride) (es.flatMap fun e => leBytes (f.width / 8) e.1)) x.1,
     x.2.or (allFlags (es.map Prod.snd)))) (c.put (countSr (usesSr w) c.t), noFlags)

/-- Elements 2l and 2l + 1 of row IMM of the tile, low word first. -/
def accRdLane (w : IWord) (c : Ctx) (l : Nat) : Nat :=
  let k := getCore c.s c.core
  (tileOf k (tileAt w c) w.imm.toNat (2 * l)).toNat + 2 ^ 32 * (tileOf k (tileAt w c) w.imm.toNat (2 * l + 1)).toNat

def accRdAct (w : IWord) (c : Ctx) : State × Flags :=
  (c.put (writeLanes 2 w.dst ((List.range 32).map fun l => (l, accRdLane w c l)) c.t), noFlags)

/-! ## Issue (R130, R139, R140) -/

/-- Occupancy and completion of the matrix unit in ac (R141). -/
def mmaTime (w : IWord) : Nat × Nat := if mmaCols w = 32 then (8, 36) else (16, 44)

def accStTime (w : IWord) : Nat × Nat := match (cvtDst w).width with | 32 => (64, 84) | 16 => (32, 52) | _ => (16, 36)

/-- Entries after the oldest that the unit can have started while the oldest has not completed: each occupies the unit alone (R139, R141). -/
def couldStart (left : Nat) : List MmaEntry → Nat
  | [] => 0
  | e :: r => if left = 0 then 0 else 1 + couldStart (left - e.busy) r

/-- Issued instructions that the unit has not started. It starts the oldest as soon as it is free (R139). -/
def notStarted : List MmaEntry → Nat
  | [] => 0
  | _ :: r => (r.filter fun e => !e.started).length

/-- How many of a full queue's instructions the unit has started by now: time decides, within what R141 leaves (log 123). -/
def startSome (free : Nat) : List MmaEntry → List MmaEntry
  | [] => []
  | e :: r =>
    let n := Config.freeChoice free % (couldStart (e.done - e.busy) r + 1)
    e :: (r.zipIdx.map fun x => if x.2 < n then { x.1 with started := true } else x.1)

/-- The unit holds up to 8 issued instructions that have not started (R139). -/
def queueTurn (core : Nat) (s : State) : State :=
  let k := getCore s core
  if notStarted k.mmaQ < 8 then s else useFree (setCore core { k with mmaQ := startSome s.free k.mmaQ } s)

/-- The instruction takes its place in the matrix unit's queue with the flags that land when it completes. -/
def enqueue (time : Nat × Nat) (store : Bool) (c : Ctx) (x : State × Flags) : State :=
  let k := getCore x.1 c.core
  setCore c.core { k with mmaQ := k.mmaQ ++ [{ slot := c.slot, team := c.team, flags := x.2, store := store, busy := time.1, done := time.2,
                                               started := false, own := true, frees := [] }] } x.1

/-- The guard of the lowest-numbered live thread (R130). -/
def teamGuard (w : IWord) (t : Team) : Bool := match bitList 32 t.live.toNat with | l :: _ => guardTrue w t l | [] => false

/-- An MMA instruction on ranges rs of the local store. While the queue is full, its team is not ready (R139). sr: it uses SR, and counts even where its guard is false (log 36). -/
def mmaIssue (i : Issue) (w : IWord) (form : Ctx → Form) (time : Nat × Nat) (sr : Bool) (rs : Ctx → List Rows) (act : Ctx → State × Flags) (s : State) : State :=
  let s := queueTurn i.core.val s
  if 8 ≤ notStarted (getCore s i.core.val).mmaQ then s
  else issueWith i w form false (fun c =>
    if c.t.live != 0xFFFFFFFF then c.fault harnessPartial
    else if !teamGuard w c.t then c.put (countSr sr c.t)
    else match rowsFault c.b (rs c) with
      | some code => c.fault code
      | none =>
        let xs := (rs c).flatMap (Rows.spans c.core c.slot)
        let compact := compactPad c.s c.b.pad
        if blockedBy c.s c.core c.slot c.team c.s.nextAcc compact xs then c.s
        else
          let r := readCopies (copiesBefore c.s c.core c.slot c.team c.s.nextAcc compact xs) c.s
          if r.2 then r.1 else enqueue time (!(rs c).isEmpty) c (act { c with s := r.1 })) s

def execMmaTile (i : Issue) (w : IWord) (s : State) : Answer := answer s (mmaIssue i w (mmaForm w) (mmaTime w) false (mmaRows w) (mmaAct w) s)

def execAccZero (i : Issue) (w : IWord) (s : State) : Answer := answer s (mmaIssue i w (accZeroForm w) (4, 6) false (fun _ => []) (accZeroAct w) s)

def execAccLd (i : Issue) (w : IWord) (s : State) : Answer := answer s (mmaIssue i w (accLdForm w) (64, 80) false (fun c => [accRows w c]) (accLdAct w) s)

def execAccSt (i : Issue) (w : IWord) (s : State) : Answer := answer s (mmaIssue i w (accStForm w) (accStTime w) (usesSr w) (fun c => [accRows w c]) (accStAct w) s)

def execAccRd (i : Issue) (w : IWord) (s : State) : Answer := answer s (mmaIssue i w (accRdForm w) (2, 8) false (fun _ => []) (accRdAct w) s)

end Sys2Proof.Machine
end

