-- ==== Sys2Proof/Machine/PostInstr.lean ====
section
/-! DEFINITION. The POST family (R225 to R229) and the arrival of post updates. -/

namespace Sys2Proof.Machine

def postAddForm : Form := { bareForm with a := uniSrc 1, b := uniSrc 1 }

def postSetForm : Form := { bareForm with a := uniSrc 1, b := uniSrc 1, c := uniSrc 1 }

def postWaitForm (w : IWord) : Form := { postSetForm with mod := true, ok := decide (w.mod.toNat ≤ 1) }

def postRdForm (w : IWord) : Form := { bareForm with dst := dest 1, a := uniSrc 1, imm := true, ok := decide (w.imm.toNat ≤ 1) }

def postHandle (w : IWord) (c : Ctx) : W32 := BitVec.ofNat 32 (read32 c.t 0 w.srcA w.imm)

/-- A target or value of 48 bits from SRCB and SRCC. -/
def postTarget (w : IWord) (c : Ctx) : W48 := BitVec.ofNat 48 (read32 c.t 0 w.srcB w.imm + 2 ^ 32 * (read32 c.t 0 w.srcC w.imm % 65536))

/-- Accesses of the team not yet performed, and copies whose source is not yet read (R227). -/
def accsBefore (c : Ctx) : List Nat :=
  (c.s.accs.filter fun a => a.core == c.core && a.slot == c.slot && a.team == c.team && !a.performed).map (·.id) ++
  (c.s.copies.filter fun x => x.core == c.core && x.slot == c.slot && x.team == c.team && decide (x.read < x.total)).map (·.id)

/-- Groups of the team that wait in a path.send (R227). -/
def sendsBefore (c : Ctx) : List (Nat × Nat × Nat × Nat) :=
  (c.t.ring.filter fun g => match g.wait with | some (.send ..) => true | _ => false).map fun g => (c.core, c.slot, c.team, g.born)

/-- An update sent by the team: it follows the team's earlier updates of its post (R212). -/
def sendTeamUpd (isSet : Bool) (w : IWord) (value : Nat) (c : Ctx) : State :=
  if c.on.isEmpty then c.put c.t
  else
    let old := c.s.posts.nextId
    let s := updHandle c.b.pad (postHandle w c) isSet value (accsBefore c) (sendsBefore c) (c.put c.t)
    { s with posts := { s.posts with
        upds := mapWhere (fun u => decide (old ≤ u.id)) (fun u => { u with team := some (c.core, c.slot, c.team), since := c.s.nextAcc }) s.posts.upds } }

def execPostAdd (i : Issue) (w : IWord) (s : State) : Answer :=
  answer s (issue i w postAddForm (fun c => sendTeamUpd false w (read32 c.t 0 w.srcB w.imm) c) s)

def execPostSetInstr (i : Issue) (w : IWord) (s : State) : Answer :=
  answer s (issue i w postSetForm (fun c => sendTeamUpd true w (postTarget w c).toNat c) s)

/-- Something of the team comes before a read of a post or a wait on it: in a compact paddock every earlier access and update, else the updates of this post
(R212, R213; DEDUCED, log 37). -/
def ownUpd (w : IWord) (c : Ctx) : Bool :=
  let own (u : PostUpd) : Bool := u.team == some (c.core, c.slot, c.team)
  if compactPad c.s c.b.pad then c.s.posts.upds.any own || !(accsBefore c).isEmpty
  else match handlePost c.s c.b.pad (postHandle w c) with
    | some d => c.s.posts.upds.any fun u => own u && u.post == d
    | none => false

/-- A wait of the group registers at the home of its post (R224). -/
def startWait (w : IWord) (c : Ctx) : State :=
  if c.on.isEmpty then c.put c.t
  else if ownUpd w c then c.s
  else
    let s := c.put (c.t.modHead fun g => { g with wait := some (.post (w.mod == 1) c.s.nextAcc) })
    registerWait (.group c.core c.slot c.team c.g.born) (coreDie c.core) (handlePost c.s c.b.pad (postHandle w c)) (postTarget w c) s

def execPostWaitInstr (i : Issue) (w : IWord) (s : State) : Answer := answer s (issue i w (postWaitForm w) (startWait w) s)

/-- The half of the count that IMM selects; zero where the handle names no post (R222). -/
def postRead (w : IWord) (c : Ctx) : Nat :=
  match handlePost c.s c.b.pad (postHandle w c) with
  | some d => if w.imm = 0 then (postValue c.s d).toNat % 2 ^ 32 else (postValue c.s d).toNat / 2 ^ 32
  | none => 0

def execPostRd (i : Issue) (w : IWord) (s : State) : Answer :=
  answer s (issue i w (postRdForm w) (fun c => if ownUpd w c then c.s else c.put (laneResults 1 w (fun _ => postRead w c) c)) s)

def execPostUpdate (upd : Nat) (s : State) : Answer := answer s (if atWork s then finish (postUpdate upd s) else s)

def execWaitPoll (wait : Nat) (s : State) : Answer := answer s (if atWork s then finish (waitPoll wait s) else s)

end Sys2Proof.Machine
end

