-- ==== Sys2Proof/Machine/PathInstr.lean ====
section
/-! DEFINITION. The PATH family (R181 to R183) and the packets of paths. -/

namespace Sys2Proof.Machine

def sendForm : Form := { bareForm with dst := uniSrc 1, a := uniSrc 1, b := uniSrc 1, c := uniSrc 1, ext := extMask 103 96 }

def invForm (w : IWord) : Form := { bareForm with dst := dest 1, imm := true, ext := extMask 103 96, ok := decide (w.imm.toNat ≤ 1) }

/-- The rule that the range of a path.send breaks (R183). -/
def sendFault (b : Block) (addr len : Nat) : Option Nat :=
  if localBad b true addr len then some localRange else if addr % 16 != 0 then some misaligned else none

/-- A path.send that is not dropped waits for its credit and sends (R182). -/
def beginSend (w : IWord) (c : Ctx) : State :=
  let addr := read32 c.t 0 w.srcA w.imm
  let len := read32 c.t 0 w.srcB w.imm
  let cons := read32 c.t 0 w.dst w.imm
  match sendFault c.b addr len with
  | some code => c.fault code
  | none => match sendPath c.s c.b (ext w 103 96) len cons with
    | none => bumpPad c.b.pad 9 1 (c.put c.t)
    | some _ =>
      if blockedBy c.s c.core c.slot c.team c.s.nextAcc (compactPad c.s c.b.pad) (spansAt c.s c.b.pad c.b.tag 0 c.core c.slot 0 addr len) then c.s
      else
        let t := c.t.modHead fun g =>
          { g with wait := some (.send (ext w 103 96) addr len (BitVec.ofNat 32 (read32 c.t 0 w.srcC w.imm)) cons c.s.nextAcc 0) }
        match t.ring with
        | g :: _ => trySend c.core c.slot c.team g (c.put t)
        | [] => c.put t

def execPathSend (i : Issue) (w : IWord) (s : State) : Answer :=
  answer s (issue i w sendForm (fun c => if c.on.isEmpty then c.put c.t else beginSend w c) s)

/-- The invocation number of the running invocation; zero in a block of a launch (R181). -/
def invocationOf (b : Block) : Nat := match b.src with | .stage _ k => k | .launch _ => 0

def execPathInv (i : Issue) (w : IWord) (s : State) : Answer :=
  answer s (issueTeam i w (invForm w) (fun c =>
    laneResults 1 w (fun _ => if w.imm = 0 then invocationOf c.b % 2 ^ 32 else invocationOf c.b / 2 ^ 32 % 2 ^ 32) c) s)

def execPathData (pkt : Arrival) (s : State) : Answer := answer s (if atWork s then finish (pathData pkt.id pkt.bad s) else s)

def execCredit (pkt : Arrival) (s : State) : Answer := answer s (if atWork s then finish (credit pkt.id pkt.bad s) else s)

def execRed (pkt : Arrival) (s : State) : Answer := answer s (if atWork s then finish (red pkt.id pkt.bad s) else s)

end Sys2Proof.Machine
end

