-- ==== Sys2Proof/Machine/Anch.lean ====
section
/-! DEFINITION. The ANCH family (R143 to R146). -/

namespace Sys2Proof.Machine

/-- FMT must be FP32 or BF16 (R144). -/
def anchFmtOk (w : IWord) : Bool := w.fmt == 1 || w.fmt == 2

def anchForm (w : IWord) (d a b c : OpUse) : Form := { bareForm with dst := d, a := a, b := b, c := c, fmt := true, ok := anchFmtOk w }

/-- The value of a 32-bit operand under FMT (R144). -/
def anchVal (w : IWord) (v : Nat) : FVal := if w.fmt = 2 then bf16.decode (v % 65536) else fp32.decode v

/-- Bits 9:0 of SRCC as the anchor. -/
def anchorOf (w : IWord) (c : Ctx) (l : Nat) : BitVec 10 := BitVec.ofNat 10 (read32 c.t l w.srcC w.imm)

/-- The long form and status of a group of registers (R143). -/
def readGroup (t : Team) (l : Nat) (f : BitVec 9) : LongForm :=
  let st := readAt t l f 6
  { bits := BitVec.ofNat 192 ((List.range 6).foldl (fun v i => v + 2 ^ (32 * i) * readAt t l f i) 0), ovf := bitOf st 0, oppinf := bitOf st 1 }

/-- A group as the seven words of its registers. -/
def groupWords (x : LongForm) : Nat := x.bits.toNat + 2 ^ 192 * (b2n x.ovf + 2 * b2n x.oppinf)

/-- A group of each lane changed by f. -/
def mapGroups (w : IWord) (f : Nat → LongForm → LongForm) (c : Ctx) : Team :=
  writeLanes 7 w.dst (c.on.map fun l => (l, groupWords (f l (readGroup c.t l w.dst)))) c.t

def execAnchZero (i : Issue) (w : IWord) (s : State) : Answer :=
  answer s (issueTeam i w (anchForm w group7 noUse noUse noUse) (mapGroups w fun _ _ => LongForm.zero) s)

/-- A value enters and combines (R66, R67). -/
def addLane (w : IWord) (c : Ctx) (l : Nat) (x : LongForm) : LongForm :=
  longCombine x (longEnter (anchorOf w c l) (anchVal w (read32 c.t l w.srcB w.imm)))

/-- The addend is a signalling NaN (R56). -/
def anchSnan (w : IWord) (c : Ctx) (f : BitVec 9) : Flags := { noFlags with nv := c.on.any fun l => (anchVal w (read32 c.t l f w.imm)).signalling }

def execAnchAdd (i : Issue) (w : IWord) (s : State) : Answer :=
  answer s (issueTeam i w (anchForm w group7 noUse (src 1) (src 1)) (fun c => addFlags (anchSnan w c w.srcB) (mapGroups w (addLane w c) c)) s)

/-- The groups of a merge are one group or share no register (R145). -/
def mergeOk (w : IWord) : Bool := w.srcA == w.dst || decide (w.srcA.toNat + 7 ≤ w.dst.toNat) || decide (w.dst.toNat + 7 ≤ w.srcA.toNat)

def mergeForm (w : IWord) : Form := { anchForm w group7 group7 noUse noUse with ok := anchFmtOk w && mergeOk w }

def execAnchMerge (i : Issue) (w : IWord) (s : State) : Answer :=
  answer s (issueTeam i w (mergeForm w) (fun c => mapGroups w (fun l x => longCombine x (readGroup c.t l w.srcA)) c) s)

def closeGroupForm (w : IWord) : Form := { anchForm w (dest 1) group7 noUse (src 1) with pen := 1 }

def closeFmt (w : IWord) : Fmt := if w.fmt = 2 then bf16 else fp32

/-- A group closed (R69, R74, R146): OPPINF in the status sets NV. -/
def closeLane (w : IWord) (c : Ctx) (l : Nat) : Nat × Flags :=
  let x := readGroup c.t l w.srcA
  let r := longClose (closeFmt w) (anchorOf w c l) x
  (r.1, { r.2 with nv := x.oppinf })

/-- ANCHOR_OVF of each lane's group to PDST, where PEN is set. -/
def closePreds (w : IWord) (c : Ctx) (t : Team) : Team :=
  if w.pen then c.on.foldl (fun t l => writeP l w.pdst.toNat (readGroup c.t l w.srcA).ovf t) t else t

def execAnchClose (i : Issue) (w : IWord) (s : State) : Answer :=
  answer s (issueTeam i w (closeGroupForm w) (fun c => closePreds w c (flaggedResults 1 w (closeLane w c) c)) s)

/-- The combination of the groups of all threads whose guard is true, in ascending lane order, which shows only past the bound of R68 (DESIGN CHOICE,
log 127). -/
def teamSum (w : IWord) (c : Ctx) : LongForm :=
  match c.on.map fun l => readGroup c.t l w.dst with
  | [] => LongForm.zero
  | x :: xs => xs.foldl longCombine x

def execAnchTred (i : Issue) (w : IWord) (s : State) : Answer :=
  answer s (issueTeam i w (anchForm w group7 noUse noUse noUse) (fun c => mapGroups w (fun _ _ => teamSum w c) c) s)

def probeLane (w : IWord) (c : Ctx) (l : Nat) : Nat :=
  ofSigned 32 (max (toSigned 16 (read32 c.t l w.srcB w.imm % 65536)) (probeExp (anchVal w (read32 c.t l w.srcA w.imm))))

/-- IMM may stand for the registers that R144 names as sources (DEDUCED, log 38). -/
def probeForm (w : IWord) : Form := anchForm w (dest 1) (src 1) (src 1) noUse

def execAnchProbe (i : Issue) (w : IWord) (s : State) : Answer :=
  answer s (issueTeam i w (probeForm w) (fun c => addFlags (anchSnan w c w.srcA) (laneResults 1 w (probeLane w c) c)) s)

/-- The maximum over the threads whose guard is true. -/
def groupMax (w : IWord) (c : Ctx) : Nat :=
  ofSigned 32 ((c.on.map fun l => toSigned 16 (read32 c.t l w.srcA w.imm % 65536)).foldl max (-32768))

def pmaxForm (w : IWord) : Form := anchForm w (dest 1) (src 1) noUse noUse

def execAnchPmax (i : Issue) (w : IWord) (s : State) : Answer := answer s (issueTeam i w (pmaxForm w) (fun c => laneResults 1 w (fun _ => groupMax w c) c) s)

end Sys2Proof.Machine
end

