-- ==== Sys2Proof/Machine/Words.lean ====
section
/-! DEFINITION. Instruction words that are refused (R95 to R99): the form of every operation by family and OP. -/

namespace Sys2Proof.Machine

/-- The fields of a 128-bit instruction word (R95). -/
def wordFields (x : BitVec 128) : IWord :=
  let f (lo n : Nat) : Nat := x.toNat / 2 ^ lo % 2 ^ n
  { rsv := BitVec.ofNat 7 (f 125 3 * 16 + f 120 4), yield := f 124 1 == 1, ext := BitVec.ofNat 24 (f 96 24), imm := BitVec.ofNat 32 (f 64 32),
    pen := f 63 1 == 1, pdst := BitVec.ofNat 3 (f 60 3), mod := BitVec.ofNat 3 (f 57 3), fmt := BitVec.ofNat 5 (f 52 5), srcC := BitVec.ofNat 9 (f 43 9),
    srcB := BitVec.ofNat 9 (f 34 9), srcA := BitVec.ofNat 9 (f 25 9), dst := BitVec.ofNat 9 (f 16 9), gneg := f 7 1 == 1, gpred := BitVec.ofNat 3 (f 4 3) }

/-- FAM and OP. -/
def wordFam (x : BitVec 128) : Nat := x.toNat % 16
def wordOp (x : BitVec 128) : Nat := x.toNat / 256 % 256

/-- INT by OP (R101). -/
def intForms (op : Nat) (w : IWord) : Option Form :=
  if op ≤ 0x01 then some (addSubForm w)
  else if op ≤ 0x03 then some (intForm2 w)
  else if op = 0x04 then some { intForm2 w with c := src (intN w) }
  else if op ≤ 0x06 then some (intForm2 w)
  else if op = 0x07 then some (intForm1 w)
  else if op ≤ 0x0A then some (intForm2 w)
  else if op = 0x0B then some (intForm1 w)
  else if op ≤ 0x0E then some (intFormShift w)
  else if op ≤ 0x10 then some (intFormCount w)
  else if op = 0x11 then some (intForm1 w)
  else if op = 0x12 then some (intForm w (dest (intN w)) (src (intN w)) (src 1) (src 1))
  else if op = 0x13 then some (intForm w (dest (intN w)) (src (intN w)) (src (intN w)) (src 1))
  else if op = 0x14 then some { intForm2 w with ext := extMask 102 100 }
  else if op = 0x15 then some (cmpForm w)
  else if op = 0x16 then some (intForm1 w)
  else if op = 0x17 then some (intFormShift w)
  else if op = 0x18 then some { intForm w (dest 1) noUse noUse noUse with ext := extMask 102 100 }
  else none

/-- FLT by OP (R102). -/
def fltForms (op : Nat) (w : IWord) : Option Form :=
  if op ≤ 0x02 then some (fltForm2 w)
  else if op = 0x03 then some (fltForm w (src (fltN w)) (src (fltN w)) (src (fltN w)))
  else if op = 0x04 then some (fltForm2 w)
  else if op = 0x05 then some (fltForm1 w)
  else if op ≤ 0x07 then some (fltForm2 w)
  else if op ≤ 0x09 then some (fltForm1 w)
  else if op = 0x0A then some (fltCmpForm w)
  else if op ≤ 0x0D then some (estForm w)
  else none

/-- CVT by OP (R104). -/
def cvtForms (op : Nat) (w : IWord) : Option Form :=
  match op with
  | 0 => some (cvtForm w)
  | 1 => some (f2iForm w)
  | 2 => some (i2fForm w)
  | 3 => some (blkForm w)
  | _ => none

/-- CTL by OP (R108). -/
def ctlForms (op : Nat) (w : IWord) : Option Form :=
  match op with
  | 0x00 => some (ctlForm true true)
  | 0x01 => some jmpiForm
  | 0x02 => some (ctlForm true true)
  | 0x03 => some bareForm
  | 0x04 => some bareForm
  | 0x05 => some joinForm
  | 0x06 => some (barrierForm w)
  | 0x07 => some (dozeForm w)
  | 0x08 => some (ctlForm true true)
  | 0x09 => some bareForm
  | _ => none

/-- MEM, CPY, SYS, HARNESS and MMA by OP. -/
def memForms (op : Nat) (w : IWord) : Option Form :=
  match op with
  | 0 => some (memForm .ld w)
  | 1 => some (memForm .st w)
  | 2 => some (memForm .atom w)
  | 3 => some (memForm .red w)
  | _ => none

def cpyForms (op : Nat) (w : IWord) : Option Form := if op ≤ 1 then some (cpyForm (op == 1) w) else none

def sysForms (op : Nat) (w : IWord) : Option Form :=
  match op with
  | 0 => some (sregForm w)
  | 1 => some flagsRdForm
  | 2 => some (ctlForm true true)
  | 3 => some bareForm
  | 4 => some bareForm
  | _ => none

def harnessForms (op : Nat) (w : IWord) (c : Ctx) : Option Form :=
  match op with
  | 0 => some { openForm w with ok := (openForm w).ok && c.t.harness.isNone }
  | 1 => some { closeForm w with ok := (closeForm w).ok && c.t.harness.isSome }
  | _ => none

def mmaForms (op : Nat) (w : IWord) (c : Ctx) : Option Form :=
  match op with
  | 0 => some (mmaForm w c)
  | 1 => some (accZeroForm w c)
  | 2 => some (accLdForm w c)
  | 3 => some (accStForm w c)
  | 4 => some (accRdForm w c)
  | _ => none

/-- ANCH, POST and PATH by OP. -/
def anchForms (op : Nat) (w : IWord) : Option Form :=
  match op with
  | 0 => some (anchForm w group7 noUse noUse noUse)
  | 1 => some (anchForm w group7 noUse (src 1) (src 1))
  | 2 => some (mergeForm w)
  | 3 => some (closeGroupForm w)
  | 4 => some (anchForm w group7 noUse noUse noUse)
  | 5 => some (probeForm w)
  | 6 => some (pmaxForm w)
  | _ => none

def postForms (op : Nat) (w : IWord) : Option Form :=
  match op with
  | 0 => some postAddForm
  | 1 => some (postWaitForm w)
  | 2 => some (postRdForm w)
  | 3 => some postSetForm
  | _ => none

def pathForms (op : Nat) (w : IWord) : Option Form :=
  match op with
  | 0 => some sendForm
  | 1 => some (invForm w)
  | _ => none

/-- The form of an instruction word; none where family or operation is refused (R98). -/
def formOf (fam op : Nat) (w : IWord) (c : Ctx) : Option Form :=
  match fam with
  | 0x0 => intForms op w
  | 0x1 => fltForms op w
  | 0x2 => cvtForms op w
  | 0x3 => ctlForms op w
  | 0x4 => memForms op w
  | 0x5 => cpyForms op w
  | 0x6 => sysForms op w
  | 0x7 => harnessForms op w c
  | 0x8 => mmaForms op w c
  | 0x9 => anchForms op w
  | 0xA => postForms op w
  | 0xB => pathForms op w
  | _ => none

/-- A word that breaks R99 when a group of this block issues it. -/
def refusedWord (x : BitVec 128) (c : Ctx) : Bool :=
  match formOf (wordFam x) (wordOp x) (wordFields x) c with
  | some f => !legal (shapeRegs c.b.shape) f (wordFields x)
  | none => true

/-- ILLEGAL_INSTR: a refused word raises the job fault; a word that is accepted raises nothing. -/
def illegalWord (i : Issue) (x : BitVec 128) (s : State) : State :=
  match ready s i (wordFields x) with
  | none => s
  | some c => if refusedWord x c then c.fault illegalInstr else s

def execIllegalInstr (i : Issue) (word : BitVec 128) (s : State) : Answer := answer s (illegalWord i word s)

end Sys2Proof.Machine
end

