-- ==== Sys2Proof/Machine/Cmds.lean ====
section
/-! DEFINITION. The Tyest commands: each is the packet of its ring taken at a visit (R349 to R391). -/

namespace Sys2Proof.Machine

/-- DEV.INFO (R370). -/
def execDevInfo (h : CmdHdr) (s : State) : Answer := answer s (command h .devInfo s)

/-- DEV.WARM (R371). -/
def execDevWarm (h : CmdHdr) (restore : Bool) (s : State) : Answer := answer s (command h (.devWarm restore) s)

/-- DEV.HALFLOSS (R372, R484). -/
def execDevHalfloss (h : CmdHdr) (half : Byte) (s : State) : Answer := answer s (command h (.devHalfloss half) s)

/-- EXT.MAP (R278 to R280, R373). -/
def execExtMap (h : CmdHdr) (d : ExtDesc) (s : State) : Answer := answer s (command h (.extMap d) s)

/-- EXT.UNMAP (R291, R375). -/
def execExtUnmap (h : CmdHdr) (tag : BitVec 10) (index : BitVec 12) (s : State) : Answer := answer s (command h (.extUnmap tag index) s)

/-- EXT.ADVISE with a hint (R298, R374). -/
def execExtAdviseHint (h : CmdHdr) (tag : BitVec 10) (index : BitVec 12) (hint : BitVec 2) (s : State) : Answer := answer s (command h (.adviseHint tag index hint) s)

/-- EXT.ADVISE to the host buffer (R299, R374). -/
def execExtAdviseHost (h : CmdHdr) (r : ExtRange) (s : State) : Answer := answer s (command h (.adviseHost r) s)

/-- EXT.ADVISE of the aperture (R297, R374). -/
def execExtAdviseAperture (h : CmdHdr) (tag : BitVec 10) (s : State) : Answer := answer s (command h (.adviseAperture tag) s)

/-- EXT.ADVISE of a migration mode (R298, R374). -/
def execExtAdviseMigmode (h : CmdHdr) (tag : BitVec 10) (mode : BitVec 2) (hotcount : W16) (s : State) : Answer := answer s (command h (.adviseMigmode tag mode hotcount) s)

/-- EXT.PREFETCH (R299). -/
def execExtPrefetch (h : CmdHdr) (r : ExtRange) (s : State) : Answer := answer s (command h (.prefetch r) s)

/-- COPY (R376, R377). -/
def execCopy (h : CmdHdr) (p : CopyParams) (s : State) : Answer := answer s (command h (.copy p) s)

/-- EXT.SHARE (R285, R378). -/
def execExtShare (h : CmdHdr) (p : ShareParams) (s : State) : Answer := answer s (command h (.extShare p) s)

/-- PAD.CREATE (R392 to R396). -/
def execPadCreate (h : CmdHdr) (p : PadParams) (s : State) : Answer := answer s (command h (.padCreate p) s)

/-- PAD.DESTROY (R415 to R417). -/
def execPadDestroy (h : CmdHdr) (mode : Byte) (s : State) : Answer := answer s (command h (.padDestroy mode) s)

/-- PAD.RESET (R415). -/
def execPadReset (h : CmdHdr) (mode : Byte) (s : State) : Answer := answer s (command h (.padReset mode) s)

/-- PAD.QUERY (R379). -/
def execPadQuery (h : CmdHdr) (s : State) : Answer := answer s (command h .padQuery s)

/-- JOB.LAUNCH (R381). -/
def execJobLaunch (h : CmdHdr) (p : LaunchParams) (s : State) : Answer := answer s (command h (.jobLaunch p) s)

/-- PIPE.LOAD (R186, R187). -/
def execPipeLoad (h : CmdHdr) (table : W64) (tag : BitVec 10) (s : State) : Answer := answer s (command h (.pipeLoad table tag) s)

/-- PIPE.START (R382). -/
def execPipeStart (h : CmdHdr) (p : StartParams) (s : State) : Answer := answer s (command h (.pipeStart p) s)

/-- PIPE.MOVE (R190). -/
def execPipeMove (h : CmdHdr) (p : MoveParams) (s : State) : Answer := answer s (command h (.pipeMove p) s)

/-- BATCH.SUBMIT (R413). -/
def execBatchSubmit (h : CmdHdr) (p : BatchParams) (s : State) : Answer := answer s (command h (.batchSubmit p) s)

/-- SEQ.JOIN (R411). -/
def execSeqJoin (h : CmdHdr) (p : JoinParams) (s : State) : Answer := answer s (command h (.seqJoin p) s)

/-- SEQ.LEAVE (R411). -/
def execSeqLeave (h : CmdHdr) (seqid : W32) (s : State) : Answer := answer s (command h (.seqLeave seqid) s)

/-- POST.SET (R383). -/
def execPostSet (h : CmdHdr) (post : BitVec 15) (value : W48) (s : State) : Answer := answer s (command h (.postSet post value) s)

/-- POST.WAIT (R384). -/
def execPostWait (h : CmdHdr) (post : BitVec 15) (target : W48) (timeout : W32) (s : State) : Answer := answer s (command h (.postWait post target timeout) s)

/-- SYNC.GROUP with join (R342). -/
def execSyncGroupJoin (h : CmdHdr) (g : GroupRec) (s : State) : Answer := answer s (command h (.groupJoin g) s)

/-- SYNC.GROUP with leave (R342). -/
def execSyncGroupLeave (h : CmdHdr) (g : GroupRec) (s : State) : Answer := answer s (command h (.groupLeave g) s)

/-- WIN.OPEN (R294). -/
def execWinOpen (h : CmdHdr) (w : WinEntry) (s : State) : Answer := answer s (command h (.winOpen w) s)

/-- WIN.CLOSE (R296). -/
def execWinClose (h : CmdHdr) (win : Byte) (s : State) : Answer := answer s (command h (.winClose win) s)

/-- LINK.STATE query (R386). -/
def execLinkStateQuery (h : CmdHdr) (port : BitVec 6) (s : State) : Answer := answer s (command h (.linkQuery port) s)

/-- LINK.STATE enable (R425). -/
def execLinkStateEnable (h : CmdHdr) (port : BitVec 6) (s : State) : Answer := answer s (command h (.linkEnable port) s)

/-- LINK.STATE disable (R425). -/
def execLinkStateDisable (h : CmdHdr) (port : BitVec 6) (s : State) : Answer := answer s (command h (.linkDisable port) s)

/-- LINK.STATE set (R425). -/
def execLinkStateSet (h : CmdHdr) (port : BitVec 6) (mode : BitVec 2) (width : BitVec 3) (s : State) : Answer := answer s (command h (.linkSet port mode width) s)

/-- CHECK.SETUP with arm (R452). -/
def execCheckSetupArm (h : CmdHdr) (west : Bool) (unit : BitVec 4) (poly : BitVec 2) (s : State) : Answer := answer s (command h (.checkArm west unit poly) s)

/-- CHECK.SETUP with read (R452). -/
def execCheckSetupRead (h : CmdHdr) (west : Bool) (unit : BitVec 4) (s : State) : Answer := answer s (command h (.checkRead west unit) s)

/-- SNAP.MARK (R475). -/
def execSnapMark (h : CmdHdr) (full : Bool) (s : State) : Answer := answer s (command h (.snapMark full) s)

/-- SNAP.RESTORE (R479). -/
def execSnapRestore (h : CmdHdr) (gen : Byte) (s : State) : Answer := answer s (command h (.snapRestore gen) s)

/-- FAULT.ACK (R462). -/
def execFaultAck (h : CmdHdr) (seq : W64) (s : State) : Answer := answer s (command h (.faultAck seq) s)

/-- SNAP.STREAM (R481, R482). -/
def execSnapStream (h : CmdHdr) (p : StreamParams) (s : State) : Answer := answer s (command h (.snapStream p) s)

/-- PWR.CAP (R346, R500). -/
def execPwrCap (h : CmdHdr) (watts : W16) (s : State) : Answer := answer s (command h (.pwrCap watts) s)

/-- PWR.STATE (R494). -/
def execPwrState (h : CmdHdr) (state : BitVec 3) (keep : BitVec 9) (s : State) : Answer := answer s (command h (.pwrState state keep) s)

/-- PWR.FIXED (R506). -/
def execPwrFixed (h : CmdHdr) (enable : Bool) (mhz : W16) (s : State) : Answer := answer s (command h (.pwrFixed enable mhz) s)

/-- ATT.REPORT (R391). -/
def execAttReport (h : CmdHdr) (dest : W64) (size : W32) (nonce : BitVec 256) (s : State) : Answer := answer s (command h (.attReport dest size nonce) s)

/-- CONF.ENTER (R526). -/
def execConfEnter (h : CmdHdr) (p : ConfParams) (s : State) : Answer := answer s (command h (.confEnter p) s)

/-- CNT.SNAP (R340). -/
def execCntSnap (h : CmdHdr) (beat : W64) (slot : BitVec 2) (s : State) : Answer := answer s (command h (.cntSnap beat slot) s)

/-- BEAT.SET (R332). -/
def execBeatSet (h : CmdHdr) (p : BeatSetParams) (s : State) : Answer := answer s (command h (.beatSet p) s)

/-- TEST.SELF (R553). -/
def execTestSelf (h : CmdHdr) (quad : BitVec 5) (bad : List (Fin 36)) (s : State) : Answer := answer s (command h (.testSelf quad bad) s)

/-- TEST.COLD (R535, R548). -/
def execTestCold (h : CmdHdr) (keep : Bool) (c : ColdInputs) (s : State) : Answer := answer s (command h (.testCold keep c) s)

end Sys2Proof.Machine
end

