-- ==== Sys2Proof/Machine/Pins.lean ====
section
/-! DEFINITION. Power, panel, host ports, link ports and wires: the events on pins and links (R29 to R40, R421 to R431, R457, R484, R538, R550). -/

namespace Sys2Proof.Machine

/-- What happens while the device runs. -/
def ifAwake (f : State → State) (s : State) : State := if awake s then finish (f s) else s

/-- What happens while it is at work (R493). -/
def ifWork (f : State → State) (s : State) : State := if atWork s then finish (f s) else s

/-- An event on a pin that made the state t of s: what follows it follows while the module has input power. -/
def poweredFinish (s t : State) : State := if s.pins.p48vOk then finish t else t

/-! ## Power -/

def execPwrEnRise (c : ColdInputs) (s : State) : Answer := pinAnswer (pwrEnHigh s).pins s (poweredFinish s (powerEnable c s))

def execInputRange (s : State) : Answer := pinAnswer { s.pins with p48vOk := false } s (inputLost s)

def execP48vInRange (s : State) : Answer := pinAnswer { s.pins with p48vOk := true } s (inputBack s)

/-- A scan (R550, R551). An instrument reached while debug is open can read or change device state in ways that the spec does not give. -/
def execTestChainAccess (op : ChainOp) (s : State) : Answer :=
  match op with
  | .instrument _ => if s.sec.dbgopen && s.pins.p48vOk then .refused .instrument else answer s (chainOp op s)
  | _ => answer s (chainOp op s)

/-! ## Panel -/

def execButtonPress (s : State) : Answer := pinAnswer s.pins s (poweredFinish s (press s))

def execButtonHold2s (s : State) : Answer := answer s (hold2 s)

def execButtonHold10s (s : State) : Answer := answer s (hold10 s)

def execButtonRelease (s : State) : Answer := pinAnswer s.pins s (release s)

/-- The Lodge works with input power alone (R30). -/
def ifLodge (f : State → State) (s : State) : State := if s.pins.p48vOk then f s else s

def execIdentifyTimeout (s : State) : Answer := answer s (ifLodge identOff s)

def execCageLedStream (s : State) : Answer := answer s (ledStream s)

def execSvcDrainClear (s : State) : Answer := answer s (ifLodge drainClear s)

def execSvcIdentWrite (on : Bool) (s : State) : Answer := answer s (ifLodge (identWrite on) s)

/-! ## Link ports -/

def execCagePresEdge (port : Fin 36) (low : Bool) (s : State) : Answer := pinAnswer (cageEdge port low s).pins s (cageEdge port low s)

def execConfirmedInsertion (port : Fin 36) (s : State) : Answer := answer s (finish (insertion port s))

def execConfirmedRemoval (port : Fin 36) (s : State) : Answer := answer s (finish (removal port s))

def execReceivedSignalLost (port : Fin 36) (s : State) : Answer := answer s (finish (signalLost port s))

def execTrainingComplete (port : Fin 36) (width : Fin 5) (peer : BitVec 48) (peerPort : BitVec 6) (s : State) : Answer :=
  answer s (finish (trained port width.val peer peerPort s))

def execTrainingFailed (port : Fin 36) (s : State) : Answer := answer s (finish (trainFailed port s))

def execTrainingRetry (port : Fin 36) (s : State) : Answer := answer s (trainRetry port s)

def execRecovered (port : Fin 36) (width : Fin 5) (peer : BitVec 48) (peerPort : BitVec 6) (expected : Nat) (s : State) : Answer :=
  answer s (finish (recovered port width.val peer peerPort expected s))

def execRecoveryWindowExpiry (port : Fin 36) (s : State) : Answer := answer s (ifAwake (recoveryOver port) s)

def execFlitReceived (port : Fin 36) (f : Flit) (s : State) : Answer := answer s (flit port f s)

def execNakReceived (port : Fin 36) (seq : Nat) (s : State) : Answer := answer s (finish (nak port seq s))

def execAckTimeout (port : Fin 36) (s : State) : Answer := answer s (finish (ackTimedOut port s))

def execLaneFailed (die : Fin 2) (lane : Fin 72) (s : State) : Answer := answer s (laneFails die lane s)

def execLoopbackTestDone (die : Fin 2) (lane : Fin 72) (dieSide : Bool) (s : State) : Answer := answer s (ifAwake (loopback die lane dieSide) s)

def execWireFailed (u : WireUnit) (toHigh : Bool) (wire : Fin 1056) (s : State) : Answer := answer s (finish (wireFails u toHigh wire.val s))

def execHalfLoss (west : Bool) (s : State) : Answer := answer s (finish (loseHalf west s))

/-! ## Host ports -/

def execPerstAssert (port : Fin 2) (s : State) : Answer := pinAnswer (perstLow port true s).pins s (poweredFinish s (perstAssertOp port s))

def execPerstDeassert (port : Fin 2) (long : Bool) (s : State) : Answer := pinAnswer (perstLow port false s).pins s (poweredFinish s (perstDeassertOp port long s))

def execHostLinkDown (port : Fin 2) (s : State) : Answer := answer s (finish (hostDown port s))

def execHostLinkUp (port : Fin 2) (s : State) : Answer := answer s (finish (hostUp port s))

def execD3hotEntry (f : Func) (s : State) : Answer := answer s (finish (d3Entry f s))

def execD0Return (f : Func) (s : State) : Answer := answer s (finish (d0ReturnOp f s))

def execSriovEnable (port : Fin 2) (numVf : Fin 32) (s : State) : Answer := answer s (finish (sriov port numVf.val s))

def execApertureRequest (f : Func) (addr : W64) (req : ApReq) (s : State) : Answer := answer s (finish (aperture f addr.toNat req s))

end Sys2Proof.Machine
end

