-- ==== Sys2Proof/Machine/Events.lean ====
section
/-! DEFINITION. The events of the engines: sweeps, boundaries, moves, marks, stages, drays, links, stacks, power (R291 to R510). -/

namespace Sys2Proof.Machine

/-! ## The Yardmaster and the beat -/

/-- SWEEP: a sweep that the period begins; under mode 1 sweeps begin at boundaries alone (R354). -/
def execSweep (s : State) : Answer := answer s (if s.ym.mode == 1 then s else ifAwake sweepAll s)

def execBeatBoundary (m : BoundaryInputs) (s : State) : Answer := answer s (boundary m s)

def execReferenceLost (cause : LossCause) (s : State) : Answer := answer s (finish (referenceLost cause s))

def execBeatRefFrame (frame : RefFrame) (s : State) : Answer := answer s (finish (refFrame frame s))

def execPtpSyncMessage (msg : SyncMsg) (s : State) : Answer := answer s (finish (ptpSync msg s))

def execReferenceRegained (s : State) : Answer := answer s (finish (regain s))

def execLateReceived (port : Fin 36) (pkt : LatePkt) (s : State) : Answer := answer s (finish (lateIn port pkt s))

def execBeatSetT0Reached (s : State) : Answer := answer s (finish (beatSetReached s))

def execPostWaitTimeout (seq : Nat) (s : State) : Answer := answer s (ifAwake (waitTimeout seq) s)

/-! ## Spaces, windows and paddocks -/

def execWindowDrained (win : Fin 256) (s : State) : Answer := answer s (ifAwake (windowDrainedOp win.val) s)

def execTagDrainDone (tag : Fin 1024) (s : State) : Answer := answer s (ifAwake (tagDrainOp tag.val) s)

def execPadDrainStepDone (pad : Fin 32) (s : State) : Answer := answer s (ifAwake (drainStepDone pad.val) s)

def execDemandFetchDone (tag : Fin 1024) (index : Fin 4096) (granule : Nat) (s : State) : Answer :=
  answer s (ifWork (moveDone tag.val index.val granule true) s)

def execMigrationMoveDone (tag : Fin 1024) (index : Fin 4096) (granule : Nat) (s : State) : Answer :=
  answer s (ifWork (moveDone tag.val index.val granule false) s)

def execMigrationSamplePeriod (s : State) : Answer := answer s (ifWork samplePeriod s)

def execSwapOutDone (pad : Fin 32) (slot : Fin 1024) (s : State) : Answer := answer s (ifWork (swapOutDone pad.val slot.val) s)

def execSwapInDone (pad : Fin 32) (slot : Fin 1024) (s : State) : Answer := answer s (ifWork (swapInDone pad.val slot.val) s)

/-! ## Marks, images and restarts -/

def execMarkCopyDone (s : State) : Answer := answer s (ifAwake markDone s)

def execHeldWriteRelease (half : Fin 2) (granule : Fin 393216) (s : State) : Answer :=
  answer s (ifAwake (heldRelease (decide (half.val = 1)) granule.val) s)

def execStreamImageDone (gen : Fin 2) (s : State) : Answer := answer s (ifAwake (imageDone gen) s)

def execComputeRestartEnd (us : W32) (s : State) : Answer := answer s (ifAwake (restartEnd us) s)

def execAutoResume (pad : Fin 32) (s : State) : Answer := answer s (ifAwake (autoResume pad.val) s)

/-! ## Stages and blocks -/

/-- INVOCATION_END: the invocation is over, and the steps that every stage has ended commit (R174, R408). -/
def execInvocationEnd (pad : Fin 32) (stage : Fin 64) (s : State) : Answer :=
  answer s (ifWork (fun s => commitSteps pad.val (invocationEnd pad.val stage.val s)) s)

def execMoveReplaysLanded (pad : Fin 32) (stage : Fin 64) (s : State) : Answer := answer s (ifWork (moveReplaysLanded pad.val stage.val) s)

def execBlockStart (pad : Fin 32) (core : Fin 1024) (s : State) : Answer := answer s (ifWork (blockStart pad.val core.val) s)

def execWatchdog (core : Fin 1024) (slot : Fin 16) (s : State) : Answer := answer s (ifWork (watchdog core.val slot.val) s)

/-! ## Drays and send queues -/

def execDrayDescriptorRead (die : Fin 10) (dray : Fin 16) (queue : Fin 3) (s : State) : Answer :=
  answer s (ifWork (drayRead die.val dray.val queue.val) s)

def execDrayPartLanded (xfer bytes : Nat) (ecc : EccResult) (s : State) : Answer := answer s (ifWork (drayPart xfer bytes ecc) s)

def execSendDescriptorRead (queue : Fin 64) (s : State) : Answer := answer s (finish (sendRead queue s))

def execLinkAck (op bytes : Nat) (s : State) : Answer := answer s (ifAwake (linkAckOp op bytes) s)

def execStoreCommandComplete (op : Nat) (ok : Bool) (data : List Byte) (s : State) : Answer := answer s (ifAwake (storeDone op ok data) s)

def execTargetConnectDone (target : Fin 16) (ok : Bool) (s : State) : Answer := answer s (ifAwake (targetDone target ok) s)

/-! ## Packets of links -/

def execRemoteWrite (port : Fin 36) (t : TxHdr) (data : List Byte) (s : State) : Answer := answer s (finish (remoteWriteOp port t data s))

def execReadReq (port : Fin 36) (t : TxHdr) (s : State) : Answer := answer s (finish (readReqOp port t s))

def execReadRsp (port : Fin 36) (t : TxHdr) (data : List Byte) (s : State) : Answer := answer s (finish (readRspOp port t data s))

def execAddF32 (port : Fin 36) (t : TxHdr) (vals : List W32) (s : State) : Answer := answer s (finish (remoteAddOp port t none vals [] s))

/-- The anchor of a remote anchored add stands in its header (R435). -/
def execAddAnchVal (port : Fin 36) (t : TxHdr) (vals : List W32) (s : State) : Answer :=
  answer s (finish (remoteAddOp port t (some t.anchor) vals [] s))

def execAddAnchLong (port : Fin 36) (t : TxHdr) (longs : List (BitVec 192)) (s : State) : Answer :=
  answer s (finish (remoteAddOp port t (some t.anchor) [] longs s))

def execLinkPostAdd (port : Fin 36) (t : TxHdr) (s : State) : Answer := answer s (finish (remotePostOp port t s))

def execBadTransactionPacket (port : Fin 36) (s : State) : Answer := answer s (badPacket port s)

def execEthernetFrame (port : Fin 36) (frame : EthFrame) (s : State) : Answer := answer s (ethernet port frame s)

def execEcnRateRecovery (target : Fin 16) (s : State) : Answer := answer s (ifAwake (ecnRecovery target) s)

/-! ## Stacks -/

def execScrubRead (stack : Fin 16) (pc bank : Fin 64) (row : Fin 24576) (sub : Fin 16) (found : EccResult) (s : State) : Answer :=
  answer s (finish (scrub stack pc.val bank.val row.val sub.val found s))

def execStandinInstallDone (stack : StandinCopy) (s : State) : Answer := answer s (ifAwake (installDone stack.stack stack.found) s)

def execRefetchDone (half : Fin 2) (granule : Fin 393216) (s : State) : Answer := answer s (ifAwake (refetched (decide (half.val = 1)) granule.val) s)

def execStackTempRead (stack : Fin 16) (temp : Option Byte) (s : State) : Answer := answer s (finish (stackTemp stack temp s))

def execBackgroundZeroingDone (half : Fin 2) (granule : Fin 1048576) (s : State) : Answer :=
  answer s (ifAwake (zeroingDone (decide (half.val = 1)) granule.val) s)

def execStackInterfaceFailure (stack : Fin 16) (pc : Option (Fin 64)) (s : State) : Answer := answer s (finish (interfaceFails stack pc s))

/-! ## Power -/

/-- What happens on a die in service. -/
def onDie (die : Fin 8) (f : State → State) (s : State) : State := if halfIn s (die.val / 4) then ifAwake f s else s

def execDieTempRead (die : Fin 8) (temp : Byte) (held1ms : Bool) (s : State) : Answer := answer s (onDie die (dieTemp die temp held1ms) s)

def execMarginCheck (die : Fin 8) (quad : Fin 4) (slack : Slack) (s : State) : Answer := answer s (onDie die (marginCheck die quad slack) s)

def execVoltageDroop (die : Fin 8) (region : Fin 5) (s : State) : Answer := answer s (onDie die (droop die region.val) s)

def execDroopRecovered (die : Fin 8) (region : Fin 5) (fc : W32) (s : State) : Answer := answer s (onDie die (droopOver die region.val fc) s)

def execTrotEntry (s : State) : Answer := answer s (finish (trotEntry s))

def execGallopExitDone (s : State) : Answer := answer s (finish (exitDone s))

/-- The retirement of a slice ends (R273). -/
def execSliceRetirementDone (s : State) : Answer := answer s (ifAwake finishRetire s)

end Sys2Proof.Machine
end

