-- ==== Sys2Proof/Machine/Regs.lean ====
section
/-! DEFINITION. SPDM messages, the sideband, and accesses to registers (R7 to R13, R347, R514 to R524, R555 to R568). -/

namespace Sys2Proof.Machine

/-! ## SPDM (R514, R522 to R524) -/

def execGetVersion (e : Endpoint) (s : State) : Answer := answer s (getVersionOp e s)

def execGetCapabilities (e : Endpoint) (s : State) : Answer := answer s (getCapabilitiesOp e s)

def execNegotiateAlgorithms (e : Endpoint) (agreed : Bool) (s : State) : Answer := answer s (negotiateOp e agreed s)

def execGetDigests (e : Endpoint) (s : State) : Answer := answer s (getDigestsOp e s)

def execGetCertificate (e : Endpoint) (slot : Byte) (offset length : W16) (s : State) : Answer := answer s (getCertificateOp e slot offset length s)

def execChallenge (e : Endpoint) (slot : Byte) (nonce : BitVec 256) (s : State) : Answer := answer s (challengeOp e slot nonce s)

def execGetMeasurements (e : Endpoint) (index : Byte) (signed : Bool) (nonce : BitVec 256) (s : State) : Answer :=
  answer s (getMeasurementsOp e index signed nonce s)

def execKeyExchange (e : Endpoint) (reqId : W16) (exchange : BitVec 512) (s : State) : Answer := answer s (keyExchangeOp e reqId exchange s)

def execSpdmFinish (e : Endpoint) (session : W32) (macOk : Bool) (s : State) : Answer := answer s (spdmFinishOp e session macOk s)

def execHeartbeat (e : Endpoint) (session : W32) (s : State) : Answer := answer s (heartbeatOp e session s)

def execKeyUpdate (e : Endpoint) (session : W32) (s : State) : Answer := answer s (keyUpdateOp e session s)

def execEndSession (e : Endpoint) (session : W32) (s : State) : Answer := answer s (endSessionOp e session s)

def execSessionHeartbeatExpiry (session : W32) (s : State) : Answer := answer s (sessionExpiry session s)

def execDebugToken (valid : Bool) (s : State) : Answer := answer s (finish (debugTokenOp valid s))

/-! ## The sideband (R30, R561, R562) -/

/-- n bytes of a message at an offset. -/
def msgField (bs : List Byte) (o n : Nat) : Nat := leNat ((bs.drop o).take n)

/-- A NEGOTIATE_ALGORITHMS request offers ECDSA P-256 and SHA-256 (R522), at the places of DSP0274 (PRESUMED, log 31). -/
def offersOurs (bs : List Byte) : Bool := bitOf (msgField bs 8 4) 4 && bitOf (msgField bs 12 4) 0

/-- An SPDM request outside a session, by its code (PRESUMED, log 31). -/
def spdmRequest (e : Endpoint) (bs : List Byte) (s : State) : State :=
  let p1 : Byte := BitVec.ofNat 8 (msgField bs 2 1)
  let p2 : Byte := BitVec.ofNat 8 (msgField bs 3 1)
  match msgField bs 1 1 with
  | 0x84 => getVersionOp e s
  | 0xE1 => getCapabilitiesOp e s
  | 0xE3 => negotiateOp e (offersOurs bs) s
  | 0x81 => getDigestsOp e s
  | 0x82 => getCertificateOp e p1 (BitVec.ofNat 16 (msgField bs 4 2)) (BitVec.ofNat 16 (msgField bs 6 2)) s
  | 0x83 => challengeOp e p1 (BitVec.ofNat 256 (msgField bs 4 32)) s
  | 0xE0 => getMeasurementsOp e p2 (bitOf p1.toNat 0) (BitVec.ofNat 256 (msgField bs 4 32)) s
  | 0xE4 => keyExchangeOp e (BitVec.ofNat 16 (msgField bs 4 2)) (BitVec.ofNat 512 (msgField bs 40 64)) s
  | _ => if endpointUp s e then spdmError 1 s else s

/-- MCTP_MESSAGE: its first byte is the message type, 5 for an SPDM request (PRESUMED, log 31). One whose PEC fails is ignored. A message of a session is
encrypted, and its own row says what it holds. -/
def mctpMessage (pecOk : Bool) (bytes : List Byte) (s : State) : State :=
  if !pecOk || !s.pins.p48vOk then s
  else match bytes with
    | 5 :: bs => spdmRequest .sideband bs s
    | _ => s

def execMctpMessage (pecOk : Bool) (bytes : List Byte) (s : State) : Answer := answer s (mctpMessage pecOk bytes s)

def execRegRead (pecOk : Bool) (offset : W32) (reached : Bool) (s : State) : Answer := answer s (sidebandRead pecOk offset reached s)

def execRegWrite (pecOk : Bool) (offset value : W32) (reached : Bool) (s : State) : Answer := answer s (finish (sidebandWrite pecOk offset value reached s))

def execSbStatus (s : State) : Answer := answer s (ifLodge (withReply (leBytes 2 (sbStatusWord s))) s)

/-- ALERT_RESPONSE: the Lodge answers with its address while SB_ALERT_N is low. -/
def execAlertResponse (s : State) : Answer := answer s (ifLodge (fun s => if alertLow s then withReply [BitVec.ofNat 8 (sbAddress s)] s else s) s)

/-! ## Registers with rows of their own -/

/-- A register write that takes effect while its block answers (R560). -/
def ifBlock (blk : Nat) (f : State → State) (s : State) : State := if blockAnswers s blk then ifAwake f s else s

def execLoftRetireGo (die : BitVec 3) (slice : BitVec 5) (s : State) : Answer := answer s (ifBlock blkLoft (retireSlice die slice) s)

def execStkRepairReqGo (stack : BitVec 4) (pc bank : BitVec 6) (row : BitVec 15) (s : State) : Answer :=
  answer s (ifBlock blkStk (repairGo (Fin.ofNat 16 stack.toNat) (Fin.ofNat 64 pc.toNat) (Fin.ofNat 64 bank.toNat) row.toNat) s)

def execStkHoldWrite (hold : W16) (s : State) : Answer := answer s (ifBlock blkStk (holdWrite hold) s)

def execResRetireGo (core : BitVec 10) (s : State) : Answer := answer s (ifBlock blkRes (retireGo core.toNat) s)

def execSecImgGo (port : Fin 2) (persist : Bool) (addr : W64) (len : W32) (img : Image) (s : State) : Answer :=
  answer s (if blockAnswers s blkSec then finish (imageGo port persist addr len img s) else s)

def execSecImgRaise (s : State) : Answer := answer s (ifBlock blkSec raiseSvn s)

def execPwrWake (a : Accessor) (s : State) : Answer := answer s (if accessorUp s a && s.pins.pwrOk then finish (wake a s) else s)

def execLinkTgtConnect (port : Fin 2) (target : Fin 16) (s : State) : Answer := answer s (ifBlock blkLink (connectTarget port target) s)

def execLinkTgtDisconnect (target : Fin 16) (s : State) : Answer := answer s (ifBlock blkLink (disconnectTarget target) s)

def execLinkSqEnable (queue : Fin 64) (enable : Bool) (s : State) : Answer := answer s (ifBlock blkLink (sqEnable queue.val enable) s)

def execFqEnable (port : Fin 2) (enable : Bool) (s : State) : Answer :=
  answer s (if funcUp s port 0 then ifBlock blkFq (fqEnable port enable) s else s)

/-- ENABLE of the ring of a function (R353, R556, R566). -/
def enableOf (f : Func) (on : Bool) (s : State) : State :=
  match funcRing s f with
  | some r => ringEnable r on s
  | none => s

def execYmRingEnable (f : Func) (enable : Bool) (s : State) : Answer :=
  answer s (if funcUp s f.port f.vf.val then ifBlock blkYm (enableOf f enable) s else s)

/-! ## Pairs and all other registers (R7 to R13, R347, R558 to R560) -/

/-- The reply of a register read. -/
def replyWord (r : State × W32) : State := withReply (leBytes 4 r.2.toNat) r.1

/-- A read of one register of a pair; where the accessor's view has no such pair it reads zero. -/
def pairRead (f : Accessor → Pair → State → State × W32) (a : Accessor) (p : Pair) (s : State) : State :=
  if !accessorUp s a then s else replyWord (if pairSeen s a p then f a p s else (s, 0))

def execPairLoRead (a : Accessor) (p : Pair) (s : State) : Answer := answer s (pairRead readLo a p s)

def execPairHiRead (a : Accessor) (p : Pair) (s : State) : Answer := answer s (pairRead readHi a p s)

def execRegisterWrite (a : Accessor) (offset value : W32) (s : State) : Answer :=
  answer s (if accessorUp s a then finish (windowWrite a offset.toNat value s) else s)

end Sys2Proof.Machine
end

