-- ==== Sys2Proof/Machine/Dispatch.lean ====
section
/-! DEFINITION. The meaning of each command, by its constructor: one arm for each row of the opcode table. -/

namespace Sys2Proof.Machine

open Sys2Proof

/-- The effect of a command on everything but the queue of waiting commands. -/
def exec (i : Instr) (s : State) : Host.Outcome State Fault Refusal :=
  match i with
  | .pwrEnRise c => Sys2Proof.Machine.execPwrEnRise c s
  | .inputRange => Sys2Proof.Machine.execInputRange s
  | .buttonPress => Sys2Proof.Machine.execButtonPress s
  | .buttonHold2s => Sys2Proof.Machine.execButtonHold2s s
  | .buttonHold10s => Sys2Proof.Machine.execButtonHold10s s
  | .buttonRelease => Sys2Proof.Machine.execButtonRelease s
  | .identifyTimeout => Sys2Proof.Machine.execIdentifyTimeout s
  | .cageLedStream => Sys2Proof.Machine.execCageLedStream s
  | .cagePresEdge port low => Sys2Proof.Machine.execCagePresEdge port low s
  | .confirmedInsertion port => Sys2Proof.Machine.execConfirmedInsertion port s
  | .confirmedRemoval port => Sys2Proof.Machine.execConfirmedRemoval port s
  | .receivedSignalLost port => Sys2Proof.Machine.execReceivedSignalLost port s
  | .trainingComplete port width peer peerPort => Sys2Proof.Machine.execTrainingComplete port width peer peerPort s
  | .trainingFailed port => Sys2Proof.Machine.execTrainingFailed port s
  | .trainingRetry port => Sys2Proof.Machine.execTrainingRetry port s
  | .recovered port width peer peerPort expected => Sys2Proof.Machine.execRecovered port width peer peerPort expected s
  | .recoveryWindowExpiry port => Sys2Proof.Machine.execRecoveryWindowExpiry port s
  | .flitReceived port flit => Sys2Proof.Machine.execFlitReceived port flit s
  | .nakReceived port seq => Sys2Proof.Machine.execNakReceived port seq s
  | .ackTimeout port => Sys2Proof.Machine.execAckTimeout port s
  | .laneFailed die lane => Sys2Proof.Machine.execLaneFailed die lane s
  | .loopbackTestDone die lane dieSide => Sys2Proof.Machine.execLoopbackTestDone die lane dieSide s
  | .wireFailed u toHigh wire => Sys2Proof.Machine.execWireFailed u toHigh wire s
  | .halfLoss west => Sys2Proof.Machine.execHalfLoss west s
  | .perstAssert port => Sys2Proof.Machine.execPerstAssert port s
  | .perstDeassert port long => Sys2Proof.Machine.execPerstDeassert port long s
  | .hostLinkDown port => Sys2Proof.Machine.execHostLinkDown port s
  | .hostLinkUp port => Sys2Proof.Machine.execHostLinkUp port s
  | .d3hotEntry f => Sys2Proof.Machine.execD3hotEntry f s
  | .d0Return f => Sys2Proof.Machine.execD0Return f s
  | .sriovEnable port numVf => Sys2Proof.Machine.execSriovEnable port numVf s
  | .apertureRequest f addr req => Sys2Proof.Machine.execApertureRequest f addr req s
  | .sweep => Sys2Proof.Machine.execSweep s
  | .beatBoundary m => Sys2Proof.Machine.execBeatBoundary m s
  | .referenceLost cause => Sys2Proof.Machine.execReferenceLost cause s
  | .beatRefFrame frame => Sys2Proof.Machine.execBeatRefFrame frame s
  | .ptpSyncMessage msg => Sys2Proof.Machine.execPtpSyncMessage msg s
  | .referenceRegained => Sys2Proof.Machine.execReferenceRegained s
  | .lateReceived port pkt => Sys2Proof.Machine.execLateReceived port pkt s
  | .devInfo h => Sys2Proof.Machine.execDevInfo h s
  | .devWarm h restore => Sys2Proof.Machine.execDevWarm h restore s
  | .devHalfloss h half => Sys2Proof.Machine.execDevHalfloss h half s
  | .extMap h d => Sys2Proof.Machine.execExtMap h d s
  | .extUnmap h tag index => Sys2Proof.Machine.execExtUnmap h tag index s
  | .extAdviseHint h tag index hint => Sys2Proof.Machine.execExtAdviseHint h tag index hint s
  | .extAdviseHost h r => Sys2Proof.Machine.execExtAdviseHost h r s
  | .extAdviseAperture h tag => Sys2Proof.Machine.execExtAdviseAperture h tag s
  | .extAdviseMigmode h tag mode hotcount => Sys2Proof.Machine.execExtAdviseMigmode h tag mode hotcount s
  | .extPrefetch h r => Sys2Proof.Machine.execExtPrefetch h r s
  | .copy h p => Sys2Proof.Machine.execCopy h p s
  | .extShare h p => Sys2Proof.Machine.execExtShare h p s
  | .padCreate h p => Sys2Proof.Machine.execPadCreate h p s
  | .padDestroy h mode => Sys2Proof.Machine.execPadDestroy h mode s
  | .padReset h mode => Sys2Proof.Machine.execPadReset h mode s
  | .padQuery h => Sys2Proof.Machine.execPadQuery h s
  | .jobLaunch h p => Sys2Proof.Machine.execJobLaunch h p s
  | .pipeLoad h table tag => Sys2Proof.Machine.execPipeLoad h table tag s
  | .pipeStart h p => Sys2Proof.Machine.execPipeStart h p s
  | .pipeMove h p => Sys2Proof.Machine.execPipeMove h p s
  | .batchSubmit h p => Sys2Proof.Machine.execBatchSubmit h p s
  | .seqJoin h p => Sys2Proof.Machine.execSeqJoin h p s
  | .seqLeave h seqid => Sys2Proof.Machine.execSeqLeave h seqid s
  | .postSet h post value => Sys2Proof.Machine.execPostSet h post value s
  | .postWait h post target timeout => Sys2Proof.Machine.execPostWait h post target timeout s
  | .postWaitTimeout seq => Sys2Proof.Machine.execPostWaitTimeout seq s
  | .syncGroupJoin h g => Sys2Proof.Machine.execSyncGroupJoin h g s
  | .syncGroupLeave h g => Sys2Proof.Machine.execSyncGroupLeave h g s
  | .winOpen h w => Sys2Proof.Machine.execWinOpen h w s
  | .winClose h win => Sys2Proof.Machine.execWinClose h win s
  | .windowDrained win => Sys2Proof.Machine.execWindowDrained win s
  | .linkStateQuery h port => Sys2Proof.Machine.execLinkStateQuery h port s
  | .linkStateEnable h port => Sys2Proof.Machine.execLinkStateEnable h port s
  | .linkStateDisable h port => Sys2Proof.Machine.execLinkStateDisable h port s
  | .linkStateSet h port mode width => Sys2Proof.Machine.execLinkStateSet h port mode width s
  | .checkSetupArm h west unit poly => Sys2Proof.Machine.execCheckSetupArm h west unit poly s
  | .checkSetupRead h west unit => Sys2Proof.Machine.execCheckSetupRead h west unit s
  | .snapMark h full => Sys2Proof.Machine.execSnapMark h full s
  | .markCopyDone => Sys2Proof.Machine.execMarkCopyDone s
  | .heldWriteRelease half granule => Sys2Proof.Machine.execHeldWriteRelease half granule s
  | .snapRestore h gen => Sys2Proof.Machine.execSnapRestore h gen s
  | .faultAck h seq => Sys2Proof.Machine.execFaultAck h seq s
  | .snapStream h p => Sys2Proof.Machine.execSnapStream h p s
  | .streamImageDone gen => Sys2Proof.Machine.execStreamImageDone gen s
  | .pwrCap h watts => Sys2Proof.Machine.execPwrCap h watts s
  | .pwrState h state keep => Sys2Proof.Machine.execPwrState h state keep s
  | .pwrFixed h enable mhz => Sys2Proof.Machine.execPwrFixed h enable mhz s
  | .attReport h dest size nonce => Sys2Proof.Machine.execAttReport h dest size nonce s
  | .confEnter h p => Sys2Proof.Machine.execConfEnter h p s
  | .cntSnap h beat slot => Sys2Proof.Machine.execCntSnap h beat slot s
  | .beatSet h p => Sys2Proof.Machine.execBeatSet h p s
  | .testSelf h quad bad => Sys2Proof.Machine.execTestSelf h quad bad s
  | .testCold h keep c => Sys2Proof.Machine.execTestCold h keep c s
  | .tagDrainDone tag => Sys2Proof.Machine.execTagDrainDone tag s
  | .padDrainStepDone pad => Sys2Proof.Machine.execPadDrainStepDone pad s
  | .demandFetchDone tag index granule => Sys2Proof.Machine.execDemandFetchDone tag index granule s
  | .migrationSamplePeriod => Sys2Proof.Machine.execMigrationSamplePeriod s
  | .migrationMoveDone tag index granule => Sys2Proof.Machine.execMigrationMoveDone tag index granule s
  | .swapOutDone pad slot => Sys2Proof.Machine.execSwapOutDone pad slot s
  | .swapInDone pad slot => Sys2Proof.Machine.execSwapInDone pad slot s
  | .invocationEnd pad stage => Sys2Proof.Machine.execInvocationEnd pad stage s
  | .moveReplaysLanded pad stage => Sys2Proof.Machine.execMoveReplaysLanded pad stage s
  | .blockStart pad core => Sys2Proof.Machine.execBlockStart pad core s
  | .quantumExpiry is => Sys2Proof.Machine.execQuantumExpiry is s
  | .watchdog core slot => Sys2Proof.Machine.execWatchdog core slot s
  | .computeRestartEnd us => Sys2Proof.Machine.execComputeRestartEnd us s
  | .autoResume pad => Sys2Proof.Machine.execAutoResume pad s
  | .scrubRead stack pc bank row sub found => Sys2Proof.Machine.execScrubRead stack pc bank row sub found s
  | .standinInstallDone stack => Sys2Proof.Machine.execStandinInstallDone stack s
  | .refetchDone half granule => Sys2Proof.Machine.execRefetchDone half granule s
  | .stackTempRead stack temp => Sys2Proof.Machine.execStackTempRead stack temp s
  | .dieTempRead die temp held1ms => Sys2Proof.Machine.execDieTempRead die temp held1ms s
  | .marginCheck die quad slack => Sys2Proof.Machine.execMarginCheck die quad slack s
  | .voltageDroop die region => Sys2Proof.Machine.execVoltageDroop die region s
  | .droopRecovered die region fc => Sys2Proof.Machine.execDroopRecovered die region fc s
  | .trotEntry => Sys2Proof.Machine.execTrotEntry s
  | .gallopExitDone => Sys2Proof.Machine.execGallopExitDone s
  | .sliceRetirementDone => Sys2Proof.Machine.execSliceRetirementDone s
  | .drayDescriptorRead die dray queue => Sys2Proof.Machine.execDrayDescriptorRead die dray queue s
  | .drayPartLanded xfer bytes ecc => Sys2Proof.Machine.execDrayPartLanded xfer bytes ecc s
  | .copyPartLanded copy bytes ecc => Sys2Proof.Machine.execCopyPartLanded copy bytes ecc s
  | .sendDescriptorRead queue => Sys2Proof.Machine.execSendDescriptorRead queue s
  | .linkAck op bytes => Sys2Proof.Machine.execLinkAck op bytes s
  | .storeCommandComplete op ok data => Sys2Proof.Machine.execStoreCommandComplete op ok data s
  | .targetConnectDone target ok => Sys2Proof.Machine.execTargetConnectDone target ok s
  | .remoteWrite port t data => Sys2Proof.Machine.execRemoteWrite port t data s
  | .readReq port t => Sys2Proof.Machine.execReadReq port t s
  | .readRsp port t data => Sys2Proof.Machine.execReadRsp port t data s
  | .addF32 port t vals => Sys2Proof.Machine.execAddF32 port t vals s
  | .addAnchVal port t vals => Sys2Proof.Machine.execAddAnchVal port t vals s
  | .addAnchLong port t longs => Sys2Proof.Machine.execAddAnchLong port t longs s
  | .linkPostAdd port t => Sys2Proof.Machine.execLinkPostAdd port t s
  | .ethernetFrame port frame => Sys2Proof.Machine.execEthernetFrame port frame s
  | .addToLine req => Sys2Proof.Machine.execAddToLine req s
  | .spillDone req => Sys2Proof.Machine.execSpillDone req s
  | .reloadDone req => Sys2Proof.Machine.execReloadDone req s
  | .postUpdate upd => Sys2Proof.Machine.execPostUpdate upd s
  | .waitPoll wait => Sys2Proof.Machine.execWaitPoll wait s
  | .pathData pkt => Sys2Proof.Machine.execPathData pkt s
  | .credit pkt => Sys2Proof.Machine.execCredit pkt s
  | .red pkt => Sys2Proof.Machine.execRed pkt s
  | .localReq acc => Sys2Proof.Machine.execLocalReq acc s
  | .localRsp acc => Sys2Proof.Machine.execLocalRsp acc s
  | .loftReq acc ecc => Sys2Proof.Machine.execLoftReq acc ecc s
  | .loftRsp acc => Sys2Proof.Machine.execLoftRsp acc s
  | .harnessGrant core => Sys2Proof.Machine.execHarnessGrant core s
  | .mmaComplete core => Sys2Proof.Machine.execMmaComplete core s
  | .barrierRelease core slot barrier => Sys2Proof.Machine.execBarrierRelease core slot barrier s
  | .dozeExpiry is lane => Sys2Proof.Machine.execDozeExpiry is lane s
  | .intAdd is w => Sys2Proof.Machine.execIntAdd is w s
  | .intSub is w => Sys2Proof.Machine.execIntSub is w s
  | .intMull is w => Sys2Proof.Machine.execIntMull is w s
  | .intMulh is w => Sys2Proof.Machine.execIntMulh is w s
  | .intMuladd is w => Sys2Proof.Machine.execIntMuladd is w s
  | .intMin is w => Sys2Proof.Machine.execIntMin is w s
  | .intMax is w => Sys2Proof.Machine.execIntMax is w s
  | .intAbs is w => Sys2Proof.Machine.execIntAbs is w s
  | .intAnd is w => Sys2Proof.Machine.execIntAnd is w s
  | .intOr is w => Sys2Proof.Machine.execIntOr is w s
  | .intXor is w => Sys2Proof.Machine.execIntXor is w s
  | .intNot is w => Sys2Proof.Machine.execIntNot is w s
  | .intShl is w => Sys2Proof.Machine.execIntShl is w s
  | .intShr is w => Sys2Proof.Machine.execIntShr is w s
  | .intSar is w => Sys2Proof.Machine.execIntSar is w s
  | .intOnes is w => Sys2Proof.Machine.execIntOnes is w s
  | .intLzc is w => Sys2Proof.Machine.execIntLzc is w s
  | .intBitrev is w => Sys2Proof.Machine.execIntBitrev is w s
  | .intFget is w => Sys2Proof.Machine.execIntFget is w s
  | .intFput is w => Sys2Proof.Machine.execIntFput is w s
  | .intPick is w => Sys2Proof.Machine.execIntPick is w s
  | .intCmp is w => Sys2Proof.Machine.execIntCmp is w s
  | .intMov is w => Sys2Proof.Machine.execIntMov is w s
  | .laneGet is w => Sys2Proof.Machine.execLaneGet is w s
  | .laneMask is w => Sys2Proof.Machine.execLaneMask is w s
  | .fltAdd is w => Sys2Proof.Machine.execFltAdd is w s
  | .fltSub is w => Sys2Proof.Machine.execFltSub is w s
  | .fltMul is w => Sys2Proof.Machine.execFltMul is w s
  | .fltFma is w => Sys2Proof.Machine.execFltFma is w s
  | .fltDiv is w => Sys2Proof.Machine.execFltDiv is w s
  | .fltSqrt is w => Sys2Proof.Machine.execFltSqrt is w s
  | .fltMin is w => Sys2Proof.Machine.execFltMin is w s
  | .fltMax is w => Sys2Proof.Machine.execFltMax is w s
  | .fltAbs is w => Sys2Proof.Machine.execFltAbs is w s
  | .fltNeg is w => Sys2Proof.Machine.execFltNeg is w s
  | .fltCmp is w => Sys2Proof.Machine.execFltCmp is w s
  | .exp2Est is w => Sys2Proof.Machine.execExp2Est is w s
  | .log2Est is w => Sys2Proof.Machine.execLog2Est is w s
  | .rsqEst is w => Sys2Proof.Machine.execRsqEst is w s
  | .cvt is w => Sys2Proof.Machine.execCvt is w s
  | .cvtF2i is w => Sys2Proof.Machine.execCvtF2i is w s
  | .cvtI2f is w => Sys2Proof.Machine.execCvtI2f is w s
  | .cvtBlk is w => Sys2Proof.Machine.execCvtBlk is w s
  | .jmp is w => Sys2Proof.Machine.execJmp is w s
  | .jmpi is w => Sys2Proof.Machine.execJmpi is w s
  | .call is w => Sys2Proof.Machine.execCall is w s
  | .ret is w => Sys2Proof.Machine.execRet is w s
  | .endThread is w => Sys2Proof.Machine.execEndThread is w s
  | .teamJoin is w => Sys2Proof.Machine.execTeamJoin is w s
  | .blockWait is w => Sys2Proof.Machine.execBlockWait is w s
  | .doze is w => Sys2Proof.Machine.execDoze is w s
  | .trap is w => Sys2Proof.Machine.execTrap is w s
  | .nop is w => Sys2Proof.Machine.execNop is w s
  | .sreg is w => Sys2Proof.Machine.execSreg is w s
  | .flagsRd is w => Sys2Proof.Machine.execFlagsRd is w s
  | .flagsClr is w => Sys2Proof.Machine.execFlagsClr is w s
  | .invalConst is w => Sys2Proof.Machine.execInvalConst is w s
  | .invalDesc is w => Sys2Proof.Machine.execInvalDesc is w s
  | .ld is w => Sys2Proof.Machine.execLd is w s
  | .st is w => Sys2Proof.Machine.execSt is w s
  | .atom is w => Sys2Proof.Machine.execAtom is w s
  | .memRed is w => Sys2Proof.Machine.execMemRed is w s
  | .cp is w => Sys2Proof.Machine.execCp is w s
  | .cpRows is w => Sys2Proof.Machine.execCpRows is w s
  | .harnessOpen is w => Sys2Proof.Machine.execHarnessOpen is w s
  | .harnessClose is w => Sys2Proof.Machine.execHarnessClose is w s
  | .mmaTile is w => Sys2Proof.Machine.execMmaTile is w s
  | .accZero is w => Sys2Proof.Machine.execAccZero is w s
  | .accLd is w => Sys2Proof.Machine.execAccLd is w s
  | .accSt is w => Sys2Proof.Machine.execAccSt is w s
  | .accRd is w => Sys2Proof.Machine.execAccRd is w s
  | .anchZero is w => Sys2Proof.Machine.execAnchZero is w s
  | .anchAdd is w => Sys2Proof.Machine.execAnchAdd is w s
  | .anchMerge is w => Sys2Proof.Machine.execAnchMerge is w s
  | .anchClose is w => Sys2Proof.Machine.execAnchClose is w s
  | .anchTred is w => Sys2Proof.Machine.execAnchTred is w s
  | .anchProbe is w => Sys2Proof.Machine.execAnchProbe is w s
  | .anchPmax is w => Sys2Proof.Machine.execAnchPmax is w s
  | .postAdd is w => Sys2Proof.Machine.execPostAdd is w s
  | .postWaitInstr is w => Sys2Proof.Machine.execPostWaitInstr is w s
  | .postRd is w => Sys2Proof.Machine.execPostRd is w s
  | .postSetInstr is w => Sys2Proof.Machine.execPostSetInstr is w s
  | .pathSend is w => Sys2Proof.Machine.execPathSend is w s
  | .pathInv is w => Sys2Proof.Machine.execPathInv is w s
  | .getVersion e => Sys2Proof.Machine.execGetVersion e s
  | .getCapabilities e => Sys2Proof.Machine.execGetCapabilities e s
  | .negotiateAlgorithms e agreed => Sys2Proof.Machine.execNegotiateAlgorithms e agreed s
  | .getDigests e => Sys2Proof.Machine.execGetDigests e s
  | .getCertificate e slot offset length => Sys2Proof.Machine.execGetCertificate e slot offset length s
  | .challenge e slot nonce => Sys2Proof.Machine.execChallenge e slot nonce s
  | .getMeasurements e index signed nonce => Sys2Proof.Machine.execGetMeasurements e index signed nonce s
  | .keyExchange e reqId exchange => Sys2Proof.Machine.execKeyExchange e reqId exchange s
  | .spdmFinish e session macOk => Sys2Proof.Machine.execSpdmFinish e session macOk s
  | .heartbeat e session => Sys2Proof.Machine.execHeartbeat e session s
  | .keyUpdate e session => Sys2Proof.Machine.execKeyUpdate e session s
  | .endSession e session => Sys2Proof.Machine.execEndSession e session s
  | .sessionHeartbeatExpiry session => Sys2Proof.Machine.execSessionHeartbeatExpiry session s
  | .debugToken valid => Sys2Proof.Machine.execDebugToken valid s
  | .mctpMessage pecOk bytes => Sys2Proof.Machine.execMctpMessage pecOk bytes s
  | .regRead pecOk offset reached => Sys2Proof.Machine.execRegRead pecOk offset reached s
  | .regWrite pecOk offset value reached => Sys2Proof.Machine.execRegWrite pecOk offset value reached s
  | .sbStatus => Sys2Proof.Machine.execSbStatus s
  | .alertResponse => Sys2Proof.Machine.execAlertResponse s
  | .loftRetireGo die slice => Sys2Proof.Machine.execLoftRetireGo die slice s
  | .stkRepairReqGo stack pc bank row => Sys2Proof.Machine.execStkRepairReqGo stack pc bank row s
  | .stkHoldWrite hold => Sys2Proof.Machine.execStkHoldWrite hold s
  | .resRetireGo core => Sys2Proof.Machine.execResRetireGo core s
  | .secImgGo port persist addr len img => Sys2Proof.Machine.execSecImgGo port persist addr len img s
  | .secImgRaise => Sys2Proof.Machine.execSecImgRaise s
  | .pwrWake a => Sys2Proof.Machine.execPwrWake a s
  | .svcDrainClear => Sys2Proof.Machine.execSvcDrainClear s
  | .svcIdentWrite on => Sys2Proof.Machine.execSvcIdentWrite on s
  | .linkTgtConnect port target => Sys2Proof.Machine.execLinkTgtConnect port target s
  | .linkTgtDisconnect target => Sys2Proof.Machine.execLinkTgtDisconnect target s
  | .linkSqEnable queue enable => Sys2Proof.Machine.execLinkSqEnable queue enable s
  | .fqEnable port enable => Sys2Proof.Machine.execFqEnable port enable s
  | .ymRingEnable f enable => Sys2Proof.Machine.execYmRingEnable f enable s
  | .pairLoRead a p => Sys2Proof.Machine.execPairLoRead a p s
  | .pairHiRead a p => Sys2Proof.Machine.execPairHiRead a p s
  | .registerWrite a offset value => Sys2Proof.Machine.execRegisterWrite a offset value s
  | .illegalInstr is word => Sys2Proof.Machine.execIllegalInstr is word s
  | .badTransactionPacket port => Sys2Proof.Machine.execBadTransactionPacket port s
  | .beatSetT0Reached => Sys2Proof.Machine.execBeatSetT0Reached s
  | .backgroundZeroingDone half granule => Sys2Proof.Machine.execBackgroundZeroingDone half granule s
  | .stackInterfaceFailure stack pc => Sys2Proof.Machine.execStackInterfaceFailure stack pc s
  | .p48vInRange => Sys2Proof.Machine.execP48vInRange s
  | .testChainAccess op => Sys2Proof.Machine.execTestChainAccess op s
  | .ecnRateRecovery target => Sys2Proof.Machine.execEcnRateRecovery target s

end Sys2Proof.Machine
end

