-- ==== Sys2Proof/Safety.lean ====
section
/-! DEFINITION. What counts as a safe run, and the terms in which the statements speak of a command. -/

namespace Sys2Proof.Machine

/-- The step at a state answers a next state. -/
def Answers (s : State) : Prop := ∃ t, step s = .next t

/-- What a command at s leaves when its effect is t: the effect, with the queue and the pins that the outside drives as they were. -/
def leaves (s t : State) : State := keepInputs s s.pins t

/-! ## Instructions -/

/-- The group of an issue issues the word now, as c has it: its team's current group has instructions left and is not held, the word breaks no rule of
R95 to R99, no load or atomic in flight has still to write a register that it names, and the core's memories answer without an error. -/
def Issues (i : Issue) (w : IWord) (form : Ctx → Form) (s : State) (c : Ctx) : Prop :=
  i.sram = .clean ∧ ready s i w = some c ∧ legal (shapeRegs c.b.shape) (form c) w = true ∧
  waitsOperand s c.core c.slot c.team c.g.lanes (formRegs (form c) w) = false

/-- The issue with the group moved past the word. -/
def past (w : IWord) (c : Ctx) : Ctx := { c with t := advance w c.t }

/-- The state in which the team of the issue has retired its instruction, which left the team as t. -/
def retires (c : Ctx) (t : Team) : State := modTeam c.core c.slot c.team settleTeam (c.put t)

/-- The same for an instruction that changed the state to u in other ways too. -/
def retired (c : Ctx) (u : State) : State := modTeam c.core c.slot c.team settleTeam u

/-- The same for an instruction that may use SR, which the team's instruction count counts (R61, R105). -/
def retiresSr (sr : Bool) (c : Ctx) (t : Team) : State := modTeam c.core c.slot c.team (fun t => settleTeam (countSr sr t)) (c.put t)

/-- The PC at which a thread of a team stands. -/
def pcOf (t : Team) (lane : Nat) : Option W64 := (t.ring.find? fun g => g.mask.getLsbD lane).map fun g => g.pc

/-- The groups of a team share no thread, and their births are distinct and past. -/
def groupsApart (t : Team) : Prop :=
  (t.ring.Pairwise fun g h => g.mask &&& h.mask = 0) ∧ (t.ring.map fun g => g.born).Nodup ∧ ∀ g ∈ t.ring, g.born < t.born

/-! ## Anchored sums -/

/-- A tree of combinations over long forms (R67). -/
inductive SumTree where
  | leaf (l : LongForm)
  | node (x y : SumTree)

/-- The long forms of a tree, from left to right. -/
def SumTree.leaves (t : SumTree) : List LongForm :=
  match t with
  | .leaf l => [l]
  | .node x y => x.leaves ++ y.leaves

/-- The combination that a tree stands for. -/
def SumTree.sum (t : SumTree) : LongForm :=
  match t with
  | .leaf l => l
  | .node x y => longCombine x.sum y.sum

/-- The magnitude of a long form that is a number, else 0. -/
def longMagnitude (l : LongForm) : Nat := match LVal.of l.bits with | .num v => v.natAbs | _ => 0

/-- The sum of |q| over all numeric long forms of a tree (R68). -/
def SumTree.magnitude (t : SumTree) : Nat :=
  match t with
  | .leaf l => longMagnitude l
  | .node x y => x.magnitude + y.magnitude

/-! ## Commands of the rings -/

/-- The command that a packet becomes as it begins at once. -/
def begunCmd (h : CmdHdr) (b : Body) (s : State) : Cmd := { seq := s.ym.seq, hdr := h, body := b, began := true, due := false }

/-- The state in which a visit of its ring finds the packet of a command; BEAT.SET is held against RT as it stands then (R332, R352). -/
def seen (h : CmdHdr) (b : Body) (s : State) : State :=
  let u := visitRing h.ring.val s
  if b.isBeatSet then tickRt u else u

/-- The packet is taken: a status entry is reserved, a launch is counted as accepted, and c holds the next place in acceptance order (R352, R355, R403). -/
def takenAs (c : Cmd) (h : CmdHdr) (b : Body) (s : State) : State :=
  let u := seen h b s
  let u := setRing h.ring.val { getRing u h.ring.val with reserved := (getRing u h.ring.val).reserved + 1 } u
  let u := if b.isLaunch then countAccepted h.paddock.toNat u else u
  { u with ym := { s.ym with seq := s.ym.seq + 1, cmds := s.ym.cmds ++ [c] } }

/-- The state in which the packet has been taken and its command has not begun. -/
def inHand (h : CmdHdr) (b : Body) (s : State) : State := takenAs { begunCmd h b s with began := false } h b s

/-- The state in which the packet has been taken and its command begins. -/
def taken (h : CmdHdr) (b : Body) (s : State) : State := takenAs (begunCmd h b s) h b s

/-- A begun command that is tried again while memory or a check unit it needs is busy. -/
def Body.retried (b : Body) : Bool :=
  match b with
  | .extMap _ => true
  | .padCreate _ => true
  | .snapRestore _ => true
  | _ => false

/-- Nothing stands that an event brings forward beside the commands in flight: no half to be lost, no restart, no request held for memory, no command that is
tried again, and no Sync source lost with port 0. -/
def still (s : State) : Bool :=
  s.snaps.lossDue.isEmpty && s.snaps.restart.isNone && s.xlt.held.isEmpty && (s.ym.cmds.all fun c => !c.body.retried) &&
  !(beatOn s && s.beat.locked && s.beat.source == 1 && !ptpPort s)

/-- What a command that began leaves: then the commands after it, and the requests that waited for memory. -/
def settled (n : Nat) (t : State) : State := retries (settleFuel n t)

/-- A packet that is accepted and begins at once: its ring is visited, no delivered write waits before it, the ring has room for a status entry, the packet
breaks none of the checks of R358, it names no beat and no fence, nothing that its command waits for holds, nothing else stands that an event brings forward,
and every command accepted earlier has begun (R220, R336, R354 to R362). -/
def Takes (h : CmdHdr) (b : Body) (s : State) : Prop :=
  atWork s = true ∧ ringLive s h.ring.val = true ∧ apertWriteWaits s (ringPort s h.ring.val) = false ∧
  statusRoom (visitRing h.ring.val s) h.ring.val = true ∧ checksOk (seen h b s) h b = true ∧ scopeOk (taken h b s) h b = true ∧ h.atBeat = none ∧
  h.fence = false ∧ canBegin (inHand h b s) (begunCmd h b s) = true ∧ still s = true ∧ ∀ c ∈ s.ym.cmds, c.began = true ∧ c.seq < s.ym.seq

/-- The row of a command: the packet of its ring with these parameters (R368). -/
def Body.row (h : CmdHdr) (b : Body) : Instr :=
  match b with
  | .devInfo => .devInfo h
  | .devWarm r => .devWarm h r
  | .devHalfloss x => .devHalfloss h x
  | .extMap d => .extMap h d
  | .extUnmap t i => .extUnmap h t i
  | .adviseHint t i x => .extAdviseHint h t i x
  | .adviseHost r => .extAdviseHost h r
  | .adviseAperture t => .extAdviseAperture h t
  | .adviseMigmode t m x => .extAdviseMigmode h t m x
  | .prefetch r => .extPrefetch h r
  | .copy p => .copy h p
  | .extShare p => .extShare h p
  | .padCreate p => .padCreate h p
  | .padDestroy m => .padDestroy h m
  | .padReset m => .padReset h m
  | .padQuery => .padQuery h
  | .jobLaunch p => .jobLaunch h p
  | .pipeLoad a t => .pipeLoad h a t
  | .pipeStart p => .pipeStart h p
  | .pipeMove p => .pipeMove h p
  | .batchSubmit p => .batchSubmit h p
  | .seqJoin p => .seqJoin h p
  | .seqLeave i => .seqLeave h i
  | .postSet p v => .postSet h p v
  | .postWait p v t => .postWait h p v t
  | .groupJoin g => .syncGroupJoin h g
  | .groupLeave g => .syncGroupLeave h g
  | .winOpen w => .winOpen h w
  | .winClose w => .winClose h w
  | .linkQuery p => .linkStateQuery h p
  | .linkEnable p => .linkStateEnable h p
  | .linkDisable p => .linkStateDisable h p
  | .linkSet p m w => .linkStateSet h p m w
  | .checkArm w u p => .checkSetupArm h w u p
  | .checkRead w u => .checkSetupRead h w u
  | .snapMark f => .snapMark h f
  | .snapRestore g => .snapRestore h g
  | .faultAck q => .faultAck h q
  | .snapStream p => .snapStream h p
  | .pwrCap w => .pwrCap h w
  | .pwrState x k => .pwrState h x k
  | .pwrFixed e m => .pwrFixed h e m
  | .attReport d n x => .attReport h d n x
  | .confEnter p => .confEnter h p
  | .cntSnap b x => .cntSnap h b x
  | .beatSet p => .beatSet h p
  | .testSelf q x => .testSelf h q x
  | .testCold k c => .testCold h k c

/-- What a command that began at s leaves when its effect is t and it completes with DONE. -/
def answersDone (s : State) (result : List Byte) (t : State) : State := leaves s (retries (writeStatus s.ym.seq done result t))

/-- What a command that began at s leaves when its effect is t and it goes on, or completes with another code. -/
def begins (s t : State) : State := leaves s (retries t)

/-! ## What input power rules out -/

/-- The module without input power: PWR_OK low, no half in service, no host port up, no paddock, no block, no command, nothing in flight. -/
def poweredOff (s : State) : Prop :=
  s.pins.pwrOk = false ∧ s.snaps.halves = 0 ∧ (∀ h : Fin 2, (getHost s h).up = false) ∧ s.pads = [] ∧ s.cores = [] ∧ s.rings = [] ∧ s.ym.cmds = [] ∧
  s.accs = [] ∧ s.copies = [] ∧ s.drays.queues = [] ∧ s.drays.xfers = [] ∧ s.mesh.pkts = [] ∧ s.posts.waits = [] ∧ s.posts.upds = [] ∧
  s.xlt.spaces = [] ∧ s.loft.frames = [] ∧ s.sec.sessions = []

/-- The module has input power, or is powered off. -/
def poweredOrOff (s : State) : Prop := s.pins.p48vOk = true ∨ poweredOff s

end Sys2Proof.Machine
end

