-- ==== Sys2Proof/Certificates/Slice0/Obligations.lean ====
section
/-! DEFINITION. The statements for the provers. Where a statement rests on a choice of the model its docstring names the log entry. -/

open Sys2Proof Sys2Proof.Machine

/-! ## The machine -/

/-- A step runs the command at the front of the queue on the state with the queue's rest; on an empty queue the block idles (the model's choice, log 1). -/
def Obligations.StepRunsFrontCommand : Prop :=
  (∀ (c : Instr) (rest : List Instr) (s : State), step { s with pending := c :: rest } = exec c { s with pending := rest }) ∧
  (∀ s : State, s.pending = [] → step s = .next s)

/-- Queue and pins are inputs: no command changes the queue, and each pin that the outside drives changes at its own event alone (log 39). -/
def Obligations.InputsChangeAtTheirOwnEventsAlone : Prop :=
  ∀ (c : Instr) (s t : State), exec c s = .next t →
    t.pending = s.pending ∧ t.pins.sbAddr = s.pins.sbAddr ∧
    ((∀ x, c ≠ .pwrEnRise x) → t.pins.pwrEn = s.pins.pwrEn) ∧
    ((∀ p l, c ≠ .cagePresEdge p l) → t.pins.cageLow = s.pins.cageLow) ∧
    ((∀ p, c ≠ .perstAssert p) → (∀ p l, c ≠ .perstDeassert p l) → t.pins.perst = s.pins.perst) ∧
    (c ≠ .inputRange → s.pins.p48vOk = true → t.pins.p48vOk = true) ∧ (c ≠ .p48vInRange → s.pins.p48vOk = false → t.pins.p48vOk = false)

/-- Without input power a command that is no event on a pin changes nothing (log 39). -/
def Obligations.NothingHappensWithoutInputPower : Prop :=
  ∀ (c : Instr) (s : State), s.pins.p48vOk = false →
    (∀ x, c ≠ .pwrEnRise x) → c ≠ .inputRange → c ≠ .p48vInRange → c ≠ .buttonPress → c ≠ .buttonRelease →
    (∀ p l, c ≠ .cagePresEdge p l) → (∀ p, c ≠ .perstAssert p) → (∀ p l, c ≠ .perstDeassert p l) → exec c s = .next s

/-- Every step keeps the invariant: with input power, or powered off (R29, R538; what a powered-off module holds is the model's reading, log 39). -/
def Obligations.EveryStepKeepsPoweredOrOff : Prop := ∀ s t : State, poweredOrOff s → step s = .next t → poweredOrOff t

/-! ## Instructions: registers and results -/

/-- Sums, products and extrema of the INT family (R101): each completes with its result in DST of every lane whose guard is true. -/
def Obligations.IntArithmetic : Prop :=
  ∀ (i : Issue) (w : IWord) (s : State) (c : Ctx),
    let p := past w c
    let n := intW w
    let a (l : Nat) := intA w p l
    let b (l : Nat) := intB w p l
    let val (v : Nat) : Int := if modS w then toSigned n v else v
    let bound (v : Int) : Int :=
      if !modSat w then v else if modS w then max (-(2 ^ (n - 1))) (min (2 ^ (n - 1) - 1) v) else max 0 (min (2 ^ n - 1) v)
    let gives (f : Nat → Nat) : Host.Outcome State Fault Refusal := .next (retires c (laneResults (intN w) w f p))
    (Issues i w (fun _ => addSubForm w) s c →
      exec (.intAdd i w) s = gives (fun l => (bound (val (a l) + val (b l)) % 2 ^ n).toNat) ∧
      exec (.intSub i w) s = gives (fun l => (bound (val (a l) - val (b l)) % 2 ^ n).toNat)) ∧
    (Issues i w (fun _ => intForm2 w) s c →
      exec (.intMull i w) s = gives (fun l => a l * b l % 2 ^ n) ∧
      exec (.intMulh i w) s = gives (fun l => (val (a l) * val (b l) / 2 ^ n % 2 ^ n).toNat) ∧
      exec (.intMin i w) s = gives (fun l => (if val (a l) ≤ val (b l) then a l else b l) % 2 ^ n) ∧
      exec (.intMax i w) s = gives (fun l => (if val (a l) ≤ val (b l) then b l else a l) % 2 ^ n)) ∧
    (Issues i w (fun _ => { intForm2 w with c := src (intN w) }) s c →
      exec (.intMuladd i w) s = gives (fun l => (a l * b l + intC w p l) % 2 ^ n)) ∧
    (Issues i w (fun _ => intForm1 w) s c →
      exec (.intAbs i w) s = gives (fun l => (((toSigned n (a l)).natAbs : Int) % 2 ^ n).toNat))

/-- Bitwise operations, shifts, counts, fields, choices, comparisons and lane exchanges of the INT family (R101, R103; the widths of amounts, counts, positions
and indices are the model's reading, log 33). -/
def Obligations.IntBitsFieldsAndLanes : Prop :=
  (∀ (i : Issue) (w : IWord) (s : State) (c : Ctx),
     let p := past w c
     let n := intW w
     let a (l : Nat) := intA w p l
     let b (l : Nat) := intB w p l
     let amount (l : Nat) := read32 p.t l w.srcB w.imm % n
     let gives (f : Nat → Nat) : Host.Outcome State Fault Refusal := .next (retires c (laneResults (intN w) w (fun l => f l % 2 ^ n) p))
     let counts (f : Nat → Nat) : Host.Outcome State Fault Refusal := .next (retires c (laneResults 1 w f p))
     (Issues i w (fun _ => intForm2 w) s c →
       exec (.intAnd i w) s = gives (fun l => a l &&& b l) ∧
       exec (.intOr i w) s = gives (fun l => a l ||| b l) ∧
       exec (.intXor i w) s = gives (fun l => a l ^^^ b l)) ∧
     (Issues i w (fun _ => intForm1 w) s c →
       exec (.intNot i w) s = gives (fun l => 2 ^ n - 1 - a l) ∧
       exec (.intMov i w) s = gives a ∧
       exec (.intBitrev i w) s = gives (fun l => bitReverse n (a l))) ∧
     (Issues i w (fun _ => intFormShift w) s c →
       exec (.intShl i w) s = gives (fun l => a l * 2 ^ amount l) ∧
       exec (.intShr i w) s = gives (fun l => a l / 2 ^ amount l) ∧
       exec (.intSar i w) s = gives (fun l => (toSigned n (a l) / 2 ^ amount l % 2 ^ n).toNat)) ∧
     (Issues i w (fun _ => intFormCount w) s c →
       exec (.intOnes i w) s = counts (fun l => ((List.range n).filter fun k => a l / 2 ^ k % 2 == 1).length) ∧
       exec (.intLzc i w) s = counts (fun l => n - bitLen (a l)))) ∧
  (∀ (i : Issue) (w : IWord) (s : State) (c : Ctx),
     let p := past w c
     let n := intW w
     let a (l : Nat) := intA w p l
     let b (l : Nat) := intB w p l
     let val (v : Nat) : Int := if modS w then toSigned n v else v
     let pred (l : Nat) := readP p.t l (ext w 102 100)
     let gives (f : Nat → Nat) : Host.Outcome State Fault Refusal := .next (retires c (laneResults (intN w) w (fun l => f l % 2 ^ n) p))
     (Issues i w (fun _ => intForm w (dest (intN w)) (src (intN w)) (src 1) (src 1)) s c →
       exec (.intFget i w) s = gives (fun l =>
         fieldGet w (a l) (read32 p.t l w.srcB w.imm % 256) (read32 p.t l w.srcC w.imm % 256))) ∧
     (Issues i w (fun _ => intForm w (dest (intN w)) (src (intN w)) (src (intN w)) (src 1)) s c →
       exec (.intFput i w) s = gives (fun l =>
         fieldPut w (a l) (b l) (read32 p.t l w.srcC w.imm % 256) (read32 p.t l w.srcC w.imm / 256 % 256))) ∧
     (Issues i w (fun _ => { intForm2 w with ext := extMask 102 100 }) s c →
       exec (.intPick i w) s = gives (fun l => if pred l then a l else b l)) ∧
     (Issues i w (fun _ => cmpForm w) s c →
       exec (.intCmp i w) s = .next (retires c (p.on.foldl (fun t l => writeP l w.pdst.toNat
         (match ext w 98 96 with
          | 0 => decide (val (a l) = val (b l)) | 1 => decide (val (a l) ≠ val (b l)) | 2 => decide (val (a l) < val (b l))
          | 3 => decide (val (a l) ≤ val (b l)) | 4 => decide (val (a l) > val (b l)) | _ => decide (val (a l) ≥ val (b l))) t) p.t))) ∧
     (Issues i w (fun _ => intFormShift w) s c →
       exec (.laneGet i w) s = gives (fun l =>
         let k := read32 p.t l w.srcB w.imm % 32
         if k ∈ c.g.lanes then a k else a l)) ∧
     (Issues i w (fun _ => { intForm w (dest 1) noUse noUse noUse with ext := extMask 102 100 }) s c →
       exec (.laneMask i w) s = .next (retires c (laneResults 1 w (fun _ => (laneMask (c.g.lanes.filter pred)).toNat) p))))

/-- What an INT instruction leaves alone, whatever else the state holds: every field of the state but the cores, every other core, block and team, and in
the team every register but DST's (and, for cmp, PDST), the flags and the call stacks. -/
def Obligations.IntFrame : Prop :=
  ∀ e ∈ ([(.intAdd, addSubForm), (.intSub, addSubForm), (.intMull, intForm2), (.intMulh, intForm2), (.intMin, intForm2), (.intMax, intForm2),
      (.intAnd, intForm2), (.intOr, intForm2), (.intXor, intForm2), (.intAbs, intForm1), (.intNot, intForm1), (.intMov, intForm1), (.intBitrev, intForm1),
      (.intShl, intFormShift), (.intShr, intFormShift), (.intSar, intFormShift), (.intOnes, intFormCount), (.intLzc, intFormCount), (.intCmp, cmpForm)] :
      List ((Issue → IWord → Instr) × (IWord → Form))),
    ∀ (i : Issue) (w : IWord) (s t : State) (c : Ctx), Issues i w (fun _ => e.2 w) s c → exec (e.1 i w) s = .next t →
      t = { s with cores := t.cores } ∧
      (∀ core, core ≠ i.core.val → getCore t core = getCore s core) ∧
      (∀ slot, slot ≠ i.slot.val → getBlock t i.core.val slot = getBlock s i.core.val slot) ∧
      (∀ team, team ≠ i.team.val → getTeam t i.core.val i.slot.val team = getTeam s i.core.val i.slot.val team) ∧
      ∃ x y b' : _, getTeam s i.core.val i.slot.val i.team.val = some x ∧ getTeam t i.core.val i.slot.val i.team.val = some y ∧
        getBlock t i.core.val i.slot.val = some b' ∧ b' = { c.b with teams := b'.teams } ∧
        (∀ lane r, r ∉ usedRegs w.dst (e.2 w).dst → readG y lane r = readG x lane r) ∧
        (∀ u, 256 + u ∉ usedRegs w.dst (e.2 w).dst → readU y u = readU x u) ∧
        (∀ lane q, w.pen = false ∨ q ≠ w.pdst.toNat → readP y lane q = readP x lane q) ∧
        (∀ lane, (thread y lane).stack = (thread x lane).stack) ∧ y.flags = x.flags ∧ y.live = x.live ∧ y.harness = x.harness ∧ y.icnt = x.icnt

/-- Writes of results (R75, R97, R100): a general destination takes the words of each listed lane's value, low word first, and changes nothing else; a
write to g255 is discarded; a uniform destination takes the first listed lane's value, and with none listed nothing is written. -/
def Obligations.ResultsReachTheirRegisters : Prop :=
  ∀ (t : Team) (n : Nat) (f : BitVec 9) (vals : List (Nat × Nat)), (vals.map Prod.fst).Nodup →
    (∀ r, opd f = .gen r → r ≠ 255 → r + n ≤ 255 →
      (∀ lane k, readG (writeLanes n f vals t) lane k =
        match vals.find? (fun x => x.1 == lane) with
        | some x => if r ≤ k ∧ k < r + n then BitVec.ofNat 32 (x.2 / 2 ^ (32 * (k - r))) else readG t lane k
        | none => readG t lane k) ∧
      (writeLanes n f vals t).uregs = t.uregs) ∧
    (opd f = .gen 255 → writeLanes n f vals t = t) ∧
    (∀ u, opd f = .uni u → (writeLanes n f vals t).threads = t.threads ∧
      ∀ k, readU (writeLanes n f vals t) k =
        match vals with
        | x :: _ => if u ≤ k ∧ k < u + n then BitVec.ofNat 32 (x.2 / 2 ^ (32 * (k - u))) else readU t k
        | [] => readU t k) ∧
    (writeLanes n f vals t).flags = t.flags ∧ (∀ lane q, readP (writeLanes n f vals t) lane q = readP t lane q) ∧
    (∀ lane, readG t lane 255 = 0) ∧ (∀ lane, readP t lane 7 = true)

/-- Floating-point arithmetic (R57, R102): each lane's result in DST, and every lane's flags in the team's. -/
def Obligations.FltArithmetic : Prop :=
  ∀ (i : Issue) (w : IWord) (s : State) (c : Ctx),
    let p := past w c
    let f := fltFmt w
    let m := modeOf w.mod
    let a (l : Nat) := fltA w p l
    let b (l : Nat) := fltB w p l
    let gives (r : Nat → Nat × Flags) : Host.Outcome State Fault Refusal := .next (retires c (flaggedResults (fltN w) w r p))
    let e (l : Nat) : W32 := BitVec.ofNat 32 (read32 p.t l w.srcA w.imm)
    let estimates (r : Nat → Nat × Flags) : Host.Outcome State Fault Refusal := .next (retires c (flaggedResults 1 w r p))
    (Issues i w (fun _ => fltForm2 w) s c →
      exec (.fltAdd i w) s = gives (fun l => fAdd f m (a l) (b l)) ∧
      exec (.fltSub i w) s = gives (fun l => fSub f m (a l) (b l)) ∧
      exec (.fltMul i w) s = gives (fun l => fMul f m (a l) (b l)) ∧
      exec (.fltDiv i w) s = gives (fun l => fDiv f m (a l) (b l)) ∧
      exec (.fltMin i w) s = gives (fun l => fMinMax f true (a l) (b l)) ∧
      exec (.fltMax i w) s = gives (fun l => fMinMax f false (a l) (b l))) ∧
    (Issues i w (fun _ => fltForm w (src (fltN w)) (src (fltN w)) (src (fltN w))) s c →
      exec (.fltFma i w) s = gives (fun l => fFma f m (a l) (b l) (fltC w p l))) ∧
    (Issues i w (fun _ => fltForm1 w) s c →
      exec (.fltSqrt i w) s = gives (fun l => fSqrt f m (a l)) ∧
      exec (.fltAbs i w) s = gives (fun l => fAbs f (a l)) ∧
      exec (.fltNeg i w) s = gives (fun l => fNeg f (a l))) ∧
    (Issues i w (fun _ => fltCmpForm w) s c →
      exec (.fltCmp i w) s = .next (retires c (writeFlags (p.on.map fun l => (fCmp f (ext w 98 96) (ext w 99 99 == 1) (a l) (b l)).2)
        (p.on.foldl (fun t l => writeP l w.pdst.toNat (fCmp f (ext w 98 96) (ext w 99 99 == 1) (a l) (b l)).1 t) p.t)))) ∧
    (Issues i w (fun _ => estForm w) s c →
      exec (.exp2Est i w) s = estimates (fun l => fExp2 Config.exp2Est (e l)) ∧
      exec (.log2Est i w) s = estimates (fun l => fLog2 Config.log2Est (e l)) ∧
      exec (.rsqEst i w) s = estimates (fun l => fRsq Config.rsqEst (e l)))

/-- The special operands of the FLT family (R44, R45, R56, R57, R102, R103), in FP32 and FP64 and every rounding: a NaN operand gives the canonical quiet NaN,
with NV where it is signalling; infinities of unlike sign, 0 × ∞, 0 ÷ 0, ∞ ÷ ∞ and the root of a negative number give it with NV. -/
def Obligations.FltSpecialOperands : Prop :=
  ∀ (f : Fmt), f = fp32 ∨ f = fp64 → ∀ (m : RMode) (a b : Nat),
    let x := f.decode a
    let y := f.decode b
    let nanOf (v : Bool) : Nat × Flags := (f.nanCode, { nv := v, of := false, uf := false })
    (x.isNan ∨ y.isNan →
      fAdd f m a b = nanOf (x.signalling || y.signalling) ∧ fSub f m a b = nanOf (x.signalling || y.signalling) ∧
      fMul f m a b = nanOf (x.signalling || y.signalling) ∧ fDiv f m a b = nanOf (x.signalling || y.signalling)) ∧
    (x.isNan → fAbs f a = nanOf x.signalling ∧ fNeg f a = nanOf x.signalling ∧ fSqrt f m a = nanOf x.signalling) ∧
    (∀ n k, x = .inf n → y = .inf k → n ≠ k → fAdd f m a b = nanOf true) ∧
    (∀ n, x = .inf n → y = .inf n → fSub f m a b = nanOf true) ∧
    (∀ n k, x = .inf n → y = .inf k → fDiv f m a b = nanOf true) ∧
    (∀ n k e, x = .inf n → y = .fin k 0 e → fMul f m a b = nanOf true) ∧
    (∀ n k e d, x = .fin n 0 e → y = .fin k 0 d → fDiv f m a b = nanOf true) ∧
    (∀ e k, x = .fin true k e → k ≠ 0 → fSqrt f m a = nanOf true) ∧
    (x.isNan → !x.signalling → !y.isNan → fMinMax f true a b = (b, noFlags) ∧ fMinMax f false a b = (b, noFlags))

/-- A number that a format holds is delivered in it as it is, without flags, in every rounding and under SAT too (R53, R54, R56). -/
def Obligations.ExactValuesAreDeliveredUnchanged : Prop :=
  ∀ (k : Nat) (f : Fmt), fmtOf k = some f → ∀ (mode : RMode) (sat : Bool) (code : Nat), code < 2 ^ f.width →
    ∀ n m e, f.decode code = .fin n m e → f.deliver mode sat (.fin n m e) = (code, noFlags)

/-- The flags of an operation are set in the team's and none is cleared (R56). -/
def Obligations.ArithmeticFlagsAreSticky : Prop :=
  ∀ (n : Nat) (w : IWord) (r : Nat → Nat × Flags) (c : Ctx),
    let t := flaggedResults n w r c
    t.flags.nv = (c.t.flags.nv || c.on.any fun l => (r l).2.nv) ∧ t.flags.of = (c.t.flags.of || c.on.any fun l => (r l).2.of) ∧
    t.flags.uf = (c.t.flags.uf || c.on.any fun l => (r l).2.uf) ∧
    { t with flags := c.t.flags } = laneResults n w (fun l => (r l).1) c

/-- Conversions (R104 to R107): elements converted in their order, integers, and blocks with their scale; SR uses the instruction count. -/
def Obligations.Conversions : Prop :=
  ∀ (i : Issue) (w : IWord) (s : State) (c : Ctx),
    let p := past w c
    let f := cvtDst w
    let m := modeOf w.mod
    (Issues i w (fun _ => cvtForm w) s c →
      exec (.cvt i w) s = .next (retiresSr (w.mod == 4) c (flaggedResults (cvtDstRegs w) w (cvtLane w p) p))) ∧
    (Issues i w (fun _ => f2iForm w) s c →
      exec (.cvtF2i i w) s = .next (retires c (flaggedResults (typeRegs w) w (fun l =>
        fToInt f m (typeSigned w) (typeBits w) (readFlt p.t (fltWide w) l w.srcA w.imm % 2 ^ f.width)) p))) ∧
    (Issues i w (fun _ => i2fForm w) s c →
      exec (.cvtI2f i w) s = .next (retires c (flaggedResults (fltN w) w (fun l =>
        let v := readInt p.t (typeWide w) l w.srcA w.imm
        let x : Int := if typeSigned w then toSigned (typeBits w) v else v
        f.round m (ext w 100 100 == 1) (decide (x < 0)) x.natAbs 0 false) p))) ∧
    (Issues i w (fun _ => blkForm w) s c →
      (c.on = [] → exec (.cvtBlk i w) s = .next (retiresSr (w.mod == 4) c p.t)) ∧
      ∀ first rest, c.on = first :: rest → exec (.cvtBlk i w) s = .next (retiresSr (w.mod == 4) c
        (writeU (ext w 111 106) (BitVec.ofNat 32 (blkConvert w p first).1)
          (writeFlags [(blkConvert w p first).2.2]
            (writeLanes 1 w.dst (c.on.map fun l => (l, ((blkConvert w p first).2.1[l]?).getD 0)) p.t)))))

/-- An out-of-range or NaN float becomes the nearest bound or 0, with NV (R105). -/
def Obligations.FloatToIntegerSaturates : Prop :=
  ∀ (k : Nat) (f : Fmt), fmtOf k = some f → ∀ (mode : RMode) (signed : Bool) (n a : Nat), n = 32 ∨ n = 64 →
    let lo : Int := if signed then -(2 ^ (n - 1)) else 0
    let hi : Int := if signed then 2 ^ (n - 1) - 1 else 2 ^ n - 1
    (∀ q, f.decode a = .nan q → fToInt f mode signed n a = (0, flagNv)) ∧
    (∀ neg, f.decode a = .inf neg → fToInt f mode signed n a = (((if neg then lo else hi) % 2 ^ n).toNat, flagNv)) ∧
    (∀ neg m e, f.decode a = .fin neg m e →
      let v : Int := (if neg then -1 else 1) * ((roundAt mode neg m e 0 false).1 : Int)
      (lo ≤ v → v ≤ hi → fToInt f mode signed n a = ((v % 2 ^ n).toNat, noFlags)) ∧
      (v < lo → fToInt f mode signed n a = ((lo % 2 ^ n).toNat, flagNv)) ∧ (hi < v → fToInt f mode signed n a = ((hi % 2 ^ n).toNat, flagNv)))

/-! ## Instructions: control flow and system -/

/-- Branches (R108, R110, R129): where no harness region would be split, the threads whose guard is true go to their targets; a call pushes PC + 16 and a
return pops. A misaligned indirect target, a return with an empty stack, a call at depth 32 and a branch that would split a harness region branch no thread but
raise their job faults. -/
def Obligations.Branches : Prop :=
  (∀ (i : Issue) (w : IWord) (s : State) (c : Ctx),
     let p := past w c
     let target : W64 := c.g.pc + BitVec.ofInt 64 (16 * w.imm.toInt)
     let direct := c.on.map fun l => (l, target)
     let indirect := c.on.map fun l => (l, BitVec.ofNat 64 (read64 p.t l w.srcA w.imm))
     let popped := c.on.map fun l => (l, ((thread p.t l).stack.head?).getD 0)
     (Issues i w (fun _ => ctlForm true true) s c → splits p direct = false → exec (.jmp i w) s = .next (retires c (p.t.branch direct))) ∧
     (Issues i w (fun _ => jmpiForm) s c → splits p indirect = false → (∀ x ∈ indirect, x.2.toNat % 16 = 0) →
       exec (.jmpi i w) s = .next (retires c (p.t.branch indirect))) ∧
     (Issues i w (fun _ => ctlForm true true) s c → splits p direct = false → (∀ l ∈ c.on, (thread p.t l).stack.length < 32) →
       exec (.call i w) s = .next (retires c
         ((c.on.foldl (fun t l => modStack l (fun k => (c.g.pc + 16) :: k) t) p.t).branch direct))) ∧
     (Issues i w (fun _ => bareForm) s c → splits p popped = false → (∀ l ∈ c.on, (thread p.t l).stack ≠ []) →
       exec (.ret i w) s = .next (retires c ((c.on.foldl (fun t l => modStack l (List.drop 1) t) p.t).branch popped)))) ∧
  (∀ (i : Issue) (w : IWord) (s : State) (c : Ctx),
     let p := past w c
     let direct := c.on.map fun l => (l, c.g.pc + BitVec.ofInt 64 (16 * w.imm.toInt))
     let raises (code : Nat) : Host.Outcome State Fault Refusal := .next (leaves s (retired c (finish (jobFault c.unit code 0 s))))
     (Issues i w (fun _ => ctlForm true true) s c → splits p direct = true → exec (.jmp i w) s = raises harnessSplit) ∧
     (Issues i w (fun _ => jmpiForm) s c → (∃ l ∈ c.on, (BitVec.ofNat 64 (read64 p.t l w.srcA w.imm)).toNat % 16 ≠ 0) →
       exec (.jmpi i w) s = raises illegalInstr) ∧
     (Issues i w (fun _ => ctlForm true true) s c → (∃ l ∈ c.on, 32 ≤ (thread p.t l).stack.length) → exec (.call i w) s = raises callDepth) ∧
     (Issues i w (fun _ => bareForm) s c → (∃ l ∈ c.on, (thread p.t l).stack = []) → exec (.ret i w) s = raises illegalInstr))

/-- After a jmp each thread of the group stands at PC + 16 × IMM where its guard is true and at PC + 16 elsewhere, and no other thread has moved (R83, R84,
R108). -/
def Obligations.JumpMovesTheThreadsWhoseGuardIsTrue : Prop :=
  ∀ (i : Issue) (w : IWord) (s : State) (c : Ctx), Issues i w (fun _ => ctlForm true true) s c → groupsApart c.t → c.t.harness = none →
    ∃ t y, exec (.jmp i w) s = .next t ∧ getTeam t i.core.val i.slot.val i.team.val = some y ∧
      (∀ l ∈ c.g.lanes, pcOf y l = some (if guardTrue w c.t l then c.g.pc + BitVec.ofInt 64 (16 * w.imm.toInt) else c.g.pc + 16)) ∧
      (∀ l, l ∉ c.g.lanes → pcOf y l = pcOf c.t l)

/-- Ends, joins, barriers, dozes, traps and nop (R108, R109). -/
def Obligations.EndsAndWaits : Prop :=
  ∀ (i : Issue) (w : IWord) (s : State) (c : Ctx),
    let p := past w c
    let holds (x : GWait) : Host.Outcome State Fault Refusal := .next (retires c (p.t.modHead fun g => { g with wait := some x }))
    (Issues i w (fun _ => bareForm) s c →
      exec (.nop i w) s = .next (retires c p.t) ∧
      (c.t.live &&& ~~~laneMask c.on ≠ 0 →
        exec (.endThread i w) s = .next (retired c (joinsOver c.core c.slot c.team (c.put (endLanes p))))) ∧
      (c.t.live &&& ~~~laneMask c.on = 0 →
        exec (.endThread i w) s = .next (leaves s (retired c (finish (exitBlock c.core c.slot (closeEnded c.core c.slot c.team
          (joinsOver c.core c.slot c.team (c.put (endLanes p)))))))))) ∧
    (Issues i w (fun _ => joinForm) s c → mmaStores s c.core c.slot c.team = true →
      exec (.teamJoin i w) s = holds (.join (c.on.map fun l => (l, BitVec.ofNat 32 (read32 p.t l w.srcA w.imm))))) ∧
    (Issues i w (fun _ => joinForm) s c → mmaStores s c.core c.slot c.team = false →
      exec (.teamJoin i w) s = .next (retired c (modTeam c.core c.slot c.team checkJoins
        (c.put (p.t.modHead fun g => { g with wait := some (.join (c.on.map fun l => (l, BitVec.ofNat 32 (read32 p.t l w.srcA w.imm)))) }))))) ∧
    (Issues i w (fun _ => barrierForm w) s c → exec (.blockWait i w) s = holds (.barrier (Fin.ofNat 16 w.imm.toNat))) ∧
    (Issues i w (fun _ => dozeForm w) s c → c.on ≠ [] → exec (.doze i w) s = holds .doze) ∧
    (Issues i w (fun _ => ctlForm true true) s c → c.on ≠ [] →
      exec (.trap i w) s = .next (leaves s (retired c (finish (jobFault c.unit trapFault w.imm s)))))

/-- Special registers, flags and cache invalidation (R111 to R113, R253). CLOCK counts on from what the block last knew, within its bound, rounded down to a multiple of 2^16 in a
confidential paddock; the ac that have elapsed are a free value (log 10). -/
def Obligations.SystemInstructions : Prop :=
  (∀ (i : Issue) (w : IWord) (s : State) (c : Ctx),
     let p := past w c
     let gives (f : Nat → Nat) : Host.Outcome State Fault Refusal := .next (retires c (laneResults 1 w f p))
     (Issues i w (fun _ => sregForm w) s c →
       (∀ f : Nat → Nat,
         (w.imm = 0 ∧ f = fun l => l) ∨ (w.imm = 1 ∧ f = fun _ => i.team.val) ∨ (w.imm = 2 ∧ f = fun _ => c.b.block.toNat) ∨
         (w.imm = 3 ∧ f = fun _ => c.b.member) ∨ (w.imm = 4 ∧ f = fun _ => i.core.val) ∨ (w.imm = 5 ∧ f = fun _ => coreX i.core.val) ∨
         (w.imm = 6 ∧ f = fun _ => coreY i.core.val) ∨ (w.imm = 7 ∧ f = fun _ => c.b.plotIdx) ∨
         (w.imm = 9 ∧ f = fun _ => s.beat.count.toNat % 2 ^ 32) ∨ (w.imm = 10 ∧ f = fun _ => s.beat.count.toNat / 2 ^ 32) →
         exec (.sreg i w) s = gives f) ∧
       (w.imm = 8 → exec (.sreg i w) s = gives (fun _ => match c.b.src with | .stage j _ => j | .launch _ => 0))) ∧
     (Issues i w (fun _ => flagsRdForm) s c →
       exec (.flagsRd i w) s = gives (fun _ => (BitVec.ofNat 32 (b2n c.t.flags.nv + 2 * b2n c.t.flags.of + 4 * b2n c.t.flags.uf)).toNat)) ∧
     (Issues i w (fun _ => ctlForm true true) s c → c.on ≠ [] →
       exec (.flagsClr i w) s = .next (retires c { p.t with flags :=
         { nv := c.t.flags.nv && !w.imm.getLsbD 0, of := c.t.flags.of && !w.imm.getLsbD 1, uf := c.t.flags.uf && !w.imm.getLsbD 2 } })) ∧
     (Issues i w (fun _ => bareForm) s c → c.on ≠ [] →
       exec (.invalConst i w) s = .next (retired c (invalCaches c.core true false (c.put p.t))) ∧
       exec (.invalDesc i w) s = .next (retired c (invalCaches c.core false true (c.put p.t)))) ∧
     (∀ u core, (getCore (invalCaches core true false u) core).constant = [] ∧ (getCore (invalCaches core false true u) core).desc = [] ∧
       (getCore (invalCaches core true false u) core).desc = (getCore u core).desc ∧
       (getCore (invalCaches core false true u) core).constant = (getCore u core).constant)) ∧
  (∀ (i : Issue) (w : IWord) (s : State) (c : Ctx), Issues i w (fun _ => sregForm w) s c → w.imm = 11 ∨ w.imm = 12 →
     let v := (c.b.counted (Config.elapsedAc s.free).toNat).ac.toNat
     let x := if isConf s c.b.pad then v / 65536 * 65536 else v
     ∃ t y, exec (.sreg i w) s = .next t ∧ t.free = s.free + 1 ∧ getTeam t i.core.val i.slot.val i.team.val = some y ∧
       (getBlock t i.core.val i.slot.val).map (fun b => b.ac) = some (c.b.counted (Config.elapsedAc s.free).toNat).ac ∧
       ∀ l ∈ c.on, ∀ r, opd w.dst = .gen r → r ≠ 255 → readG y l r = BitVec.ofNat 32 (if w.imm = 11 then x else x / 2 ^ 32))
/-! ## Instructions: memory, copies, matrices, anchored sums, posts, paths -/

/-- ld, st, atom and red (R93, R114 to R117, R121): where no lane breaks a rule of access, an access that names another memory than the block's own local store
goes on its way with each lane's address and data; one with every guard false does nothing; nothing of any memory has changed yet. A lane that breaks a rule
raises its job fault: LOCAL_RANGE before MISALIGNED, the lowest lane first. -/
def Obligations.MemoryInstructions : Prop :=
  (∀ e ∈ ([(.ld, .ld), (.st, .st), (.atom, .atom), (.memRed, .red)] : List ((Issue → IWord → Instr) × MemKind)),
     ∀ (i : Issue) (w : IWord) (s : State) (c : Ctx), Issues i w (fun _ => memForm e.2 w) s c →
       let p := past w c
       (c.on = [] → exec (e.1 i w) s = .next (retires c p.t)) ∧
       (c.on ≠ [] → (∀ l ∈ c.on, laneFault w p l = none) → ownLocal (newAccess e.2 w p) p = false →
         exec (e.1 i w) s = .next (retired c { c.put p.t with accs := s.accs ++ [newAccess e.2 w p], nextAcc := s.nextAcc + 1 })) ∧
       (newAccess e.2 w p).lanes.map (fun l => (l.lane, l.addr, l.data)) =
         c.on.map (fun l => (l, memAddr w p l, readData p.t (memBytes w) l w.srcB w.imm))) ∧
  (∀ e ∈ ([(.ld, .ld), (.st, .st), (.atom, .atom), (.memRed, .red)] : List ((Issue → IWord → Instr) × MemKind)),
     ∀ (i : Issue) (w : IWord) (s : State) (c : Ctx) (l : Nat) (before after : List Nat), Issues i w (fun _ => memForm e.2 w) s c →
       let p := past w c
       let raises (code : Nat) : Host.Outcome State Fault Refusal := .next (leaves s (retired c (finish (jobFault c.unit code 0 s))))
       c.on = before ++ l :: after → (∀ k ∈ before, laneFault w p k = none) →
       (memSpace w = 0 → localBad c.b false (memAddr w p l) (memBytes w) = true → exec (e.1 i w) s = raises localRange) ∧
       (memSpace w = 0 → localBad c.b false (memAddr w p l) (memBytes w) = false → memAddr w p l % memBytes w ≠ 0 →
         exec (e.1 i w) s = raises misaligned) ∧
       (memSpace w ≠ 0 → memAddr w p l % memBytes w ≠ 0 → exec (e.1 i w) s = raises misaligned))

/-- A store to the block's own local store that nothing earlier holds is performed at issue (R92, R94, R114; DEDUCED, log 40): the bytes of the lanes, in
ascending order, and no other byte of any memory. -/
def Obligations.OwnLocalStore : Prop :=
  ∀ (i : Issue) (w : IWord) (s : State) (c : Ctx), Issues i w (fun _ => memForm .st w) s c →
    let p := past w c
    let a := newAccess .st w p
    let started : State := { c.put p.t with accs := s.accs ++ [a], nextAcc := s.nextAcc + 1 }
    c.on ≠ [] → (∀ l ∈ c.on, laneFault w p l = none) → ownLocal a p = true → (∀ b ∈ s.accs, b.id < s.nextAcc) →
    blockedBy started c.core c.slot c.team a.id a.compact (accSpans started a) = false →
    copiesBefore started c.core c.slot c.team a.id a.compact (accSpans started a) = [] →
    exec (.st i w) s = .next (retired c
      { modLocal c.core c.slot (fun m => c.on.foldl (fun m l =>
          mwrites m (memAddr w p l % 524288) (leBytes (memBytes w) (readData p.t (memBytes w) l w.srcB w.imm))) m) (c.put p.t)
        with nextAcc := s.nextAcc + 1 })

/-- A load from the block's own local store that nothing earlier holds is performed at issue: each lane's register takes the bytes at its address. -/
def Obligations.OwnLocalLoad : Prop :=
  ∀ (i : Issue) (w : IWord) (s : State) (c : Ctx), Issues i w (fun _ => memForm .ld w) s c →
    let p := past w c
    let a := newAccess .ld w p
    let started : State := { c.put p.t with accs := s.accs ++ [a], nextAcc := s.nextAcc + 1 }
    c.on ≠ [] → (∀ l ∈ c.on, laneFault w p l = none) → ownLocal a p = true → (∀ b ∈ s.accs, b.id < s.nextAcc) →
    blockedBy started c.core c.slot c.team a.id a.compact (accSpans started a) = false →
    copiesBefore started c.core c.slot c.team a.id a.compact (accSpans started a) = [] →
    exec (.ld i w) s = .next (retired c
      { c.put (writeLanes (max 1 (memBytes w / 4)) w.dst
          (c.on.map fun l => (l, leNat (mreads c.b.loc (memAddr w p l % 524288) (memBytes w)))) p.t)
        with nextAcc := s.nextAcc + 1 })

/-- cp and cp.rows (R118, R119): a copy that breaks no rule starts, with every guard false none does, and one that breaks a rule raises its job fault. -/
def Obligations.CopyInstructions : Prop :=
  ∀ e ∈ ([(.cp, false), (.cpRows, true)] : List ((Issue → IWord → Instr) × Bool)),
    ∀ (i : Issue) (w : IWord) (s : State) (c : Ctx), Issues i w (fun _ => cpyForm e.2 w) s c →
      let p := past w c
      let x := newCopy e.2 w p
      (c.on = [] → exec (e.1 i w) s = .next (retires c p.t)) ∧
      (c.on ≠ [] → copyFault c.b x = none →
        exec (e.1 i w) s = .next (retired c { c.put p.t with copies := s.copies ++ [x], nextAcc := s.nextAcc + 1 })) ∧
      (∀ code, c.on ≠ [] → copyFault c.b x = some code → exec (e.1 i w) s = .next (leaves s (retired c (finish (jobFault c.unit code 0 s))))) ∧
      (copyFault c.b x = none → x.rowLen ≠ 0 ∧ x.rows ≠ 0 ∧ x.rowLen % 16 = 0 ∧ x.total ≤ 480 * 1024 ∧ x.saddr % 16 = 0 ∧ x.daddr % 16 = 0)

/-- Harness regions (R124 to R127, R129): tiles are granted at once where no request is ahead and enough are free, else the request waits its turn; a region
closes once the team's matrix instructions have completed. -/
def Obligations.HarnessRegions : Prop :=
  ∀ (i : Issue) (w : IWord) (s : State) (c : Ctx),
    let p := past w c
    let n := w.imm.toNat
    let k := getCore s c.core
    (Issues i w (fun _ => openForm w) s c → c.t.harness = none → c.g.mask = c.t.live →
      (k.harnessQ = [] → n ≤ (freeTileList k).length → exec (.harnessOpen i w) s = .next (retired c (grantTiles c.core c.slot c.team n (c.put p.t)))) ∧
      (k.harnessQ ≠ [] ∨ (freeTileList k).length < n →
        let t := p.t.modHead fun g => { g with wait := some (.harness n) }
        exec (.harnessOpen i w) s = .next (retired c (setCore c.core
          { getCore (c.put p.t) c.core with harnessQ := k.harnessQ ++ [(c.slot, c.team, n)] } (c.put t))))) ∧
    (Issues i w (fun _ => closeForm w) s c → c.t.harness ≠ none → mmaBusy s c.core c.slot c.team = false →
      exec (.harnessClose i w) s = .next (retired c (freeTiles c.core c.slot c.team (c.put p.t))))

/-- The tiles of a grant are the lowest free ones, all +0 and taken from then on (R126). -/
def Obligations.GrantedTilesAreZero : Prop :=
  ∀ (s : State) (core slot team n : Nat) (t : Team), getTeam s core slot team = some t → n ≤ (freeTileList (getCore s core)).length →
    let u := grantTiles core slot team n s
    ∃ ks, getTeam u core slot team = some { t with harness := some ks } ∧ ks.length = n ∧ ks = (freeTileList (getCore s core)).take n ∧
      ∀ k ∈ ks, (getCore u core).tileUsed.getLsbD k.val = true ∧ ∀ a b, a < 64 → b < 64 → tileOf (getCore u core) k.val a b = 0

/-- The MMA family (R130 to R140): where the team is whole, the guard of its lowest live thread is true, the ranges lie in the block's local store and
nothing earlier holds them, and the matrix unit holds fewer than 8 instructions that it has not started, the instruction acts and takes its place in the
unit's queue, with the flags that land when it completes and the occupancy and completion of R141. -/
def Obligations.MatrixInstructions : Prop :=
  ∀ e ∈ ([(.mmaTile, fun w => mmaForm w, fun w => mmaRows w, fun w => mmaAct w, fun w => if ext w 101 101 = 1 then (8, 36) else (16, 44)),
      (.accZero, fun w => accZeroForm w, fun _ _ => [], fun w => accZeroAct w, fun _ => (4, 6)),
      (.accLd, fun w => accLdForm w, fun w c => [accRows w c], fun w => accLdAct w, fun _ => (64, 80)),
      (.accSt, fun w => accStForm w, fun w c => [accRows w c], fun w => accStAct w, fun w =>
        if (cvtDst w).width = 32 then (64, 84) else if (cvtDst w).width = 16 then (32, 52) else (16, 36)),
      (.accRd, fun w => accRdForm w, fun _ _ => [], fun w => accRdAct w, fun _ => (2, 8))] :
      List ((Issue → IWord → Instr) × (IWord → Ctx → Form) × (IWord → Ctx → List Rows) × (IWord → Ctx → State × Flags) × (IWord → Nat × Nat))),
    ∀ (i : Issue) (w : IWord) (s : State) (c : Ctx), Issues i w (e.2.1 w) s c →
      let p := past w c
      let xs := (e.2.2.1 w p).flatMap (Rows.spans c.core c.slot)
      notStarted (getCore s c.core).mmaQ < 8 → c.t.live = 0xFFFFFFFF → teamGuard w c.t = true → rowsFault c.b (e.2.2.1 w p) = none →
      blockedBy s c.core c.slot c.team s.nextAcc (compactPad s c.b.pad) xs = false →
      copiesBefore s c.core c.slot c.team s.nextAcc (compactPad s c.b.pad) xs = [] →
      let act := e.2.2.2.1 w p
      let u := enqueue (e.2.2.2.2 w) (!(e.2.2.1 w p).isEmpty) p act
      exec (e.1 i w) s = .next (leaves s (retired c u)) ∧
      (getCore u c.core).mmaQ = (getCore act.1 c.core).mmaQ ++
        [{ slot := c.slot, team := c.team, flags := act.2, store := !(e.2.2.1 w p).isEmpty, busy := (e.2.2.2.2 w).1, done := (e.2.2.2.2 w).2,
           started := false, own := true, frees := [] }]

/-- mma updates element (i, j) of its tile by the chunks of row i of A and row j of B in ascending order, from −0 under its zero modifier, and leaves the
columns beyond the matrix's as they were (R132, R134, R137); acc.zero makes every element +0 (R131). -/
def Obligations.TileElements : Prop :=
  ∀ (w : IWord) (c : Ctx) (i j : Nat), i < 64 → j < 64 →
    let m := matOf w
    let k := tileAt w c
    let before := tileOf (getCore c.s c.core) k i j
    let rowOf (r sc : Rows) (t : FVal) (n : Nat) : List (List (FVal × Bool)) := ((matRows m w.fmt.toNat t c.s c r sc)[n]?).getD []
    let a := rowOf (rowsA w c) (scalesA w c) (fp32.decode (readU c.t (mmaTsc w)).toNat) i
    let b := rowOf (rowsB w c) (scalesB w c) (fp32.decode (readU c.t (mmaTsc w + 1)).toNat) j
    (tileOf (getCore (mmaAct w c).1 c.core) k i j =
      if j < mmaCols w then BitVec.ofNat 32 (dotChunks (if mmaZero w then 0x80000000 else before.toNat) a b).1 else before) ∧
    tileOf (getCore (accZeroAct w c).1 c.core) k i j = 0

/-- The ANCH family (R143 to R146, R66, R67, R69, R71). -/
def Obligations.AnchoredInstructions : Prop :=
  ∀ (i : Issue) (w : IWord) (s : State) (c : Ctx),
    let p := past w c
    let addend (f : BitVec 9) (l : Nat) : FVal := anchVal w (read32 p.t l f w.imm)
    let nv (f : BitVec 9) : Flags := { nv := c.on.any fun l => (addend f l).signalling, of := false, uf := false }
    (Issues i w (fun _ => anchForm w group7 noUse noUse noUse) s c →
      exec (.anchZero i w) s = .next (retires c (mapGroups w (fun _ _ => LongForm.zero) p)) ∧
      exec (.anchTred i w) s = .next (retires c (mapGroups w (fun _ _ =>
        match c.on.map fun l => readGroup p.t l w.dst with | [] => LongForm.zero | x :: xs => xs.foldl longCombine x) p))) ∧
    (Issues i w (fun _ => anchForm w group7 noUse (src 1) (src 1)) s c →
      exec (.anchAdd i w) s = .next (retires c (addFlags (nv w.srcB) (mapGroups w (fun l x =>
        longCombine x (longEnter (BitVec.ofNat 10 (read32 p.t l w.srcC w.imm)) (addend w.srcB l))) p)))) ∧
    (Issues i w (fun _ => mergeForm w) s c →
      exec (.anchMerge i w) s = .next (retires c (mapGroups w (fun l x => longCombine x (readGroup p.t l w.srcA)) p))) ∧
    (Issues i w (fun _ => closeGroupForm w) s c →
      let r (l : Nat) : Nat × Flags :=
        let x := longClose (if w.fmt = 2 then bf16 else fp32) (BitVec.ofNat 10 (read32 p.t l w.srcC w.imm)) (readGroup p.t l w.srcA)
        (x.1, { x.2 with nv := (readGroup p.t l w.srcA).oppinf })
      (w.pen = false → exec (.anchClose i w) s = .next (retires c (flaggedResults 1 w r p))) ∧
      (w.pen = true → exec (.anchClose i w) s = .next (retires c
        (c.on.foldl (fun t l => writeP l w.pdst.toNat (readGroup p.t l w.srcA).ovf t) (flaggedResults 1 w r p))))) ∧
    (Issues i w (fun _ => probeForm w) s c →
      exec (.anchProbe i w) s = .next (retires c (addFlags (nv w.srcA) (laneResults 1 w (fun l =>
        (max (toSigned 16 (read32 p.t l w.srcB w.imm % 65536)) (probeExp (addend w.srcA l)) % 2 ^ 32).toNat) p)))) ∧
    (Issues i w (fun _ => pmaxForm w) s c →
      exec (.anchPmax i w) s = .next (retires c (laneResults 1 w (fun _ =>
        ((c.on.map fun l => toSigned 16 (read32 p.t l w.srcA w.imm % 65536)).foldl max (-32768) % 2 ^ 32).toNat) p)))

/-- Order independence of anchored sums (R68). A sum is a tree of combinations over long forms; entries of two trees over the same long forms, in any order
and shape, whose numbers sum in magnitude to at most 2^191 − 2: no combination saturates, and long form and closed result are the same bits. -/
def Obligations.AnchoredSumsDoNotDependOnOrder : Prop :=
  ∀ (x y : SumTree), x.leaves.Perm y.leaves → x.magnitude ≤ 2 ^ 191 - 2 →
    x.sum.bits = y.sum.bits ∧ (x.sum.ovf = true ↔ ∃ l ∈ x.leaves, l.ovf = true) ∧
    ∀ f a, (longClose f a x.sum).1 = (longClose f a y.sum).1

/-- The bound of the anchor probe (R72): n addends whose probe exponents are at most P, under an anchor of at least P + ceil(log2 n) − 29, keep the condition
of R68, and no combination saturates. -/
def Obligations.ProbedAnchorsDoNotSaturate : Prop :=
  ∀ (vs : List FVal) (P : Int) (A : BitVec 10) (t : SumTree), vs ≠ [] →
    (∀ v ∈ vs, ∃ n m e, v = .fin n m e) → (∀ v ∈ vs, probeExp v ≤ P) →
    P + (bitLen (vs.length - 1) : Int) - 29 ≤ A.toInt → t.leaves.Perm (vs.map (longEnter A)) →
    t.magnitude ≤ 2 ^ 191 - 2 ∧ t.sum.ovf = false

/-- Post instructions (R222 to R229): an add or set goes on its way to the home of its post, behind what the team sent before, or is dropped and counted
where the handle names no post; a wait registers; a read takes half of the count (the order of a team's own updates is the model's reading, log 37). -/
def Obligations.PostInstructions : Prop :=
  ∀ (i : Issue) (w : IWord) (s : State) (c : Ctx),
    let p := past w c
    let handle : W32 := BitVec.ofNat 32 (read32 p.t 0 w.srcA w.imm)
    let post := handlePost s c.b.pad handle
    let value := read32 p.t 0 w.srcB w.imm
    let long : W48 := BitVec.ofNat 48 (value + 2 ^ 32 * (read32 p.t 0 w.srcC w.imm % 65536))
    let upd (d : Nat) (isSet : Bool) (v : Nat) : PostUpd :=
      { id := s.posts.nextId, post := d, isSet := isSet, value := v, pad := some c.b.pad, after := accsBefore p, sends := sendsBefore p,
        team := some (c.core, c.slot, c.team), since := s.nextAcc }
    let sends (u : PostUpd) : State := retired c
      { c.put p.t with posts := { s.posts with upds := s.posts.upds ++ [u], nextId := s.posts.nextId + 1 } }
    (∀ u ∈ s.posts.upds, u.id < s.posts.nextId) → c.on ≠ [] →
    (Issues i w (fun _ => postAddForm) s c →
      (∀ d, post = some d → exec (.postAdd i w) s = .next (sends (upd d false value))) ∧
      (post = none → exec (.postAdd i w) s = .next (retired c (bumpPad c.b.pad 7 1 (c.put p.t))))) ∧
    (Issues i w (fun _ => postSetForm) s c →
      (∀ d, post = some d → exec (.postSetInstr i w) s = .next (sends (upd d true long.toNat))) ∧
      (post = none → exec (.postSetInstr i w) s = .next (retired c (bumpPad c.b.pad 7 1 (c.put p.t))))) ∧
    (Issues i w (fun _ => postWaitForm w) s c → ownUpd w p = false →
      exec (.postWaitInstr i w) s = .next (leaves s (retired c (registerWait (.group c.core c.slot c.team c.g.born) (coreDie c.core) post long
        (c.put (p.t.modHead fun g => { g with wait := some (.post (w.mod == 1) s.nextAcc) })))))) ∧
    (Issues i w (fun _ => postRdForm w) s c → ownUpd w p = false →
      let count := match post with | some d => (postValue s d).toNat | none => 0
      exec (.postRd i w) s = .next (retires c (laneResults 1 w (fun _ => if w.imm = 0 then count % 2 ^ 32 else count / 2 ^ 32) p)))

/-- path.send and path.inv (R181 to R183): a send whose range or alignment is wrong raises its job fault; one that no path takes is counted and dropped; else
the group waits in it until it has its credit. path.inv reads the invocation number. -/
def Obligations.PathInstructions : Prop :=
  ∀ (i : Issue) (w : IWord) (s : State) (c : Ctx),
    let p := past w c
    let addr := read32 p.t 0 w.srcA w.imm
    let len := read32 p.t 0 w.srcB w.imm
    let cons := read32 p.t 0 w.dst w.imm
    let path := ext w 103 96
    (Issues i w (fun _ => sendForm) s c → c.on ≠ [] →
      (∀ code, sendFault c.b addr len = some code → exec (.pathSend i w) s = .next (leaves s (retired c (finish (jobFault c.unit code 0 s))))) ∧
      (sendFault c.b addr len = none → sendPath s c.b path len cons = none →
        exec (.pathSend i w) s = .next (leaves s (retired c (bumpPad c.b.pad 9 1 (c.put p.t))))) ∧
      (sendFault c.b addr len = none → sendPath s c.b path len cons ≠ none →
        blockedBy s c.core c.slot c.team s.nextAcc (compactPad s c.b.pad) (spansAt s c.b.pad c.b.tag 0 c.core c.slot 0 addr len) = false →
        ∃ g r, p.t.ring = g :: r ∧
          let h : TGroup := { g with wait := some (.send path addr len (BitVec.ofNat 32 (read32 p.t 0 w.srcC w.imm)) cons s.nextAcc 0) }
          exec (.pathSend i w) s = .next (leaves s (retired c (trySend c.core c.slot c.team h (c.put { p.t with ring := h :: r })))))) ∧
    (Issues i w (fun _ => invForm w) s c →
      let n := match c.b.src with | .stage _ k => k | .launch _ => 0
      exec (.pathInv i w) s = .next (retires c (laneResults 1 w (fun _ => if w.imm = 0 then n % 2 ^ 32 else n / 2 ^ 32 % 2 ^ 32) p)))

/-- A word that breaks a rule of its form raises ILLEGAL_INSTR and does nothing else (R98, R99), whichever instruction it spells; so does a word whose family
or operation is refused. -/
def Obligations.RefusedWordsRaiseIllegalInstr : Prop :=
  ∀ (i : Issue) (w : IWord) (s : State) (c : Ctx), ready s i w = some c →
    let raises : Host.Outcome State Fault Refusal := .next (leaves s (finish (jobFault c.unit illegalInstr 0 s)))
    (∀ e ∈ ([(.intAdd, addSubForm), (.intSub, addSubForm), (.intMull, intForm2), (.intMin, intForm2), (.intAbs, intForm1), (.intShl, intFormShift),
        (.intCmp, cmpForm), (.fltAdd, fltForm2), (.fltSqrt, fltForm1), (.fltCmp, fltCmpForm), (.exp2Est, estForm), (.cvt, cvtForm), (.cvtF2i, f2iForm),
        (.cvtBlk, blkForm), (.blockWait, barrierForm), (.doze, dozeForm), (.sreg, sregForm), (.ld, memForm .ld), (.st, memForm .st), (.atom, memForm .atom),
        (.memRed, memForm .red), (.cp, cpyForm false), (.cpRows, cpyForm true), (.harnessOpen, openForm), (.harnessClose, closeForm),
        (.anchMerge, mergeForm), (.anchClose, closeGroupForm), (.anchProbe, probeForm), (.anchPmax, pmaxForm), (.postWaitInstr, postWaitForm),
        (.postRd, postRdForm), (.pathInv, invForm)] : List ((Issue → IWord → Instr) × (IWord → Form))),
      legal (shapeRegs c.b.shape) (e.2 w) w = false → exec (e.1 i w) s = raises) ∧
    ∀ x : BitVec 128, ready s i (wordFields x) = some c → refusedWord x c = true → exec (.illegalInstr i x) s = raises

/-- A job fault ends every block of every paddock: the first of a compute restart stops all of them (R121, R469). -/
def Obligations.JobFaultEndsEveryBlock : Prop :=
  ∀ (u : JobUnit) (code : Nat) (imm : W32) (s : State), restarting s = false →
    ∀ p ∈ s.pads.map Prod.fst, ∀ k ∈ (jobFault u code imm s).cores, ∀ b ∈ k.2.blocks, b.2.pad ≠ p

/-! ## Teams, accesses, lines, posts, packets, blocks -/

/-- Events of a team (R84, R109, R110, R126, R138 to R140): the next ready group takes its turn once a quantum is over, a doze ends, a barrier that every live
thread has reached opens, the oldest harness request gets tiles that are free, the oldest matrix instruction completes: its flags land in the team that issued it, and tiles
that an ended team left to it are free. A barrier waits for the matrix instructions of its teams that read or write the local store alone. -/
def Obligations.TeamEvents : Prop :=
  (∀ (i : Issue) (s : State) (t : Team) (g h : TGroup) (r : List TGroup), atWork s = true → getTeam s i.core.val i.slot.val i.team.val = some t →
    t.ring = g :: h :: r → g.wait = none → g.left = 0 → h.wait = none →
    exec (.quantumExpiry i) s = .next (leaves s (modTeam i.core.val i.slot.val i.team.val (fun _ => { t with ring := { h with left := 16 } :: (r ++ [g]) }) s))) ∧
  (∀ (i : Issue) (lane : Fin 32) (s : State) (t : Team), atWork s = true → getTeam s i.core.val i.slot.val i.team.val = some t →
    exec (.dozeExpiry i lane) s = .next (leaves s (modTeam i.core.val i.slot.val i.team.val
      (fun _ => ({ t with ring := t.ring.map fun g => if g.wait = some .doze ∧ g.mask.getLsbD lane.val = true then { g with wait := none } else g } : Team).merged) s))) ∧
  (∀ (core : Fin 1024) (slot n : Fin 16) (s : State) (b : Block), atWork s = true → getBlock s core.val slot.val = some b →
    (∀ e ∈ b.teams, e.2.live = 0 ∨ ∀ g ∈ e.2.ring, g.wait = some (.barrier n)) → (∀ e ∈ (getCore s core.val).mmaQ, e.slot = slot.val → e.own = true → e.store = false) →
    exec (.barrierRelease core slot n) s = .next (leaves s (setBlock core.val slot.val { b with teams := b.teams.map fun e =>
      (e.1, ({ e.2 with ring := e.2.ring.map fun g => if g.wait = some (.barrier n) then { g with wait := none } else g } : Team).merged) } s))) ∧
  (∀ (core : Fin 1024) (s : State) (slot team n : Nat) (r : List (Nat × Nat × Nat)), atWork s = true →
    (getCore s core.val).harnessQ = (slot, team, n) :: r → n ≤ (freeTileList (getCore s core.val)).length →
    exec (.harnessGrant core) s = .next (leaves s (modTeam core.val slot team (Team.releaseAll waitsTiles)
      (grantTiles core.val slot team n (setCore core.val { getCore s core.val with harnessQ := r } s))))) ∧
  (∀ (core : Fin 1024) (s : State) (e : MmaEntry) (r : List MmaEntry), atWork s = true → (getCore s core.val).mmaQ = e :: r →
    let kept := e.frees.foldl (fun (m : BitVec 8) k => m &&& ~~~(BitVec.ofNat 8 (2 ^ k.val))) (getCore s core.val).tileUsed
    let u := setCore core.val { getCore s core.val with mmaQ := r, tileUsed := kept } s
    (e.own = true → exec (.mmaComplete core) s = .next (leaves s (joinsOver core.val e.slot e.team (modTeam core.val e.slot e.team (addFlags e.flags) u)))) ∧
    (e.own = false → exec (.mmaComplete core) s = .next (leaves s u)))

/-- Accesses in flight (R92, R94, R114, R156, R241, R399): one that nothing of its team comes before is performed, of LOCAL at the local store that its address
names; of LOFT, once it has left its core and nothing holds it at its slice, at the commons. A dropped packet leaves its access lost (R162). -/
def Obligations.AccessesArePerformed : Prop :=
  ∀ (s : State) (id : Nat) (a : Access) (l : LaneAcc) (b : Block), atWork s = true → findAcc s id = some a → a.lanes = [l] →
    getBlock s a.core a.slot = some b → blockedBy s a.core a.slot a.team a.id a.compact (accSpans s a) = false →
    copiesBefore s a.core a.slot a.team a.id a.compact (accSpans s a) = [] →
    let p := localPlace b a.core a.slot l.addr
    let old := leNat (readLocal s p.1 p.2.1 p.2.2 a.bytes)
    let put (v : Nat) : State := modLocal p.1 p.2.1 (fun m => mwrites m p.2.2 (leBytes a.bytes v)) s
    let next := atomicOp a.aop.toNat a.signed a.bytes old l.data l.cmp
    (a.space = 0 → reqBehind s a = false →
      (a.kind = .ld → exec (.localReq ⟨id, .clean, none⟩) s = .next (leaves s (finish (performed { a with lanes := [{ l with got := old }] } s)))) ∧
      (a.kind = .st → exec (.localReq ⟨id, .clean, none⟩) s = .next (leaves s (finish (dropAccess a.id (put l.data))))) ∧
      (a.kind = .red → exec (.localReq ⟨id, .clean, none⟩) s = .next (leaves s (finish (dropAccess a.id (teamFlags a next.2 (put next.1)))))) ∧
      (a.kind = .atom → exec (.localReq ⟨id, .clean, none⟩) s =
        .next (leaves s (finish (performed { a with lanes := [{ l with got := old }] } (teamFlags a next.2 (put next.1))))))) ∧
    (∀ (u v : State) (x : Level), a.space = 1 → a.ro = false → leaveCore a s = (u, some { a with level := some x }) →
      outranked u x (accArbiters u a) = false → lanesHold { a with level := some x } u = (v, false) →
      (a.kind = .st → ∀ ecc, exec (.loftReq ⟨id, none⟩ ecc) s =
        .next (leaves s (finish (dropAccess a.id (commonsWrite a.pad l.addr (leBytes a.bytes l.data) v))))) ∧
      (a.kind = .ld → commonsPoison v a.pad l.addr a.bytes = false →
        let x' := commonsRead a.pad (some (Fin.ofNat 1024 a.core)) l.addr a.bytes v
        exec (.loftReq ⟨id, none⟩ .clean) s =
          .next (leaves s (finish (performed { a with level := some x, lanes := [{ l with got := leNat x'.2.1 }] } x'.1))))) ∧
    (∀ (r : Fin 1024) (ecc : EccResult), a.space = 1 → a.lost = false →
      exec (.loftReq ⟨id, some r⟩ ecc) s = .next (leaves s (bump (1024 + coreDie r.val) 1
        { s with accs := s.accs.map fun b => if b.id = id then { b with lost := true } else b })))

/-- The reply of an access writes its registers, lane by lane, and the access is over (R114); bytes of a copy whose source has been read land at a local store, and
the post counts them (R118, R119, R225). -/
def Obligations.RepliesAndCopiesLand : Prop :=
  (∀ (s : State) (id : Nat) (a : Access), atWork s = true → a.id = id → a.performed = true → rspBehind s a = false →
     let t := dropAccess id (modTeam a.core a.slot a.team (writeLanes (max 1 (a.bytes / 4)) a.dst (a.lanes.map fun l => (l.lane, l.got))) s)
     ((s.accs.find? fun x => x.id == id && x.performed && !x.lost && (x.space == 0) == true) = some a → exec (.localRsp ⟨id, none⟩) s = .next (leaves s t)) ∧
     ((s.accs.find? fun x => x.id == id && x.performed && !x.lost && (x.space == 0) == false) = some a → exec (.loftRsp ⟨id, none⟩) s = .next (leaves s t))) ∧
  (∀ (s : State) (id n : Nat) (ecc : EccResult) (c : CopyRun) (b : Block), atWork s = true → (s.copies.find? fun x => x.id == id) = some c → c.read = c.total →
     copiesBefore s c.core c.slot c.team c.id c.compact (copySpans s c) = [] → c.dspace = 0 → getBlock s c.core c.slot = some b →
     0 < n → n ≤ 1024 → n ≤ grantBytes s c.pad [1, 2] → c.done % c.rowLen + n ≤ c.rowLen → c.done + n < c.total →
     let p := localPlace b c.core c.slot (c.dstAt c.done)
     exec (.copyPartLanded id n ecc) s = .next (leaves s (finish (addOpt c.pad c.handle n (putCopy { c with done := c.done + n }
       (modLocal p.1 p.2.1 (fun m => mwrites m p.2.2 (mreads c.buf c.done n)) s))))))

/-- Add-to-line requests at their home slice (R258 to R266): with nothing ahead and no anchor on an ordinary line the FP32 add is made in place; under an
anchor it opens the line where a pin is free; on a pinned line it is combined there, and under another anchor it only marks a mismatch. A spill ends with the
line in its slot, a reload with the line pinned again. -/
def Obligations.LineRequests : Prop :=
  ∀ (s : State) (id : Nat) (r : AddReq), atWork s = true → findAdd s id = some r →
    let t := markDirty r.half (1024 * r.line) s
    let ready := (lineHold r.half (1024 * r.line) true s).2 = false ∧ addBehind s r = false ∧ addPoison s r = .clean
    (ready → tfind t.loft.openLines r.key = none → r.anchor = none → exec (.addToLine id) s = .next (leaves s (finish (plainAdd r t)))) ∧
    (∀ (k : Nat) (v : W32) (w n : Nat) (p : Option Nat) (g : Byte), r.vals = [(k, v)] → r.src = .window w p n g →
      let use : Use := { pad := r.pad, cls := r.cls, last := false, core := none, team := none }
      let x := stackRead use r.half (1024 * r.line + 4 * k) 4 t
      plainAdd r t = landAdd r (stackWrite use r.half (1024 * r.line + 4 * k) (leBytes 4 (fAdd fp32 .rn (leNat x.2.1) v.toNat).1) x.1)) ∧
    (∀ a, ready → tfind t.loft.openLines r.key = none → r.anchor = some a → pinsOf t r.pad r.half ≠ 0 →
      (pinnedIn t r.pad r.key).length < pinsOf t r.pad r.half →
      exec (.addToLine id) s = .next (leaves s (finish (openWith r (freshOpen t r a .pinned) t)))) ∧
    (∀ o, ready → tfind t.loft.openLines r.key = some o → o.place = .pinned →
      exec (.addToLine id) s =
        .next (leaves s (finish (landAdd r (countDrops r o (setOpenLines (tput t.loft.openLines r.key (combineReq r o)) t))))) ∧
      (∀ a, r.anchor = some a → a ≠ o.anchor → combineReq r o = { o with mismatch := true })) ∧
    (∀ k n o, ((pinnedIn s r.pad r.key).find? isSpilling) = some (k, o) → o.place = .spilling n → slotHeld s r.pad n = false →
      let o' : OpenLine := { o with spilled := true, place := .slot n }
      exec (.spillDone id) s = .next (leaves s (finish (bumpPad r.pad 4 1 (putAdd { r with waits := false }
        (setOpenLines (tput s.loft.openLines k { o' with longs := [] }) (writeSlot r.pad n o' s))))))) ∧
    (∀ n o, tfind s.loft.openLines r.key = some o → o.place = .slot n → r.waits = true → addBehind s r = false → slotHeld s r.pad n = false →
      (pinnedIn s r.pad r.key).length < pinsOf s r.pad r.half →
      let o' : OpenLine := { readSlot s o.pad n o with place := .pinned, pinAge := s.loft.clock }
      let u := useSlot r.pad n false s
      let u := makeRoom 64 r.pad r.key { u with loft := { u.loft with clock := s.loft.clock + 1 } }
      exec (.reloadDone id) s =
        .next (leaves s (finish (landAdd r (countDrops r o' (setOpenLines (tput u.loft.openLines r.key (combineReq r o')) u))))))

/-- Updates and waits of posts at their home (R223, R224, R231, R384): an update that nothing holds back is applied, a set as it is, an add up to 2^48 − 1, and the
waits that then hold complete; a wait without an entry completes where it holds, else takes a free entry of its die; a command's wait that times out answers TIMED_OUT
with the post's value. -/
def Obligations.PostEvents : Prop :=
  (∀ (s : State) (id : Nat) (u : PostUpd), atWork s = true → (s.posts.upds.find? fun x => x.id == id) = some u → updHeld s u = false →
    (s.copies.filter fun c => u.after.contains c.id && decide (c.read < c.total)) = [] →
    let t : State := { s with posts := { s.posts with upds := s.posts.upds.filter fun x => x.id != id } }
    let old := (postValue s u.post).toNat
    let leavesAt (v : Nat) (t : State) : Prop :=
      exec (.postUpdate id) s = .next (leaves s (finish (releaseWaits u.post (setPostValue u.post (BitVec.ofNat 48 v) t))))
    (u.isSet = true → leavesAt u.value t) ∧
    (u.isSet = false → old + u.value < 2 ^ 48 → leavesAt (old + u.value) t) ∧
    (∀ p, u.isSet = false → u.pad = some p → 2 ^ 48 ≤ old + u.value → leavesAt (2 ^ 48 - 1) (bumpPad p 8 1 t))) ∧
  (∀ (s : State) (d : Nat) (v : W48), postValue (setPostValue d v s) d = v) ∧
  (∀ (s : State) (id : Nat) (w : PostWait), atWork s = true → (s.posts.waits.find? fun x => x.id == id && !x.entry) = some w →
    (waitHolds s w = true → exec (.waitPoll id) s = .next (leaves s (finish (completeWait w s)))) ∧
    (waitHolds s w = false → w.die < 8 → entriesUsed s w.die < 1024 →
      let waits := s.posts.waits.map fun x => if x.id = id then { x with entry := true } else x
      exec (.waitPoll id) s = .next (leaves s (finish { s with posts := { s.posts with waits := waits } })))) ∧
  (∀ (s : State) (seq : Nat) (c : Cmd) (post : BitVec 15) (target : W48) (timeout : W32) (w : PostWait) (d : Nat), awake s = true →
    findCmd s seq = some c → c.body = .postWait post target timeout → timeout ≠ 0 → c.began = true →
    (s.posts.waits.find? fun x => x.who == .cmd seq) = some w → w.post = some d →
    exec (.postWaitTimeout seq) s = .next (leaves s (finish (writeStatus seq timedOut (leBytes 6 (postValue s d).toNat) (dropWaits (fun x => x.id == w.id) s)))))

/-- Packets of paths (R151, R162, R167, R180, R184, R192): one whose check or address is wrong is dropped and counted at its router's die; PATH_DATA and RED of an
older generation and a late CREDIT are dropped and counted; PATH_DATA lands at its receiver; CREDIT gives its slots back and frees the replay slots before SEQ; a
contribution waits at its router until the fan-in is full, and at the consumer's router the tile is then delivered. -/
def Obligations.PathPackets : Prop :=
  ∀ (s : State) (id : Nat) (k : Pkt) (pl : Pipe) (p : PathRt), atWork s = true → pktFirst s k = true → pktPath (dropPkt id s) k = some (pl, p) →
    let t := dropPkt id s
    let is (kind : BitVec 4) : Prop := (s.mesh.pkts.find? fun x => x.id == id && (x.kind == kind || decide (7 ≤ x.kind.toNat))) = some k
    let sound : Prop := k.hchk = k.check ∧ k.refused = false ∧ k.inside s = true
    (∀ (bad : Option (Fin 1024)) (r : Nat), k.dropAt s bad = some r →
      (is 0 → exec (.pathData ⟨id, bad⟩) s = .next (leaves s (finish (bump (1024 + coreDie r) 1 t)))) ∧
      (is 1 → exec (.credit ⟨id, bad⟩) s = .next (leaves s (finish (bump (1024 + coreDie r) 1 t)))) ∧
      (is 2 → exec (.red ⟨id, bad⟩) s = .next (leaves s (finish (bump (1024 + coreDie r) 1 t))))) ∧
    (¬ sound → k.dropAt s none = some k.dest) ∧ (∀ r : Fin 1024, k.dropAt s (some r) = some r.val) ∧
    (sound → k.gen ≠ p.gen →
      (is 0 → exec (.pathData ⟨id, none⟩) s = .next (leaves s (finish (bumpPad k.pad 11 1 t)))) ∧
      (is 1 → exec (.credit ⟨id, none⟩) s = .next (leaves s (finish (bumpPad k.pad 11 1 t)))) ∧
      (is 2 → exec (.red ⟨id, none⟩) s = .next (leaves s (finish (bumpPad k.pad 11 1 t))))) ∧
    (∀ r, sound → k.gen = p.gen → is 0 → ((receivers pl.recs p.cfg).find? fun r => r.1 == k.m && r.2.2 == k.dest) = some r →
      exec (.pathData ⟨id, none⟩) s = .next (leaves s (finish (landTile k.pad pl p r.1 r.2.1 r.2.2 k.rank k.seq k.offset k.last k.payload t)))) ∧
    (sound → k.gen = p.gen → is 1 →
      let r := getPair pl.recs p k.rank (k.m % 1024)
      let r' : PairRt := { r with credits := r.credits.map (fun e => if e.1 = k.m then (e.1, e.2 + k.count) else e),
                                  replay := r.replay.filter fun x => decide (k.seq ≤ x.1) }
      exec (.credit ⟨id, none⟩) s = .next (leaves s (finish (retrySends k.pad
        (modPath k.pad p.cfg.path.toNat (fun x => { x with pairs := tput x.pairs (pairKey p.cfg k.rank (k.m % 1024)) r' }) t))))) ∧
    (∀ r rest, sound → k.gen = p.gen → is 2 → s.mesh.red = [] → receivers pl.recs p.cfg = r :: rest →
      (1 < fanIn pl.recs p.cfg k.dest → exec (.red ⟨id, none⟩) s = .next (leaves s (finish { t with mesh := { t.mesh with red :=
        [{ router := k.dest, pad := k.pad, path := k.path, gen := k.gen, seq := k.seq, offset := k.offset, got := [k] }] } }))) ∧
      (fanIn pl.recs p.cfg k.dest ≤ 1 → k.dest = r.2.2 →
        exec (.red ⟨id, none⟩) s = .next (leaves s (finish
          (landTile k.pad pl p r.1 r.2.1 k.dest 0 k.seq 0 true (deliveredTile p.cfg (combinePkts p.cfg [k])) t)))))

/-- Blocks and invocations (R79, R91, R122, R174, R184, R195): a core takes the next block of a launch; the watchdog raises WATCHDOG on a block still
resident, whose count of ac passes its bound; an
invocation whose blocks have all exited ends, its local stores persist and its tiles are committed; a move ends with DONE once nothing of its replays is in
flight and the restarted blocks stand. -/
def Obligations.BlockEvents : Prop :=
  (∀ (s t : State) (pad : Fin 32) (core : Fin 1024) (d : Pad) (l : Launch), atWork s = true → getPad s pad.val = some d → restarting s = false →
    s.pwr.stalled.contains pad.val = false → startStageBlock pad.val core.val { s with pwr := { s.pwr with state := .gallop } } = none → d.launches = [l] →
    startLaunchBlock pad.val core.val l { s with pwr := { s.pwr with state := .gallop } } = some t →
    exec (.blockStart pad core) s = .next (leaves s (finish t))) ∧
  (∀ (s : State) (core : Fin 1024) (slot : Fin 16) (b : Block), atWork s = true → getBlock s core.val slot.val = some b → b.exited = false →
    ∃ u : JobUnit, u.uindex = core.val ∧ u.pad = b.pad ∧ u.block = b.block ∧
      exec (.watchdog core slot) s = .next (leaves s (finish (jobFault u watchdogFault 0
        { setBlock core.val slot.val { b with ac := BitVec.ofNat 64 (b.bound.toNat + 1) } s with free := s.free + 2 })))) ∧
  (∀ (s : State) (pad : Fin 32) (stage : Fin 64) (pl : Pipe) (x : StageRt), atWork s = true → getPipe s pad.val = some pl → stageRt pl stage.val = some x →
    x.running = true → invocationOver s pad.val x = true →
    let locals := x.cfg.cores.zipIdx.foldl (fun t c => tput t c.2 (stageLocal s pad.val stage.val c.1)) x.locals
    let others (s : State) (n : Nat) : Tbl Block := (getCore s n).blocks.filter fun b => !(b.2.pad == pad.val && b.2.src == .stage stage.val x.inv)
    let u := x.cfg.cores.foldl (fun s n => setCore n { getCore s n with blocks := others s n } s) s
    let u := modStage pad.val stage.val (fun x => { x with inv := x.inv + 1, running := false, locals := locals.filter fun e => !e.2.isEmpty }) u
    let u := x.cfg.cores.foldl (fun s n => retireIfFree n s) (pl.paths.foldl (fun s p => commitPath pad.val pl stage.val x.inv p s) u)
    exec (.invocationEnd pad stage) s = .next (leaves s (finish (commitSteps pad.val (releaseStages pad.val (endPipe pad.val u)))))) ∧
  (∀ (s : State) (pad : Fin 32) (stage : Fin 64) (pl : Pipe) (m : MoveRt) (x : StageRt), atWork s = true → getPipe s pad.val = some pl →
    (pl.moves.find? fun m => m.took && m.stage == stage.val) = some m → stageRt pl stage.val = some x → (∀ q ∈ s.mesh.pkts, q.replay = false) → m.inv < x.inv →
    exec (.moveReplaysLanded pad stage) s = .next (leaves s (finish (statusOpt m.cmd done []
      (modPipe pad.val (fun p => { p with moves := p.moves.filter fun y => y != m }) s)))))

/-! ## Commands of the rings -/

/-- Every command (R352, R355, R358, R359): a packet that breaks a check is answered by a refusal, which is counted, and begins nothing; one that is accepted and
waits for nothing begins at once, and then the commands and requests that waited for what it did; while a write that came before it waits, a ring is not read
(R220). -/
def Obligations.CommandsAreRefusedOrBegin : Prop :=
  ∀ (h : CmdHdr) (b : Body) (s : State),
    (Takes h b s → exec (b.row h) s = .next (leaves s (settled s.ym.cmds.length (beginBody (begunCmd h b s) (taken h b s))))) ∧
    (ringLive s h.ring.val = true → apertWriteWaits s (ringPort s h.ring.val) = false → statusRoom (visitRing h.ring.val s) h.ring.val = true →
      checksOk (seen h b s) h b = false → still s = true → (∀ c ∈ s.ym.cmds, c.began = true) →
      exec (b.row h) s = .next (leaves s (refuse h.ring.val h.tag (seen h b s)))) ∧
    (ringLive s h.ring.val = true → apertWriteWaits s (ringPort s h.ring.val) = true → exec (b.row h) s = .next (leaves s s))

/-- Commands that concern the device (R332, R340, R370 to R372, R388 to R391, R462, R484, R500, R506, R526, R535, R548, R553): what each answers and changes; a warm
or cold start, and the loss of a half that the ring's own port is not on. -/
def Obligations.DeviceCommands : Prop :=
  (∀ (h : CmdHdr) (s : State),
     (Takes h .devInfo s → let t := taken h .devInfo s
       exec (.devInfo h) s = .next (answersDone s (infoResult t h.ring.val) t)) ∧
     (∀ q, Takes h (.faultAck q) s → exec (.faultAck h q) s = .next (answersDone s (leBytes 8 q.toNat) (ackRecord q (taken h (.faultAck q) s)))) ∧
     (∀ watts, Takes h (.pwrCap watts) s → h.paddock = 0xFF → capOk s none watts = true → s.beat.groups = [] →
       exec (.pwrCap h watts) s = .next (answersDone s [] (showCap (setPwr (fun p => { p with devcap := watts }) (taken h (.pwrCap watts) s))))) ∧
     (∀ keep x, Takes h (.pwrState x keep) s → pwrCode x.toNat = some s.pwr.state → exec (.pwrState h x keep) s =
       .next (answersDone s [] (taken h (.pwrState x keep) s))) ∧
     (∀ keep x, Takes h (.pwrState x keep) s → pwrCode x.toNat = some .walk → lowAllowed (taken h (.pwrState x keep) s) = true →
       exec (.pwrState h x keep) s = .next (answersDone s [] (enterLow .walk keep (taken h (.pwrState x keep) s)))) ∧
     (∀ mhz, Takes h (.pwrFixed true mhz) s → isStep mhz.toNat = true → (∀ d ∈ s.pwr.dies.toList, mhz.toNat ≤ d.ceil.toNat) →
       exec (.pwrFixed h true mhz) s = .next (begins s (setPwr (fun p => { p with fixes := p.fixes ++ [s.ym.seq] }) (taken h (.pwrFixed true mhz) s)))) ∧
     (∀ dest size nonce p fn, Takes h (.attReport dest size nonce) s → dest.toNat % 4096 = 0 → h.paddock = 0xFF → ringFunc s h.ring.val = some (p, fn) →
       let t := taken h (.attReport dest size nonce) s
       let bs := reportBytes t none nonce
       bs.length ≤ size.toNat → exec (.attReport h dest size nonce) s = .next (answersDone s (leBytes 4 bs.length) (hostWrites p dest.toNat bs t))) ∧
     (∀ beat slot, Takes h (.cntSnap beat slot) s → (s.cnt.slots[slot.toNat]).pend = none →
       let t := taken h (.cntSnap beat slot) s
       let k : Fin 4 := Fin.ofNat 4 slot.toNat
       exec (.cntSnap h beat slot) s =
         .next (begins s { t with cnt := { t.cnt with slots := t.cnt.slots.set k { t.cnt.slots[k] with pend := some (beat, s.ym.seq) } } })) ∧
     (∀ p, Takes h (.beatSet p) s → s.beat.pend = none →
       let x : BeatSet := { t0 := p.t0, n0 := p.n0, period := p.period, source := p.source, cmd := some s.ym.seq }
       exec (.beatSet h p) s = .next (begins s (setBeat (fun b => { b with pend := some x }) (taken h (.beatSet p) s))) ∧
       1 ≤ p.period.toNat ∧ p.period.toNat ≤ 10000 ∧ p.t0.toNat % 1000 = 0 ∧ (seen h (.beatSet p) s).beat.rt.toNat < p.t0.toNat ∧
       s.beat.count.toNat < p.n0.toNat ∧ p.source.toNat ≤ 1) ∧
     (∀ quad, Takes h (.testSelf quad []) s → halfIn s (quad.toNat / 16) = true → padOfQuad s quad.toNat = none →
       let t := taken h (.testSelf quad []) s
       exec (.testSelf h quad []) s = .next (answersDone s (leBytes 5 ((List.range 36).foldl
           (fun m i => if s.snaps.badSites.contains (36 * quad.toNat + i) then m else m + 2 ^ i) 0) ++
         [BitVec.ofNat 8 (freeSites s quad.toNat).length]) t)) ∧
     (∀ p d x, Takes h (.confEnter p) s → confOk s h.paddock.toNat p = true → getPad s h.paddock.toNat = some d → findSession s p.session = some x →
       (getSpace s d.p.taglo.toNat).draining = none →
       let t := taken h (.confEnter p) s
       let conf : Conf := { session := p.session, bounce := p.bounce, pages := p.pages, keyH2d := Config.hkdfExpand x.secret (bounceInfo false),
                            keyD2h := Config.hkdfExpand x.secret (bounceInfo true), ctrD2h := 1, ctrH2d := 0, authfail := 0, viewed := none }
       let t := modPad h.paddock.toNat (fun d => { d with conf := some conf })
         { t with shadow := { t.shadow with keepmax := none, migPeriod := none, floor := none } }
       exec (.confEnter h p) s = .next (begins s (confSpill (begunCmd h (.confEnter p) s) d.p.taglo.toNat
         (report (secErr t 0x04 0 (BitVec.ofNat 8 h.paddock.toNat) t.sec.version) t))))) ∧
  (∀ (h : CmdHdr) (s : State),
     (∀ restore, Takes h (.devWarm restore) s → exec (.devWarm h restore) s =
       .next (leaves s (settled s.ym.cmds.length (warmStart s.ym.seq restore (taken h (.devWarm restore) s))))) ∧
     (∀ keep c, Takes h (.testCold keep c) s → exec (.testCold h keep c) s =
       .next (leaves s (settled s.ym.cmds.length (coldStart keep c (taken h (.testCold keep c) s))))) ∧
     (∀ half p fn, Takes h (.devHalfloss half) s → ringFunc s h.ring.val = some (p, fn) → half.toNat ≤ 1 → half.toNat ≠ p.val →
       exec (.devHalfloss h half) s = .next (leaves s (settled s.ym.cmds.length
         (writeStatus s.ym.seq done [] (loseHalf (decide (half.toNat = 1)) (taken h (.devHalfloss half) s)))))))

/-- Extents and their moves (R278 to R280, R285, R289, R291, R297 to R299, R373 to R378): what each command changes, and what it answers at once. -/
def Obligations.ExtentCommands : Prop :=
  ∀ (h : CmdHdr) (s : State), let pad := h.paddock.toNat
    (∀ d pbase, Takes h (.extMap d) s → (getSpace s d.tag.toNat).draining = none → mapOk s pad d = true →
      freeRun s d.space d.half d.len.toNat = some pbase → d.len.toNat ≤ budgetLeft s pad d.space d.half →
      runZeroing s d.space d.half pbase d.len.toNat = false → runWaits s [(extentOf pad d pbase).run] = false → findExt s d.tag.toNat d.index.toNat = none →
      let t := taken h (.extMap d) s
      let e := extentOf pad d pbase
      let sp := getSpace s d.tag.toNat
      exec (.extMap h d) s = .next (answersDone s (leBytes 2 d.index.toNat ++ leBytes 2 sp.epoch.toNat ++ leBytes 4 (shownBase h.ring.val pbase))
        (setTable d.tag.toNat (sp.table ++ [e]) (giveExtent pad d e t)))) ∧
    (∀ tag index e, Takes h (.extUnmap tag index) s → (getSpace s tag.toNat).draining = none → unmapOk s pad tag.toNat index.toNat = true →
      findExt s tag.toNat index.toNat = some e →
      exec (.extUnmap h tag index) s = .next (begins s (replaceExt tag.toNat e [] (some s.ym.seq) none (taken h (.extUnmap tag index) s)))) ∧
    (∀ tag index hint e, Takes h (.adviseHint tag index hint) s → (getSpace s tag.toNat).draining = none → hint ≠ 0 →
      ownExt s pad tag.toNat index.toNat = some e →
      exec (.extAdviseHint h tag index hint) s = .next (begins s (changeTag tag.toNat
        ((getSpace s tag.toNat).table.map fun e => if e.index = index.toNat then { e with hint := hint } else e)
        { cmd := some s.ym.seq, freed := [], unshare := [], indices := [], mapped := none } (taken h (.adviseHint tag index hint) s)))) ∧
    (∀ r e, rangeExt s pad r = some e →
      (Takes h (.adviseHost r) s → exec (.extAdviseHost h r) s = .next (begins s (beginMoves s.ym.seq r e false (taken h (.adviseHost r) s)))) ∧
      (Takes h (.prefetch r) s → exec (.extPrefetch h r) s = .next (begins s (beginMoves s.ym.seq r e true (taken h (.prefetch r) s))))) ∧
    (∀ tag p fn, Takes h (.adviseAperture tag) s → tagOf s pad tag.toNat = true → ringFunc s h.ring.val = some (p, fn) →
      let t := taken h (.adviseAperture tag) s
      exec (.extAdviseAperture h tag) s =
        .next (answersDone s [] { t with xlt := { t.xlt with apert := tput t.xlt.apert (apertKey p fn) tag.toNat } })) ∧
    (∀ tag mode hot, Takes h (.adviseMigmode tag mode hot) s → migModeOk s pad tag.toNat mode hot = true →
      exec (.extAdviseMigmode h tag mode hot) s = .next (answersDone s []
        (setSpace tag.toNat { getSpace s tag.toNat with mig := mode, hot := hot } (taken h (.adviseMigmode tag mode hot) s)))) ∧
    (∀ p q fn, Takes h (.copy p) s → ringFunc s h.ring.val = some (q, fn) → copyOk s h.ring.val q pad p = true →
      exec (.copy h p) s = .next (leaves s (settled s.ym.cmds.length (beginCopy s.ym.seq q pad p (gallop (taken h (.copy p) s)))))) ∧
    (∀ p, Takes h (.extShare p) s → shareOk s pad p = true → exec (.extShare h p) s = .next (answersDone s [] (shareExtent pad p (taken h (.extShare p) s))))

/-- Paddock commands (R377 to R379, R392 to R396, R415): a paddock is created over what the pool gives it and the answer names its function and posts, or the answer
is NO_RESOURCE; a reset or destroy starts its course; a query answers the counts. -/
def Obligations.PaddockCommands : Prop :=
  ∀ (h : CmdHdr) (s : State), let pad := h.paddock.toNat
    (∀ p, Takes h (.padCreate p) s → let t := taken h (.padCreate p) s
      (freeVf t p.port = none → exec (.padCreate h p) s = .next (begins s (writeStatus s.ym.seq noResource [] t))) ∧
      (∀ vf, freeVf t p.port = some vf → poolGives t p = true → p.spille = 0 → p.spillw = 0 →
        let posts := givenPosts t p
        exec (.padCreate h p) s = .next (answersDone s ([BitVec.ofNat 8 (b2n p.port), BitVec.ofNat 8 vf] ++ leBytes 2 (postCount p))
          (givePad pad p (setPad pad (freshPad p vf posts) (zeroPosts posts t)))))) ∧
    (∀ d m, getPad s pad = some d → d.drain = none →
      let course (squash : Bool) (resets destroys : List Nat) (t : State) : State :=
        let u := modPad pad (fun d => { d with drain := some { squash := squash, resets := resets, destroys := destroys, step := 1 } }) t
        let u : State := { u with snaps := { u.snaps with restart := u.snaps.restart.map fun r => { r with toResume := r.toResume.filter (· != pad) } } }
        runDrain 8 pad (modPad pad (fun d => { d with resuming := false }) u)
      (Takes h (.padReset m) s → exec (.padReset h m) s =
        .next (leaves s (settled s.ym.cmds.length (course (m == 1) [s.ym.seq] [] (taken h (.padReset m) s))))) ∧
      (Takes h (.padDestroy m) s → exec (.padDestroy h m) s =
        .next (leaves s (settled s.ym.cmds.length (course (m == 1) [] [s.ym.seq] (taken h (.padDestroy m) s)))))) ∧
    (∀ d, Takes h .padQuery s → getPad s pad = some d → exec (.padQuery h) s = .next (answersDone s (queryResult d) (taken h .padQuery s)))

/-- Work (R171, R186, R187, R190, R381, R382, R411, R413): a launch, which is counted as it is taken, and a move wait; a pipeline is loaded where it is admitted, else the entry names the first check
that fails; a start zeroes the landing posts and waits for its beat; a sequence or batch is queued and answered ACCEPTED; a leave waits for a step formation. -/
def Obligations.WorkCommands : Prop :=
  ∀ (h : CmdHdr) (s : State) (d : Pad), let pad := h.paddock.toNat; getPad s pad = some d →
    (∀ p, Takes h (.jobLaunch p) s → launchOk s pad p = true → exec (.jobLaunch h p) s = .next (begins s (modPad pad (fun d => { d with
        launches := d.launches ++ [{ id := d.nextLaunch, cmd := some s.ym.seq, p := p, next := 0, ended := 0, first := none, mhz := 0 }],
        nextLaunch := d.nextLaunch + 1 }) (taken h (.jobLaunch p) s))) ∧
      (getPad (taken h (.jobLaunch p) s) pad).map (fun d => d.accepted) = some (d.accepted + 1)) ∧
    (∀ a tag, Takes h (.pipeLoad a tag) s → d.pipe = none → d.p.serve = 0 →
      let r := readTable pad tag.toNat a.toNat (taken h (.pipeLoad a tag) s)
      (admission r.1 pad r.2 (fun _ => []) = none → exec (.pipeLoad h a tag) s = .next (answersDone s [] (loadPipe pad a tag.toNat r.2 r.1))) ∧
      (∀ x, admission r.1 pad r.2 (fun _ => []) = some x →
        exec (.pipeLoad h a tag) s = .next (begins s (writeStatus s.ym.seq notAdmitted [BitVec.ofNat 8 x.1, BitVec.ofNat 8 x.2] r.1)))) ∧
    (∀ p pl, Takes h (.pipeStart p) s → d.pipe = some pl → pl.start = none → reached s p.b0.toNat = false →
      let posts := (pl.pathRecs.flatMap fun r => landingPosts pl.recs r).filterMap fun k => padPost s pad k
      let u := posts.foldl (fun t d => setPostValue d 0 t) (taken h (.pipeStart p) s)
      let st : StartRt := { b0 := p.b0, first := 0, seed := p.seed, count := p.count, epost := p.epost, accepted := false, ended := false, cmd := some s.ym.seq }
      exec (.pipeStart h p) s = .next (begins s (modPipe pad (fun q => { q with
        start := some st, stages := q.stages.map (fun x => { x with inv := 0, running := false, told := 0 }),
        paths := q.paths.map fun x => { x with pairs := [], commits := [] } }) u))) ∧
    (∀ p pl, Takes h (.pipeMove p) s → d.pipe = some pl →
      (moveAdmission s pad pl p.stage.toNat p.px.toNat p.py.toNat = none → exec (.pipeMove h p) s =
        .next (begins s (reserveMove (some s.ym.seq) pad p.stage.toNat p.px.toNat p.py.toNat (taken h (.pipeMove p) s)))) ∧
      (∀ x, moveAdmission s pad pl p.stage.toNat p.px.toNat p.py.toNat = some x → exec (.pipeMove h p) s =
        .next (begins s (writeStatus s.ym.seq notAdmitted [BitVec.ofNat 8 x.1, BitVec.ofNat 8 x.2] (taken h (.pipeMove p) s))))) ∧
    (∀ p, Takes h (.batchSubmit p) s → batchOk s pad p = true →
      let r := yardRead pad d.p.taglo.toNat p.addr.toNat 64 (taken h (.batchSubmit p) s)
      p.len.toNat = 64 + 32 * (fldAt r.2 8 2 % 2048) → (d.batches.filter fun b => b.step.isNone).length < 16 →
      exec (.batchSubmit h p) s = .next (begins s (writeStatus s.ym.seq accepted [] (logServing pad (begunCmd h (.batchSubmit p) s)
        (countAccepted pad (modPad pad (fun d => { d with batches := d.batches ++ [{ hdrTag := h.tag, p := p, step := none, counted := false }] }) r.1)))))) ∧
    (∀ p, Takes h (.seqJoin p) s → joinOk s pad p = true → (d.seqs.filter fun q => q.state == .pending).length < 4096 →
      exec (.seqJoin h p) s = .next (begins s (writeStatus s.ym.seq accepted (leBytes 4 d.nextSeq.toNat) (logServing pad (begunCmd h (.seqJoin p) s)
        (countAccepted pad (modPad pad (fun d => { d with seqs := d.seqs ++ [freshSeq d.nextSeq p], nextSeq := d.nextSeq + 1 }) (taken h (.seqJoin p) s))))))) ∧
    (∀ q, Takes h (.seqLeave q) s → d.p.serve = 1 →
      exec (.seqLeave h q) s = .next (begins s (logServing pad (begunCmd h (.seqLeave q) s) (taken h (.seqLeave q) s))))

/-- Posts, groups, windows, links, check units and snapshots (R294, R296, R342, R383 to R388, R425, R452, R475, R479, R481): what each changes and answers. -/
def Obligations.PostGroupWindowLinkCommands : Prop :=
  ∀ (h : CmdHdr) (s : State), let pad := h.paddock.toNat
    (∀ p v d, Takes h (.postSet p v) s → padPost s pad p.toNat = some d → s.posts.waits = [] →
      exec (.postSet h p v) s = .next (answersDone s [] (setPostValue d (BitVec.ofNat 48 v.toNat) (taken h (.postSet p v) s)))) ∧
    (∀ p v n d, Takes h (.postWait p v n) s → padPost s pad p.toNat = some d → postValue s d < v →
      let t := taken h (.postWait p v n) s
      let entry := decide (postDie d < 8) && decide (entriesUsed s (postDie d) < 1024)
      let w : PostWait := { id := s.posts.nextId, who := .cmd s.ym.seq, post := some d, die := postDie d, target := v, entry := entry }
      exec (.postWait h p v n) s = .next (begins s { t with posts := { t.posts with waits := t.posts.waits ++ [w], nextId := t.posts.nextId + 1 } })) ∧
    (∀ g, Takes h (.groupJoin g) s → groupJoinOk s g = true →
      exec (.syncGroupJoin h g) s = .next (answersDone s (leBytes 2 g.gid.toNat) (joinGroup g (taken h (.groupJoin g) s)))) ∧
    (∀ g, Takes h (.groupLeave g) s →
      exec (.syncGroupLeave h g) s = .next (answersDone s (leBytes 2 g.gid.toNat) (leaveGroup g.gid (taken h (.groupLeave g) s)))) ∧
    (∀ w, Takes h (.winOpen w) s → winOk s pad w = true →
      let x := getWin s w.win.toNat
      exec (.winOpen h w) s = .next (answersDone s [w.win, x.wgen + 1]
        (setWin w.win.toNat { x with isOpen := true, entry := w, wgen := x.wgen + 1, inflight := 0, closing := none, old :=
          if x.inflight = 0 then x.old else x.old ++ [(x.wgen, x.inflight, x.closing)] } (taken h (.winOpen w) s)))) ∧
    (∀ win, Takes h (.winClose win) s → (getWin s win.toNat).given = true → (getWin s win.toNat).pad = pad → (getWin s win.toNat).closing = none →
      0 < (getWin s win.toNat).inflight →
      exec (.winClose h win) s = .next (begins s (setWin win.toNat { getWin s win.toNat with isOpen := false, closing := some s.ym.seq }
        (taken h (.winClose win) s)))) ∧
    (∀ p, Takes h (.linkQuery p) s → exec (.linkStateQuery h p) s = .next (answersDone s (linkResult (getPort s (portOf p))) (taken h (.linkQuery p) s))) ∧
    (∀ p, Takes h (.linkEnable p) s → let u := linkEnable (portOf p) (taken h (.linkEnable p) s)
      exec (.linkStateEnable h p) s = .next (leaves s (settled s.ym.cmds.length (writeStatus s.ym.seq done (linkResult (getPort u (portOf p))) u)))) ∧
    (∀ p, Takes h (.linkDisable p) s → let u := linkDisable (portOf p) (taken h (.linkDisable p) s)
      exec (.linkStateDisable h p) s = .next (leaves s (settled s.ym.cmds.length (writeStatus s.ym.seq done (linkResult (getPort u (portOf p))) u)))) ∧
    (∀ p m w, Takes h (.linkSet p m w) s → let u := linkSet (portOf p) m w (taken h (.linkSet p m w) s)
      exec (.linkStateSet h p m w) s = .next (leaves s (settled s.ym.cmds.length (writeStatus s.ym.seq done (linkResult (getPort u (portOf p))) u)))) ∧
    (∀ west u poly, Takes h (.checkArm west u poly) s → (getChk s (checkKey west u)).user = none →
      exec (.checkSetupArm h west u poly) s = .next (answersDone s [] (setChk (checkKey west u) { getChk s (checkKey west u) with
        armed := true, poly := poly, bytes := 0, value := 0, run := [] } (taken h (.checkArm west u poly) s)))) ∧
    (∀ west u, Takes h (.checkRead west u) s →
      exec (.checkSetupRead h west u) s = .next (answersDone s (leBytes 8 (getChk s (checkKey west u)).value.toNat) (taken h (.checkRead west u) s))) ∧
    (∀ full, Takes h (.snapMark full) s → let t := taken h (.snapMark full) s
      exec (.snapMark h full) s = .next (begins s { t with snaps := { t.snaps with waiting := t.snaps.waiting ++ [(s.ym.seq, full)] } })) ∧
    (∀ g, Takes h (.snapRestore g) s → (∀ e ∈ s.pads, h.paddock = 0xFF ∨ e.1 = pad → padState e.2 = 0) →
      (genNamed s g = some none → exec (.snapRestore h g) s = .next (begins s (writeStatus s.ym.seq noData [] (taken h (.snapRestore g) s)))) ∧
      (∀ k, genNamed s g = some (some k) → let t := taken h (.snapRestore g) s
        gransWait t (restoreDue t k (restoreCovers h)) = false → exec (.snapRestore h g) s =
          .next (leaves s (settled s.ym.cmds.length (writeStatus s.ym.seq done [] (restoreGrans k (restoreCovers h) t)))))) ∧
    (∀ p, Takes h (.snapStream p) s → streamOk p = true →
      let t := taken h (.snapStream p) s
      (p.cont = true → exec (.snapStream h p) s = .next (begins s (writeStatus s.ym.seq accepted []
        (setStreams (s.snaps.streams ++ [{ gen := 0, p := p, cmd := none, second := false, active := false, due := false }]) t)))) ∧
      (∀ g, p.cont = false → genNamed s p.gen = some (some g) → imageBytes (imageGrans s g).length ≤ imageRoom p → p.unit = 0 →
        exec (.snapStream h p) s = .next (begins s
          (setStreams (s.snaps.streams ++ [{ gen := g, p := p, cmd := some s.ym.seq, second := false, active := true, due := false }]) t))))

/-! ## The beat -/

/-- The beat (R328 to R339, R343, R344, R354): a sweep visits every ring; a boundary moves the count to the next boundary's number and its time, and then the rows
of the boundary run; the reference is lost, counted and reported; good frames and Sync messages give RT and count toward a regain; a first lock starts the count
at its frame; a Sync of another domain changes nothing; a BEAT.SET whose T0 comes while no reference holds comes into force; a LATE notice is recorded once. -/
def Obligations.BeatEvents : Prop :=
  ∀ s : State, awake s = true →
    (s.ym.mode ≠ 1 → exec .sweep s = .next (leaves s (finish (sweepAll s)))) ∧
    (∀ r, ringLive s r = false → sweepRing r s = s) ∧
    (∀ m, s.beat.locked = true → s.beat.reached0 = true → s.beat.pend = none → s.beat.count.toNat < s.beat.next.toNat →
      let n := s.beat.next.toNat
      let u := moveCount s.beat.force n (beatTime s.beat.force n) s
      let v := (boundaryBeats s (s.beat.count.toNat + 1) n).foldl (fun t b => beatEvents m (b == n) b t) u
      let w := finish (sendLates m (tellRegained (retryTokens (statusOpt s.beat.force.cmd done [] v))))
      exec (.beatBoundary m) s = .next (leaves s (if w.ym.mode = 1 ∨ w.ym.mode = 2 then finish (sweepAll w) else w)) ∧
      u.beat.count = s.beat.next ∧ u.beat.rt = BitVec.ofNat 64 (beatTime s.beat.force n)) ∧
    (∀ cause, s.beat.locked = true → s.beat.source = causeSource cause → (cause = .port0 → ptpPort s = false) →
      exec (.referenceLost cause) s = .next (leaves s (finish (report (beatErr 0x01 2 0) (setBeat (fun b => { b with
        locked := false, regained := false, good := 0, sync := 0, lastFrame := none, losses := BitVec.ofNat 16 (min (b.losses.toNat + 1) 65535) }) s))))) ∧
    (∀ f : RefFrame, s.beat.source = 0 → f.good = true → s.beat.lastFrame = some (f.number - 1) →
      let u := setBeat (fun b => { b with lastFrame := some f.number, rt := (f.number + 1) * 1000000 }) s
      (s.beat.locked = true → exec (.beatRefFrame f) s = .next (leaves s (finish u))) ∧
      (s.beat.locked = false → exec (.beatRefFrame f) s = .next (leaves s (finish (setBeat (fun b => { b with good := b.good + 1 }) u))))) ∧
    (∀ m : SyncMsg, m.domain ≠ s.beat.ptpdom → exec (.ptpSyncMessage m) s = .next (leaves s (finish s))) ∧
    (∀ m : SyncMsg, s.beat.source = 1 → ptpPort s = true → m.domain = s.beat.ptpdom → m.step ≤ 1000 →
      let u := setBeat (fun b => { b with rt := m.time }) s
      (s.beat.locked = true → exec (.ptpSyncMessage m) s = .next (leaves s (finish u))) ∧
      (s.beat.locked = false → m.offset < 100 →
        exec (.ptpSyncMessage m) s = .next (leaves s (finish (setBeat (fun b => { b with sync := b.sync + 1 }) u))))) ∧
    (s.beat.locked = false → s.beat.source = 0 → 3 ≤ s.beat.good → s.beat.reached0 = false → s.beat.force.cmd = none → s.beat.force.t0 = 0 → s.beat.losses = 0 →
      exec .referenceRegained s = .next (leaves s (finish (setBeat (fun b => { b with
        locked := true, good := 0, sync := 0, next := 0, force := { b.force with t0 := b.rt } }) s)))) ∧
    (∀ x, s.beat.pend = some x → s.beat.locked = false → 
      let b : Beat := if x.source = s.beat.source then s.beat else { s.beat with good := 0, sync := 0, lastFrame := none }
      exec .beatSetT0Reached s = .next (leaves s (finish { s with beat := { b with force := x, pend := none, source := x.source } }))) ∧
    (∀ p k g, halfIn s (portHalf p) = true → (getPort s p).state = .up → (getPort s p).mode = 0 →
      (s.beat.groups.find? fun g => g.cfg.gid == k.gid) = some g →
      (g.seen.contains (k.origin, k.seq) = true → exec (.lateReceived p k) s = .next (leaves s (finish (modGroup k.gid
        (fun g => { g with drops := BitVec.ofNat 16 (satAdd 16 g.drops.toNat 1) }) s)))) ∧
      (g.seen.contains (k.origin, k.seq) = false → k.ttl = 0 → exec (.lateReceived p k) s = .next (leaves s (finish (recordNotice k false s)))) ∧
      (g.seen.contains (k.origin, k.seq) = false → k.ttl ≠ 0 → exec (.lateReceived p k) s =
        .next (leaves s (finish (sendNotice { k with ttl := k.ttl - 1 } g.cfg.ports (some p) (recordNotice k false s))))))

/-! ## Power, panel, test chain -/

/-- Power and the service panel (R29 to R38, R496, R535, R538, R550): a rising PWR_EN starts the device cold; P48V out of its range ends everything but what lies
outside the module's power; a press of the button is judged by how long it was held. -/
def Obligations.PowerAndPanelEvents : Prop :=
  ∀ s : State,
    (∀ c, s.pins.p48vOk = true →
      exec (.pwrEnRise c) s = .next (keepInputs s { s.pins with pwrEn := true } (finish (coldStart false c { s with pins := { s.pins with pwrEn := true } })))) ∧
    (s.pins.p48vOk = true → ∃ t, exec .inputRange s = .next t ∧ poweredOff t ∧ t.pins.p48vOk = false) ∧
    (s.pins.p48vOk = false → ∃ t, exec .p48vInRange s = .next t ∧ t.pins.p48vOk = true ∧ t.panel.ignored = s.panel.held) ∧
    (s.pins.p48vOk = true → s.panel.held = false → s.pwr.state ≠ .stabled →
      exec .buttonPress s = .next (leaves s (finish { s with panel := { s.panel with held := true, ignored := false, stage := 0 } }))) ∧
    (s.pins.p48vOk = true → s.pins.pwrOk = true → s.panel.held = false → s.pwr.state = .stabled → s.pwr.exiting = false →
      exec .buttonPress s = .next (leaves s (finish
        { s with panel := { s.panel with held := true, ignored := true, stage := 0 }, pwr := { s.pwr with exiting := true } }))) ∧
    (s.pins.p48vOk = true → s.panel.held = true → s.panel.ignored = false →
      (s.panel.stage = 0 → exec .buttonHold2s s = .next { s with panel := { s.panel with stage := 1, faultFlash := s.panel.faultFlash + 1 } }) ∧
      (s.panel.stage = 1 → exec .buttonHold10s s = .next { s with panel := { s.panel with stage := 2, identFlash := s.panel.identFlash + 1 } }) ∧
      (s.panel.stage = 0 → exec .buttonRelease s = .next { s with panel := { s.panel with held := false, ignored := false, stage := 0, ident := !s.panel.ident } }) ∧
      (s.panel.stage = 1 → s.panel.drain = false → exec .buttonRelease s = .next (leaves s (sendMsix 1 0 3 (sendMsix 0 0 3
        { s with panel := { s.panel with held := false, ignored := false, stage := 0, drain := true } })))) ∧
      (s.panel.stage = 2 → exec .buttonRelease s = .next { s with panel := { s.panel with held := false, ignored := false, stage := 0 } })) ∧
    (s.pins.p48vOk = true →
      exec .identifyTimeout s = .next { s with panel := { s.panel with ident := false } } ∧
      (∀ on, exec (.svcIdentWrite on) s = .next { s with panel := { s.panel with ident := on } }) ∧
      exec .svcDrainClear s = .next { s with panel := { s.panel with drain := false } } ∧
      (∃ t, exec .cageLedStream s = .next t ∧ t.free = s.free + 3 ∧ (∀ p, (getPort t p).traffic = (getPort s p).traffic - 1)) ∧
      exec (.testChainAccess .reset) s = .next { s with start := { s.start with tapReset := true } } ∧
      (∀ k, s.sec.dbgopen = false → exec (.testChainAccess (.instrument k)) s = .next { s with start := { s.start with tapReset := false } }) ∧
      (∀ k, s.stk.hold.getLsbD k.val = true → exec (.testChainAccess (.readRepair k)) s = .next
        { s with start := { s.start with tapReset := false },
                 reply := [0] ++ leBytes 2 (getStk s k).soft.toNat ++ leBytes 2 (getStk s k).hard.toNat ++ leBytes 2 (getStk s k).dry.toNat })) ∧
    (∀ b p, halfIn s (portHalf p) = true →
      ((getPort s p).present = false → cageLed s b p = (false, false)) ∧
      ((getPort s p).present = true → (getPort s p).enabled = true → (getPort s p).state = .failed → cageLed s b p = (false, true)) ∧
      ((getPort s p).present = true → (getPort s p).enabled = true → (getPort s p).state = .up → (getPort s p).width = (getPort s p).cfgw → (getPort s p).traffic = 0 →
        cageLed s b p = (true, false)))

/-! ## Link ports and wires -/

/-- Cages, training and flits (R39 to R41, R426 to R431): the cable's presence is debounced and told once; a trained port is up at its width and, unless STABLED had taken it
down (R493), an entry names it; a
port that goes down tells once and retrains; a good flit in sequence is accepted, a bad one answered with a NAK, and a NAK resends. Lanes, wires and the loss of
a half (R420, R427, R428, R455 to R458, R484): a failed lane is tested, and one whose die side failed takes a free spare; a failed wire takes a free spare of
its group; a half that is lost leaves service. -/
def Obligations.LinkPortEvents : Prop :=
  (∀ (s : State) (p : Fin 36), let x := getPort s p
     (∀ low, exec (.cagePresEdge p low) s = .next { s with pins := { s.pins with
       cageLow := setBit s.pins.cageLow p.val low, cageDeb := setBit s.pins.cageDeb p.val true } }) ∧
     (portLive s p = true → s.pins.cageDeb.getLsbD p.val = true →
       let u : State := { s with pins := { s.pins with cageDeb := setBit s.pins.cageDeb p.val false } }
       (s.pins.cageLow.getLsbD p.val = true → x.present = false →
         exec (.confirmedInsertion p) s = .next (leaves s (finish (startTraining p (portEntry 0x02 0 p 0 (modPort p (fun x => { x with present := true }) u)))))) ∧
       (s.pins.cageLow.getLsbD p.val = false → x.present = true →
         exec (.confirmedRemoval p) s = .next (leaves s (finish (portLoses p (modPort p (fun x =>
           { x with present := false, state := .noCable, width := 0, recovering := false, retried := false }) (portEntry 0x01 0 p 0 (portDown p u)))))))) ∧
     (portLive s p = true → x.mode ≠ 2 → x.state = .up → exec (.receivedSignalLost p) s = .next (leaves s (finish (dropTargets p
       (setPort p { x with state := .training, width := 0, recovering := true, retried := false } (portEntry 0x05 0 p 0 s)))))) ∧
     (∀ (w : Fin 5) peer pp, portLive s p = true → x.state = .training → x.recovering = false → x.present = true → x.enabled = true → x.mode = 0 →
       widthOk s p w.val = true →
       let u : State := setPort p { x with state := .up, width := BitVec.ofNat 3 w.val, retried := false, quiet := false, txNext := 0, txAcked := 0, resends := [],
                                           rxNext := 0, peerId := peer, peerPort := pp } (freshLanes p w.val s)
       (x.quiet = false → exec (.trainingComplete p w peer pp) s = .next (leaves s (finish (portEntry 0x03 0 p 0 u)))) ∧
       (x.quiet = true → exec (.trainingComplete p w peer pp) s = .next (leaves s (finish u)))) ∧
     (portLive s p = true → x.state = .training → x.recovering = false →
       (x.retried = false → exec (.trainingFailed p) s = .next (leaves s (finish (setPort p { x with state := .failed, retried := true } (portEntry 0x04 0 p 0 s))))) ∧
       (x.retried = true → exec (.trainingFailed p) s = .next (leaves s (finish (setPort p { x with state := .failed, retried := true } s))))) ∧
     (portLive s p = true → x.state = .failed → x.present = true → x.enabled = true →
       exec (.trainingRetry p) s = .next (leaves s (setPort p { x with state := .training } s))) ∧
     (∀ (w : Fin 5) peer pp expected, portLive s p = true → x.state = .training → x.recovering = true → widthOk s p w.val = true → x.peerId = peer → x.peerPort = pp →
       let acked := max x.txAcked (min expected x.txNext)
       exec (.recovered p w peer pp expected) s = .next (leaves s (finish (portEntry 0x06 0 p 0 (setPort p { x with
         state := .up, width := BitVec.ofNat 3 w.val, recovering := false, txAcked := acked, resends := x.resends.filter fun e => decide (acked ≤ e.1) } (freshLanes p w.val s)))))) ∧
     (awake s = true → x.recovering = true → exec (.recoveryWindowExpiry p) s = .next (leaves s (finish (portLoses p s)))) ∧
     (∀ f : Flit, portLive s p = true → x.state = .up → x.mode = 0 → f.ack = none →
       let y : Port := { x with feccorr := satW 32 x.feccorr f.fecCorr, fecunc := satW 16 x.fecunc f.fecUnc, traffic := 10 }
       (f.crcOk = true → f.seq = x.rxNext → exec (.flitReceived p f) s = .next (leaves s (setPort p { y with rxNext := x.rxNext + 1 } s))) ∧
       (f.crcOk = true → f.seq ≠ x.rxNext → exec (.flitReceived p f) s = .next (leaves s (setPort p y s))) ∧
       (f.crcOk = false → exec (.flitReceived p f) s = .next (leaves s (sendOut (.nak p.val x.rxNext) (setPort p y s))))) ∧
     (portLive s p = true → x.state = .up → x.mode = 0 → x.resends = [] → x.txAcked + 1 = x.txNext →
       exec (.nakReceived p x.txAcked) s = .next (leaves s (finish (setPort p { x with retries := satW 16 x.retries 1, resends := [(x.txAcked, 1)] } s))) ∧
       exec (.ackTimeout p) s = .next (leaves s (finish (portDown p s))))) ∧
  (∀ s : State, awake s = true →
     (∀ (die : Fin 2) (lane : Fin 72), halfIn s die.val = true → let l := s.links.lanes[die]
       (l.testing.contains lane.val = false → l.failed.contains lane.val = false → l.outside.contains lane.val = false → exec (.laneFailed die lane) s =
         .next (leaves s { s with links := { s.links with lanes := s.links.lanes.set die { l with testing := lane.val :: l.testing } } })) ∧
       (l.testing = [lane.val] → l.spare[(0 : Fin 4)] = 0x7F →
         let u : State := { s with links := { s.links with lanes :=
                                                            s.links.lanes.set die { l with testing := [], spare := l.spare.set (0 : Fin 4) (BitVec.ofNat 7 lane.val) } } }
         exec (.loopbackTestDone die lane true) s = .next (leaves s (finish (portDown (lanePort die lane) (portEntry 0x08 1 (lanePort die lane) (lane.val % 4) u)))))) ∧
     (∀ u toHigh (wire : Fin 1056), wireLive s u = true → wire.val < lineWires u → let w := getWires s u toHigh
       w.dead.contains wire.val = false → w.used < 16 →
       let spared := (w.spared.filter fun x => x.1 != wire.val) ++ [(wire.val, w.used)]
       exec (.wireFailed u toHigh wire) s =
         .next (leaves s (finish (report (wireErr u 0x09 1) (putWires { w with spared := spared, used := w.used + 1 } (countWire u toHigh s)))))) ∧
     (∀ west, halfIn s (b2n west) = true →
       exec (.halfLoss west) s = .next (leaves s (finish (loseHalf west s)))))

/-! ## Registers -/

/-- The Reset column (R6): what the register tables of the blocks give as the value after a cold start, as a read of port P0's window returns it at
State.reset; and the machine right after reset has input power, so it keeps the invariant. -/
def Obligations.ResetState : Prop :=
  (let read (o : Nat) : W32 := (windowRead (.func { port := 0, vf := 0 }) o State.reset).2
   read 0x100000 = 0x000003E8 ∧ read 0x100100 = 0x000C0600 ∧ read 0x200000 = 0x000A0001 ∧ read 0x300000 = 0 ∧ read 0x300004 = 0 ∧ read 0x300008 = 0 ∧ read 0x30000C = 0xA ∧
   read 0x300020 = 0 ∧ read 0x300024 = 0 ∧ read 0x300100 = 0 ∧ read 0x400000 = 0 ∧ read 0x400004 = 0x0ED80ED8 ∧ read 0x40000C = 0x4B0 ∧ read 0x500000 = 0 ∧
   read 0x508000 = 0 ∧ read 0xA00800 = 0 ∧ read 0xA00804 = 0x7 ∧ read 0xA01000 = 0 ∧ read 0xB00000 = 0 ∧ read 0xB02000 = 0 ∧ read 0xB03000 = 0x3E8 ∧
   read 0xC00100 = 0 ∧ read 0xC00300 = 0 ∧ read 0xC00400 = 0x218 ∧ read 0xC00404 = 0 ∧ read 0xC00408 = 0 ∧ read 0xC0040C = 0 ∧ read 0xE00700 = 0x10100040) ∧
  (poweredOrOff State.reset)

/-- Reads and writes of registers over the window and the sideband (R7, R8, R347, R558 to R561, R564): the sideband's reply holds its byte count, status and
value; an offset that is not aligned, or one that the accessor's view lacks, reads zero and takes no write; a pair's LO read latches its HI half, which one HI
read takes; a W1C field loses the bits written as 1; the fields of a ring are locked while it is enabled. -/
def Obligations.RegisterAccess : Prop :=
  ∀ s : State, s.pins.p48vOk = true →
    (∀ offset : W32, offset.toNat % 4 = 0 →
      (s.pins.pwrOk = true → exec (.regRead true offset true) s = .next (leaves s (withReply
        (leBytes 1 5 ++ leBytes 1 0 ++ leBytes 4 (windowRead .sideband offset.toNat s).2.toNat) (windowRead .sideband offset.toNat s).1))) ∧
      (lodgeReaches s offset.toNat false = false → exec (.regRead true offset false) s = .next (leaves s (withReply (leBytes 1 5 ++ leBytes 1 1 ++ leBytes 4 0) s))) ∧
      (∀ v, s.pins.pwrOk = true → exec (.regWrite true offset v true) s = .next (leaves s (finish (windowWrite .sideband offset.toNat v s))))) ∧
    (∀ offset : W32, ∀ v, exec (.regRead false offset true) s = .next (leaves s s) ∧ exec (.regWrite false offset v true) s = .next (leaves s (finish s))) ∧
    (exec .sbStatus s = .next (leaves s (withReply (leBytes 2 (sbStatusWord s)) s)) ∧
      (sbStatusWord s ≠ 0 → exec .alertResponse s = .next (leaves s (withReply [BitVec.ofNat 8 (0x60 + s.pins.sbAddr.toNat)] s)))) ∧
    (∀ a (offset value : W32), accessorUp s a = true → exec (.registerWrite a offset value) s = .next (leaves s (finish (windowWrite a offset.toNat value s)))) ∧
    (∀ a (offset : Nat) v, (offset % 4 ≠ 0 ∨ 16777216 ≤ offset) → windowRead a offset s = (s, 0) ∧ windowWrite a offset v s = s) ∧
    (∀ a p, accessorUp s a = true → pairSeen s a p = true →
      let v := pairValue s a p
      (∃ t, exec (.pairLoRead a p) s = .next t ∧ t.reply = leBytes 4 (v.toNat % 2 ^ 32) ∧
        t.latches = (a, p, BitVec.ofNat 32 (v.toNat / 2 ^ 32)) :: s.latches.filter fun x => !isLatch a p x) ∧
      (∀ x, s.latches.find? (isLatch a p) = some x → ∃ t, exec (.pairHiRead a p) s = .next t ∧ t.reply = leBytes 4 x.2.2.toNat ∧
        t.latches = s.latches.filter fun x => !isLatch a p x) ∧
      (s.latches.find? (isLatch a p) = none → ∃ t, exec (.pairHiRead a p) s = .next t ∧ t.reply = leBytes 4 (v.toNat / 2 ^ 32))) ∧
    (∀ v : W32, blockAnswers s blkBeat = true → windowWrite (.func { port := 0, vf := 0 }) 0x300024 v s =
      { s with beat := { s.beat with losses := s.beat.losses &&& ~~~(BitVec.ofNat 16 (v.toNat / 65536)) } }) ∧
    (∀ v : W32, (getRing s 0).enable = true → windowWrite (.func { port := 0, vf := 0 }) 0x100108 v s = s)

/-- The registers whose writes have rows of their own (R273, R311, R314, R353, R446, R447, R453, R460, R495, R517, R518, R544, R566, R567): where their blocks
answer, each takes effect as its rule states. -/
def Obligations.RegisterCommands : Prop :=
  ∀ s : State, awake s = true → s.sec.waiting = false →
    (∀ d i, halfIn s (d.toNat / 4) = true → s.loft.retire = none → exec (.loftRetireGo d i) s =
      .next (leaves s (finish (failSlice d.toNat i.toNat { s with loft := { s.loft with regDie := d, regSlice := i } })))) ∧
    (∀ x d i, s.loft.retire = some x → exec (.loftRetireGo d i) s =
      .next (leaves s (finish { s with loft := { s.loft with regDie := d, regSlice := i } }))) ∧
    (∀ k pc bank row, s.stk.reqBusy = true → exec (.stkRepairReqGo k pc bank row) s = .next (leaves s (finish s))) ∧
    (∀ (k : BitVec 4) (pc bank : BitVec 6) (row : BitVec 15), s.stk.reqBusy = false → stackLive s (Fin.ofNat 16 k.toNat) = true → row.toNat < 24576 →
      let u := candidate (Fin.ofNat 16 k.toNat) (Fin.ofNat 64 pc.toNat) bank.toNat row.toNat
        { s with stk := { s.stk with reqStack := k, reqPc := pc, reqBank := bank, reqRow := row, reqScope := (k.toNat, pc.toNat, row.toNat) } }
      exec (.stkRepairReqGo k pc bank row) s = .next (leaves s (finish { u with stk := { u.stk with
        reqBusy := u.stk.installing.any fun x => x.coversRow k.toNat pc.toNat row.toNat } }))) ∧
    (∀ hold, anyConf s = false → s.pads = [] → exec (.stkHoldWrite hold) s = .next (leaves s (finish { s with stk := { s.stk with hold := hold } }))) ∧
    (∀ hold, hold &&& ~~~s.stk.hold ≠ 0 → s.pads ≠ [] → exec (.stkHoldWrite hold) s = .next (leaves s (finish s))) ∧
    (∀ n, s.snaps.retBusy = false → halfIn s (n.toNat / 512) = true → (getCore s n.toNat).out = false →
      let u := judgeCore n.toNat { s with snaps := { s.snaps with retCore := n } }
      exec (.resRetireGo n) s = .next (leaves s (finish { u with snaps := { u.snaps with retBusy := (getCore u n.toNat).retire } }))) ∧
    (exec .secImgRaise s = .next (leaves s (finish
      (if s.sec.fusedSvn.toNat < s.sec.svn.toNat then { s with sec := { s.sec with fusedSvn := s.sec.svn } } else s)))) ∧
    (∀ h persist addr len img n, funcUp s h 0 = true → s.sec.busy = false → imageFault s addr len img = some n →
      exec (.secImgGo h persist addr len img) s = .next (leaves s (finish { s with sec := { s.sec with
        persist := persist, addr := addr, len := len, result := BitVec.ofNat 4 n } }))) ∧
    (∀ h persist addr len img, funcUp s h 0 = true → s.sec.busy = false → imageFault s addr len img = none →
      exec (.secImgGo h persist addr len img) s = .next (leaves s (finish { s with sec := { s.sec with
        persist := persist, addr := addr, len := len, result := if persist then 2 else 3, flashImg := if persist then img else s.sec.flashImg } }))) ∧
    (∀ a, accessorUp s a = true → s.pwr.exiting = false → (s.pwr.state = .walk ∨ s.pwr.state = .stand) →
      exec (.pwrWake a) s = .next (leaves s (finish { s with pwr := { s.pwr with exiting := true } }))) ∧
    (∀ h t, (getTgt s t.val).state = 0 → let x := getTgt s t.val
        let bs := hostReads s h x.haddr.toNat 1024
        funcUp s h 0 = true → recordBad bs = false → exec (.linkTgtConnect h t) s =
          .next (leaves s (finish (setTgt t.val { x with connect := true, state := 1, record := mwrites [] 0 bs } s)))) ∧
    (∀ t, exec (.linkTgtDisconnect t) s = .next (leaves s (finish (settleTarget t.val (setTgt t.val { getTgt s t.val with connect := false } s))))) ∧
    (∀ q on, isConf s (getSq s q.val).pad.toNat = false → exec (.linkSqEnable q on) s =
        .next (leaves s (finish (setSq q.val { getSq s q.val with enable := on } s)))) ∧
    (∀ q on, isConf s (getSq s q.val).pad.toNat = true → exec (.linkSqEnable q on) s = .next (leaves s (finish s))) ∧
    (∀ h, funcUp s h 0 = true → (getFq s h).enable = false → noneSetUp s = false → exec (.fqEnable h true) s = .next (leaves s (finish (setFq h
        { getFq s h with enable := true, prod := 0, cons := 0, setUp := true } s)))) ∧
    (∀ h, funcUp s h 0 = true → exec (.fqEnable h false) s = .next (leaves s (finish (setFq h { getFq s h with enable := false } s)))) ∧
    (∀ f r on, funcUp s f.port f.vf.val = true → funcRing s f = some r → exec (.ymRingEnable f on) s = .next (leaves s (finish (setRing r
        { getRing s r with enable := on, fresh := (on && !(getRing s r).enable) || (getRing s r).fresh } s))))

/-! ## Host ports -/

/-- Host ports and functions (R297, R421 to R423, R495, R496, R539): PERST and the loss of a link reset the functions of the port and stop the copies on it;
D3hot silences one function until D0; SR-IOV gives the number of virtual functions; the aperture reads and writes the address space chosen for the function,
and a request that memory holds, or that stands behind one of its own bytes, waits (R211, R300). -/
def Obligations.HostPortEvents : Prop :=
  ∀ s : State, s.pins.p48vOk = true →
    (∀ h, exec (.hostLinkDown h) s = .next (leaves s (finish (stopCopies (fun p _ => p == h) (setHost h { s.hosts[h] with up := false, d3 := 0, numVf := 0 } s))))) ∧
    (∀ h : Fin 2, awake s = true → halfIn s h.val = true → s.pins.perst.getLsbD h.val = false → s.hosts[h].hold = false → s.hosts[h].up = false →
      exec (.hostLinkUp h) s = .next (leaves s (finish (warmEntries (endStopped (setHost h { s.hosts[h] with up := true } s)))))) ∧
    (∀ h : Fin 2,
      (let low : Pins := { s.pins with perst := setBit s.pins.perst h.val true }
       exec (.perstAssert h) s = .next (keepInputs s low (finish (hostDown h (setHost h { s.hosts[h] with hold := false } { s with pins := low }))))) ∧
      (let high : Pins := { s.pins with perst := setBit s.pins.perst h.val false }
       (s.pins.pwrOk = true → s.pwr.state ≠ .stabled → ∀ long, exec (.perstDeassert h long) s = .next (keepInputs s high (finish { s with pins := high }))) ∧
       (s.pins.pwrOk = true → s.pwr.state = .stabled → s.pwr.exiting = false → exec (.perstDeassert h true) s =
         .next (keepInputs s high (finish { s with pins := high, pwr := { s.pwr with exiting := true } }))) ∧
       (s.pins.pwrOk = false → ∀ long, exec (.perstDeassert h long) s =
         .next (keepInputs s high (finish (setHost h { s.hosts[h] with hold := true } { s with pins := high })))))) ∧
    (∀ f : Func, s.hosts[f.port].up = true →
      exec (.d3hotEntry f) s = .next (leaves s (finish (stopCopies (fun p fn => p == f.port && fn == f.vf.val)
        (setHost f.port { s.hosts[f.port] with d3 := setBit s.hosts[f.port].d3 f.vf.val true } s)))) ∧
      exec (.d0Return f) s = .next (leaves s (finish (warmEntries (endStopped
        (setHost f.port { s.hosts[f.port] with d3 := setBit s.hosts[f.port].d3 f.vf.val false } s)))))) ∧
    (∀ (h : Fin 2) (n : Fin 32), funcUp s h 0 = true → s.sec.waiting = false → exec (.sriovEnable h n) s =
      .next (leaves s (finish (endStopped (stopCopies (fun p fn => p == h && decide (n.val < fn)) (setHost h { s.hosts[h] with numVf := n.val } s)))))) ∧
    (∀ (f : Func) (va : W64), atWork s = true → funcUp s f.port f.vf.val = true →
      (apertUnder s f none = none → (∀ n, exec (.apertureRequest f va (.read n)) s = .next (leaves s (finish (withReply (List.replicate n 0) s)))) ∧
        ∀ bs, exec (.apertureRequest f va (.write bs)) s = .next (leaves s (finish s))) ∧
      (∀ tag epoch req, apertUnder s f none = some (tag, epoch) →
        let u := gallop s
        let g := apertEng u f.port tag epoch
        let size := match req with | ApReq.read n => n | .write bs => bs.length
        let writes := match req with | ApReq.read _ => false | .write _ => true
        let h := apertHold g va.toNat size writes u
        let counted := apertCount g va.toNat size h.1
        let behind := apertBehind u f.port s.xlt.nextHeld (apertSpans u g va.toNat size)
        (h.2 = true ∨ behind = true → exec (.apertureRequest f va req) s =
          .next (leaves s (finish (holdReq (.aperture f va.toNat req) (some (tag, epoch)) h.1)))) ∧
        (h.2 = false → behind = false →
          (∀ n, req = .read n → let r := apertRead g va.toNat n counted
            exec (.apertureRequest f va req) s = .next (leaves s (finish (withReply r.2.1 (countRefusal g.pad r.2.2 false r.1))))) ∧
          (∀ bs, req = .write bs → let r := apertWrite g va.toNat bs counted
            exec (.apertureRequest f va req) s = .next (leaves s (finish (countRefusal g.pad r.2 false r.1)))))))

/-! ## Spaces, migration, swaps, marks and restarts -/

/-- Windows, tags, paddocks and moves (R291, R292, R295, R299 to R303, R410, R416): a closing window with nothing in flight is closed and its
command answered, and so is an earlier opening of the number; a
tag whose old phase has drained loses the granules that its change frees; a granule that arrived is DEV and one that left is HOST; the sampling period moves the
granules that it finds hot and starts every count again; swaps copy a sequence out and in. -/
def Obligations.SpaceEvents : Prop :=
  ∀ s : State,
    (awake s = true →
      (∀ w seq, (getWin s w.val).closing = some seq → (getWin s w.val).inflight = 0 → ((getWin s w.val).old.filter fun o => o.2.1 == 0) = [] →
        exec (.windowDrained w) s = .next (leaves s (finish (writeStatus seq done [] (setWin w.val { getWin s w.val with closing := none } s))))) ∧
      (∀ w o seq, (getWin s w.val).inflight ≠ 0 → ((getWin s w.val).old.filter fun o => o.2.1 == 0) = [o] → o.2.2 = some seq →
        exec (.windowDrained w) s = .next (leaves s (finish (writeStatus seq done []
          (setWin w.val { getWin s w.val with old := (getWin s w.val).old.filter fun q => q.1 != o.1 } s))))) ∧
      (∀ (tag : Fin 1024) c, (getSpace s tag.val).draining = some c → tagDrained s tag.val = true → shareInUse s tag.val c = false →
        runWaits s (c.freed.filter fun r => r.conf) = false →
        let u := setSpace tag.val { getSpace s tag.val with draining := none, prev := [] } (freeRuns c.freed s)
        let v := dropMig tag.val c (c.unshare.foldl (fun t x => dropShare x.1 x.2 t) u)
        (c.cmd = none → exec (.tagDrainDone tag) s = .next (leaves s (finish (nextChange ((getSpace v tag.val).waiting.length + 1) tag.val v)))) ∧
        (∀ seq k, c.cmd = some seq → findCmd v seq = some k →
          let w := writeStatus seq done (changeResult k.body (getSpace v tag.val) c) v
          exec (.tagDrainDone tag) s = .next (leaves s (finish (nextChange ((getSpace w tag.val).waiting.length + 1) tag.val w))))) ∧
      (∀ (pad : Fin 32) d r, getPad s pad.val = some d → d.drain = some r → r.step = 6 → r.destroys = [] →
        exec (.padDrainStepDone pad) s = .next (leaves s (finish
          (modPad pad.val (fun d => { d with drain := none }) (r.resets.foldl (fun t c => writeStatus c done [] t) s))))) ∧
      (∀ (pad : Fin 32) d r, getPad s pad.val = some d → d.drain = some r → r.step = 7 → padUnshared s pad.val = true →
        exec (.padDrainStepDone pad) s = .next (leaves s (finish (r.destroys.foldl (fun t c => writeStatus c done [] t) (destroyPad pad.val s)))))) ∧
    (atWork s = true →
      (∀ (tag : Fin 1024) (index : Fin 4096) gran e m, movingExt s tag.val index.val gran = some (e, m) → s.hosts[padPort s (e.owner.toNat / 1024)].up = true →
        refetching s e.half (e.pbase + gran) = false → granWaits s e.half (e.pbase + gran) = false →
        (m.res = .movingIn → markPending s e.half (e.pbase + gran) = false → m.cmd = none →
          exec (.demandFetchDone tag index gran) s = .next (leaves s (finish (moveOver tag.val e gran true (moveIn e gran s))))) ∧
        (m.res = .movingIn → markPending s e.half (e.pbase + gran) = false → ∀ seq, m.cmd = some seq →
          exec (.migrationMoveDone tag index gran) s = .next (leaves s (finish (moveOver tag.val e gran true (moveIn e gran s))))) ∧
        (m.res = .movingOut →
          exec (.migrationMoveDone tag index gran) s = .next (leaves s (finish (moveOver tag.val e gran false (moveOut e gran s)))))) ∧
      (let u := (s.xlt.mig.filter (hotGranule s)).foldl moveHot s
       exec .migrationSamplePeriod s = .next (leaves s (finish { u with xlt := { u.xlt with
         mig := (u.xlt.mig.map fun m => { m with count := 0, touched := false }).filter fun m => m.res != .dev } }))) ∧
      (∀ (pad : Fin 32) (slot : Fin 1024) q, slotSeq s pad.val slot.val = some q →
        (q.state = .swapping → (∀ p ∈ seqPairs q, refetching s q.half p.1 = false ∧ granWaits s q.half p.1 = false) →
          exec (.swapOutDone pad slot) s = .next (leaves s (finish (putSeq pad.val { q with state := .swapped, runs := [] }
            (freeServing pad.val [{ q with swap := [] }] (swapCopy q.half true (seqPairs q) s)))))) ∧
        (q.state = .copyIn → (∀ p ∈ seqPairs q, markPending s q.half p.1 = false ∧ granWaits s q.half p.1 = false) →
          exec (.swapInDone pad slot) s = .next (leaves s (finish (putSeq pad.val { q with state := .decode, swap := [] }
            (q.swap.foldl (fun t r => dropRun r t) (swapCopy q.half false (seqPairs q) s))))))))

/-- Marks, images and restarts (R465, R469 to R471, R475, R476, R480, R481): a finished mark makes its generation the current one and answers with it; a write
that a mark holds lets its granule be copied first; an image is written and its command answered with its length and CRC-64; a restart that ends says which
paddocks resume; a paddock that resumes gets back its granules, sequences and pipeline, and one that cannot loses them. -/
def Obligations.SnapshotEvents : Prop :=
  ∀ s : State, awake s = true →
    (∀ m, s.snaps.mark = some m → m.pending = [] →
      let gen (i : Fin 2) : Gen := if i = m.gen then
          { s.snaps.gens[i] with current := true, complete := true, markbeat := m.beat, gib := BitVec.ofNat 32 (ceilDiv m.bytes 1073741824) }
        else { s.snaps.gens[i] with current := false }
      let u : State := { s with snaps := { s.snaps with mark := none, gens := Vector.ofFn gen } }
      exec .markCopyDone s = .next (leaves s (finish (streamsTake m.gen (statusOpt m.cmd done (leBytes 8 m.gen.val ++ leBytes 8 m.bytes) (bump 1154 1 u)))))) ∧
    (∀ m g (half : Fin 2) (gran : Fin 393216), s.snaps.mark = some m → m.wanted.contains (decide (half.val = 1), gran.val) = true →
      granWaits s (decide (half.val = 1)) gran.val = false →
      (m.pending.filter fun x => x.half == decide (half.val = 1) && x.gran == gran.val) = [g] →
      exec (.heldWriteRelease half gran) s = .next (leaves s (finish (baleGran g s)))) ∧
    (∀ (g : Fin 2) i x, (s.snaps.streams.findIdx? fun x => x.active && x.gen == g && (getTgt s x.p.target.toNat).state == 2 && !armWaits s x.p) = some i →
      s.snaps.streams[i]? = some x → let r := writeImage x s
      (x.p.cont = false → exec (.streamImageDone g) s = .next (leaves s (finish
        (statusOpt x.cmd done (leBytes 8 r.2.1 ++ leBytes 8 r.2.2) (setStreams (r.1.snaps.streams.eraseIdx i) r.1))))) ∧
      (x.p.cont = true → x.due = false → exec (.streamImageDone g) s = .next (leaves s (finish
        (setStreams (r.1.snaps.streams.set i { x with second := !x.second, active := false }) r.1))))) ∧
    (∀ r us, s.snaps.restart = some r → r.ended = false → restartWaits s = false →
      exec (.computeRestartEnd us) s = .next (leaves s (finish (endRestart us r s))) ∧
      (endRestart us r s).start.kind = .restart ∧ (endRestart us r s).start.step = 11 ∧
      (endRestart us r s).start.ms = BitVec.ofNat 16 (min 65535 (us.toNat / 1000)) ∧
      ∃ q, (endRestart us r s).snaps.restart = some q ∧ q.ended = true ∧ q.us = us ∧ ∀ p ∈ q.toResume, ∃ d, (p, d) ∈ s.pads) ∧
    (∀ (pad : Fin 32) r g, s.snaps.restart = some r → r.ended = true → r.toResume.contains pad.val = true → currentGen s = some g →
      gransWait s (restoreDue s g (· == pad.val)) = false →
      ((s.snaps.gens[g]).records.find? (fun r => r.pad == pad.val) = none →
        exec (.autoResume pad) s = .next (leaves s (finish
          (resumeOver pad.val false (loseCarry pad.val (modPad pad.val (fun d => { d with resuming := false }) s)))))) ∧
      (∀ x, (s.snaps.gens[g]).records.find? (fun r => r.pad == pad.val) = some x →
        let u := resumePipe pad.val x (restoreGrans g (· == pad.val) (resumeServing pad.val x (resumeMade pad.val g (clearMixer pad.val s))))
        (u.2 = true → exec (.autoResume pad) s = .next (leaves s (finish (bump 1153 1 (resumeOver pad.val true
          (modPad pad.val (fun d => { d with resuming := false, carryPipe := false, carrySeqs := [], carryBatches := 0 }) u.1)))))) ∧
        (u.2 = false → exec (.autoResume pad) s = .next (leaves s (finish (resumeOver pad.val false (loseCarry pad.val (dropServing pad.val false
          (modPad pad.val (fun d => { d with resuming := false, carrySeqs := [], carryBatches := 0 }) u.1)))))))))

/-! ## Drays, send queues, links and packets -/

/-- Drays and send queues (R202, R206, R210, R438 to R447): a descriptor that KICK allows is read, counted in CPOST, and skipped or started; a transfer
moves only in its queue's turn; the rows of a part
that landed are counted in DPOST, and the last ends the transfer; the bytes that a partner acknowledged, or a storage command moved, are counted in LPOST. -/
def Obligations.TransferEvents : Prop :=
  ∀ s : State,
    (atWork s = true →
      (∀ (die : Fin 10) (dray : Fin 16) (queue : Fin 3) q k t bs lines ref, let key := queueKey die.val dray.val queue.val
        getQueue s key = some q → queueStopped s q.pad = false → handlePost s q.pad q.cfg.kick = some k → q.next + 1 ≤ (postValue s k).toNat →
        (s.drays.xfers.filter fun x => x.src == .queue die.val dray.val queue.val).length < 4 →
        engineRead (ringEng s q.pad q.cfg.aspace.toNat (drayLook die.val dray.val) false) (if q.cfg.rspace then 2 else 1) 0 0
          (q.cfg.rbase.toNat + 64 * (q.next % 2 ^ q.cfg.log2size.toNat)) 64 false s = .done t bs lines ref →
        let d := parseDesc bs
        let slot := q.next % 2 ^ q.cfg.log2size.toNat
        let u := setQueue key { q with next := q.next + 1 } (updHandle q.pad q.cfg.cpost false 1 [] [] (countRefusal q.pad ref false (gallop t)))
        (readReason u q.pad die.val d = none → exec (.drayDescriptorRead die dray queue) s = .next (leaves s (finish
          (newXfer (.queue die.val dray.val queue.val) q.pad q.cfg.aspace.toNat die.val slot d u)))) ∧
        (∀ r, readReason u q.pad die.val d = some r → exec (.drayDescriptorRead die dray queue) s = .next (leaves s (finish
          (noteSkip q.pad key d.tag r slot u))))) ∧
      (∀ id bytes found x y, findXfer s id = some y → let s0 := startDue y s
        findXfer s0 id = some x → x.started = true → x.stopped = false → x.dropped = false →
        (x.desc.op = 3 → xfersBefore s0 x = [] → exec (.drayPartLanded id bytes found) s = .next (leaves s (finish
          (addOpt x.pad x.desc.dpost x.desc.len.toNat (finishXfer x false s0))))) ∧
        (x.desc.op ≠ 3 → x.desc.crypt = 0 → ∀ left, turnFor s0 x = some left →
          let t := landXfer (descRows x.desc + bytes + 2) id (min (x.landed + min bytes left) (descTotal x.desc)) (xferEcc x found s0)
          ∀ z, findXfer t id = some z → z.landed ≠ x.landed → let u := addOpt x.pad x.desc.dpost (z.landed - x.landed) t
          ∀ w, findXfer u id = some w → let v := tookTurn x left (w.landed - x.landed) u
            (w.landed = descTotal w.desc → exec (.drayPartLanded id bytes found) s = .next (leaves s (finish (finishXfer w false v)))) ∧
            (w.landed ≠ descTotal w.desc → exec (.drayPartLanded id bytes found) s = .next (leaves s (finish v)))) ∧
        (x.desc.op ≠ 3 → turnFor s0 x = none → exec (.drayPartLanded id bytes found) s = .next (leaves s (finish s0))))) ∧
    (∀ (queue : Fin 64) k t bs lines ref, let q := getSq s queue.val
      let pad := q.pad.toNat
      let slot := q.next % 2 ^ q.log2size.toNat
      atWork s = true → halfIn s (queue.val / 32) = true → q.enable = true → queueStopped s pad = false → admissionStalled s pad = false →
      handlePost s pad q.kick = some k → q.next + 1 ≤ (postValue s k).toNat → (s.links.ops.filter fun o => o.queue == queue.val).length < 4 →
      engineRead (ringEng s pad q.aspace.toNat (windowLook (8 + queue.val / 32)) true) 1 0 0 (q.rbase.toNat + 64 * slot) 64 false s = .done t bs lines ref →
      let d := parseSend bs
      let counted (t : State) : State := updHandle pad q.cpost false 1 [] [] (setSqNext queue.val (gallop t))
      (sendFieldBad t q (queue.val / 32) d = true → exec (.sendDescriptorRead queue) s = .next (leaves s (finish (failSend queue.val slot pad d.tag 1 (counted t))))) ∧
      (sendFieldBad t q (queue.val / 32) d = false → (getPort t (Fin.ofNat 36 d.port.toNat)).recovering = false →
        (∀ r, sendReason t q (queue.val / 32) d = some r →
          exec (.sendDescriptorRead queue) s = .next (leaves s (finish (failSend queue.val slot pad d.tag r (counted t))))) ∧
        (sendReason t q (queue.val / 32) d = none → (d.op = 1 ∨ d.op = 5 ∨ d.op = 7) →
          exec (.sendDescriptorRead queue) s = .next (leaves s (finish (startSend queue.val slot q d [] false (counted t))))) ∧
        (sendReason t q (queue.val / 32) d = none → d.op ≠ 1 → d.op ≠ 5 → d.op ≠ 7 →
          let g := ringEng t pad q.aspace.toNat (windowLook (8 + queue.val / 32)) true
          let h := rangeHold g false false d.laddr.toNat d.len.toNat t
          h.2 = false → let e := drawEgress (d.len.toNat + 1) pad d.len.toNat q.drawn h.1
          (d.len.toNat ≤ e.2 → let r := rangeRead g false d.laddr.toNat d.len.toNat e.1
            exec (.sendDescriptorRead queue) s = .next (leaves s (finish (startSend queue.val slot q d r.2.1 r.2.2.2 (counted r.1))))) ∧
          (e.2 < d.len.toNat → exec (.sendDescriptorRead queue) s =
            .next (leaves s (finish (setSq queue.val { getSq e.1 queue.val with drawn := e.2 } e.1))))))) ∧
    (awake s = true →
      (∀ id n o, findOp s id = some o → (getPort s (Fin.ofNat 36 o.desc.port.toNat)).state = .up →
        (o.desc.op = 5 → exec (.linkAck id n) s = .next (leaves s (finish (countOp o 1 (endOp o s))))) ∧
        (o.desc.op ≠ 5 → o.desc.op ≠ 1 → isStore o.desc = false → let k := min n (o.desc.len.toNat - o.done)
          k ≠ 0 → exec (.linkAck id n) s = .next (leaves s (finish (checkOp id (countOp o k (putOp { o with done := o.done + k } s))))))) ∧
      (∀ id ok bs o, findOp s id = some o → (getPort s (Fin.ofNat 36 o.desc.port.toNat)).state = .up → isStore o.desc = true →
        (ok = false → exec (.storeCommandComplete id ok bs) s = .next (leaves s (finish (failSend o.queue o.slot o.pad o.desc.tag 6 (endOp o s))))) ∧
        (ok = true → let off := o.done + heldBytes s id
          let b := bs.take (o.desc.len.toNat - off)
          b ≠ [] →
          (o.desc.op = 7 → exec (.storeCommandComplete id ok bs) s = .next (leaves s (finish (landOp o off b [] s)))) ∧
          (o.desc.op ≠ 7 → exec (.storeCommandComplete id ok bs) s =
            .next (leaves s (finish (checkOp id (countOp o b.length (putOp { o with done := o.done + b.length } s)))))))) ∧
      (∀ t : Fin 16, let x := getTgt s t.val
        x.state = 1 → x.connect = true →
        exec (.targetConnectDone t false) s = .next (leaves s (finish (targetFailed t s))) ∧
        (let p := getPort s (Fin.ofNat 36 x.port.toNat)
         x.port.toNat < 36 → p.state = .up → p.mode ≠ 0 → exec (.targetConnectDone t true) s =
           .next (leaves s (finish (setTgt t.val { x with state := 2, rate := 1000, halved := false } s))))) ∧
      (∀ t : Fin 16, (getTgt s t.val).halved = true → exec (.ecnRateRecovery t) s = .next (leaves s (finish (setTgt t.val { getTgt s t.val with
        rate := min 1000 ((getTgt s t.val).rate + 50), halved := decide ((getTgt s t.val).rate + 50 < 1000) } s)))))

/-- Packets of partners and frames (R295, R296, R435 to R437, R446): a packet that its window passes writes, reads or adds in the window's address space, and its
bytes are counted in the post of its header; one that the window does not pass is dropped and counted; a READ_REQ is always answered; one whose
bytes must wait (a granule that is not on the device, a mark, a refetch, an add before it) stays held and counts as in flight at its window. -/
def Obligations.PacketsReceived : Prop :=
  ∀ (s : State) (p : Fin 36) (t : TxHdr), portLive s p = true → (getPort s p).state = .up →
    (atWork s = true → restarting s = false → (getPort s p).mode = 0 →
      let u := gallop (setPort p { getPort s p with traffic := 10 } s)
      let w := getWin u t.win.toNat
      let tag := w.entry.tag.toNat
      let ep := (getSpace u tag).epoch
      let g := windowEng w p tag ep
      let va := w.entry.vbase.toNat + t.offset.toNat
      let n := t.len.toNat
      let post := BitVec.ofNat 32 (windowPost w t)
      (∀ bs, windowPasses u .write t n = false → exec (.remoteWrite p t bs) s = .next (leaves s (finish (windowDrop t u)))) ∧
      (∀ bs, windowPasses u .write t n = true → let h := rangeHold g false true va n u
        (h.2 = false → let r := rangeWrite g false va (payload t bs) [] h.1
          exec (.remoteWrite p t bs) s = .next (leaves s (finish (updHandle w.pad post false n [] [] (countRefusal w.pad r.2 false r.1))))) ∧
        (h.2 = true → exec (.remoteWrite p t bs) s = .next (leaves s (finish (holdReq (.remote p t (.write bs)) (some (tag, ep))
          (setWin t.win.toNat { getWin h.1 t.win.toNat with inflight := (getWin h.1 t.win.toNat).inflight + 1 } h.1)))))) ∧
      (windowPasses u .read t n = false → exec (.readReq p t) s = .next (leaves s (finish (respond p t (List.replicate n 0) (windowDrop t u))))) ∧
      (windowPasses u .read t n = true → let h := rangeHold g false false va n u
        (h.2 = false → rangePoison h.1 g false va n = .clean → let r := rangeRead g false va n h.1
          exec (.readReq p t) s = .next (leaves s (finish (respond p t r.2.1
            (updHandle w.pad post false n [] [] (countRefusal w.pad r.2.2.2 false r.1)))))) ∧
        (h.2 = true → exec (.readReq p t) s = .next (leaves s (finish (holdReq (.remote p t .read) (some (tag, ep))
          (setWin t.win.toNat { getWin h.1 t.win.toNat with inflight := (getWin h.1 t.win.toNat).inflight + 1 } h.1)))))) ∧
      (windowPasses u .post t 0 = true → exec (.linkPostAdd p t) s = .next (leaves s (finish (updHandle w.pad post false n [] [] u)))) ∧
      (∀ v e x, windowPasses u .add t 4 = true → elementRuns va 1 = [(va, 0, 1)] →
        reach u (tableSeen u g.look g.tag g.epoch) g.pad g.tag false true va = some (e, x) → e.migr = false →
        let q : AddReq := { id := u.loft.nextAdd, pad := w.pad, half := e.half, line := x / 1024, anchor := none, vals := [(x % 1024 / 4, v)], longs := [],
                            cls := classOf 0 e, src := .window t.win.toNat (some (windowPost w t)) 4 t.wgen, waits := false }
        let y := setWin t.win.toNat { w with inflight := w.inflight + 1 } u
        let ql (l : BitVec 192) : AddReq :=
          { q with anchor := some t.anchor, vals := [], longs := [(x % 1024 / 4, l)], src := .window t.win.toNat (some (windowPost w t)) 24 t.wgen }
        let queued (q : AddReq) : State := g.noteLook va 0 { y with loft := { y.loft with adds := y.loft.adds ++ [q], nextAdd := y.loft.nextAdd + 1 } }
        exec (.addF32 p t [v]) s = .next (leaves s (finish (queued q))) ∧
        exec (.addAnchVal p t [v]) s = .next (leaves s (finish (queued { q with anchor := some t.anchor }))) ∧
        ∀ l, exec (.addAnchLong p t [l]) s = .next (leaves s (finish (queued (ql l))))) ∧
      (∀ v, windowPasses u .add t 4 = false → exec (.addF32 p t [v]) s = .next (leaves s (finish (windowDrop t u))))) ∧
    ((getPort s p).mode = 0 →
      exec (.badTransactionPacket p) s = .next (leaves s (bump (1096 + p.val) 1 s)) ∧
      (∀ bs o c, (s.links.ops.find? fun o => o.desc.op == 1 && o.desc.port.toNat == p.val && o.id % 65536 == t.rtag.toNat / 65536) = some o →
        (packets o.desc)[t.rtag.toNat % 65536]? = some c → o.landed.contains (t.rtag.toNat % 65536) = false →
        exec (.readRsp p t bs) s = .next (leaves s (finish (landOp o c.1 ((List.range c.2).map fun j => bs[j]?.getD 0) (t.rtag.toNat % 65536 :: o.landed)
          (setPort p { getPort s p with traffic := 10 } s))))) ∧
      ((s.links.ops.find? fun o => o.desc.op == 1 && o.desc.port.toNat == p.val && o.id % 65536 == t.rtag.toNat / 65536) = none →
        ∀ bs, exec (.readRsp p t bs) s = .next (leaves s (finish s)))) ∧
    ((getPort s p).mode ≠ 0 → let u := setPort p { getPort s p with traffic := 10 } s
      exec (.ethernetFrame p .arp) s = .next (leaves s u) ∧
      exec (.ethernetFrame p .other) s = .next (leaves s (countFrame p u)) ∧
      (∀ k : Fin 16, (getTgt s k.val).port.toNat = p.val → (getTgt s k.val).state = 2 →
        exec (.ethernetFrame p (.roce k true)) s = .next (leaves s (setTgt k.val { getTgt s k.val with rate := (getTgt s k.val).rate / 2, halved := true } u)) ∧
        exec (.ethernetFrame p (.roce k false)) s = .next (leaves s u)))

/-! ## Stacks, repairs, power of the dies -/

/-- Scrubbing, stand-ins, temperatures and failures (R273, R309 to R322, R466, R545): a scrub read judges the codeword that it finds; a stand-in that is installed
comes into force; a background zeroing takes its granule from those to be zeroed; a temperature sets the row of refresh and throttle; three failed reads are
taken as the hottest row; a slice retirement ends on a spare slice. -/
def Obligations.StackEvents : Prop :=
  ∀ s : State, awake s = true →
    (∀ (k : Fin 16) (pc bank : Fin 64) (row : Fin 24576) (sub : Fin 16), stackLive s k = true → s.stk.hold.getLsbD k.val = false →
      (pc.val ≠ 0 ∨ bank.val ≠ 0 ∨ row.val ≠ 0 ∨ sub.val ≠ 0) →
      let half := decide (8 ≤ k.val)
      let a := rowAddr k pc.val bank.val row.val sub.val
      exec (.scrubRead k pc bank row sub .clean) s = .next (leaves s (finish s)) ∧
      exec (.scrubRead k pc bank row sub .corrected) s = .next (leaves s (finish (stackEcc half a .corrected s))) ∧
      let u := stackEcc half a .uncorrectable s
      (secondCopy u half (a / granBytes) = none → exec (.scrubRead k pc bank row sub .uncorrectable) s = .next (leaves s (finish u))) ∧
      (covered u half (a / 1024) = true → exec (.scrubRead k pc bank row sub .uncorrectable) s = .next (leaves s (finish u))) ∧
      (∀ c, covered u half (a / 1024) = false → secondCopy u half (a / granBytes) = some c →
        exec (.scrubRead k pc bank row sub .uncorrectable) s = .next (leaves s (finish (startRefetch half (a / granBytes) false u))))) ∧
    (∀ k found x, (s.stk.installing.find? fun x => x.stack == k) = some x →
      (x.failed = false → exec (.standinInstallDone ⟨k, found⟩) s =
        .next (leaves s (finish (finishStandIn x (found.foldl (fun t u => copyFinds x u.1 u.2 t) s))))) ∧
      (x.failed = true → let u := loseScope x s
        exec (.standinInstallDone ⟨k, found⟩) s =
          .next (leaves s (finish (finishStandIn x ((coveredLines u x).foldl (fun t l => fetchLine (decide (8 ≤ k.val)) l t) u)))))) ∧
    (∀ (half : Fin 2) (g : Fin 1048576), exec (.backgroundZeroingDone half g) s = .next (leaves s (finish { s with mem := { s.mem with
      tozero := cutZero (decide (393216 ≤ g.val)) (decide (half.val = 1)) g.val 1 s.mem.tozero } }))) ∧
    (∀ (half : Fin 2) (g : Fin 393216) r, (s.stk.refetch.find? fun r => r.1 == decide (half.val = 1) && r.2.1 == g.val) = some r →
      let u : State := { s with stk := { s.stk with refetch := s.stk.refetch.filter fun x => !(x.1 == decide (half.val = 1) && x.2.1 == g.val) } }
      (secondCopy s (decide (half.val = 1)) g.val = none → exec (.refetchDone half g) s = .next (leaves s (finish u))) ∧
      (∀ c, secondCopy s (decide (half.val = 1)) g.val = some c → exec (.refetchDone half g) s =
        .next (leaves s (finish (refetchFrom (decide (half.val = 1)) g.val r.2.2.1 c u))))) ∧
    (∀ k, stackLive s k = true → (getStk s k).present = true → let x := getStk s k
      (x.failed = 0 → exec (.stackTempRead k none) s = .next (leaves s (finish (setStk k { x with failed := 1, temp := 0xFF } s)))) ∧
      (x.failed = 2 → exec (.stackTempRead k none) s = .next (leaves s (finish
        (report (stackPower k 0x03 2 0xFF) (setStk k (setTempRow 4 { x with failed := 3, temp := 0xFF }) s))))) ∧
      (∀ b, tempRow b.toNat = tempNow x → x.failed < 3 → (setTempRow (tempNow x) { x with failed := 0, temp := b }).throttle = x.throttle →
        exec (.stackTempRead k (some b)) s = .next (leaves s (finish (setStk k (setTempRow (tempNow x) { x with failed := 0, temp := b }) s))))) ∧
    (∀ k pc, stackLive s k = true → let x : StandIn := { stack := k, pc := pc, span := none, failed := true }
      (((s.stk.standing ++ s.stk.installing).any fun y => x.inside y) = true → exec (.stackInterfaceFailure k pc) s = .next (leaves s (finish s))) ∧
      (((s.stk.standing ++ s.stk.installing).any fun y => x.inside y) = false → let u := startStandIn x s
        (u.stk.installing.contains x = true → exec (.stackInterfaceFailure k pc) s = .next (leaves s (finish u))) ∧
        (u.stk.installing.contains x = false → pc.isSome = true → exec (.stackInterfaceFailure k pc) s = .next (leaves s (finish (loseScope x u)))) ∧
        (u.stk.installing.contains x = false → pc = none → exec (.stackInterfaceFailure k pc) s =
          .next (leaves s (finish (setStk k { getStk (loseScope x u) k with present := false } (loseScope x u))))))) ∧
    (s.loft.retire = none → exec .sliceRetirementDone s = .next (leaves s (finish s))) ∧
    (∀ d i p, s.loft.retire = some (d, i) → s.loft.retireDue = [] → spareDie s d.toNat = some p →
      ∃ t, exec .sliceRetirementDone s = .next (leaves s (finish t)) ∧ t.loft.retire = none ∧ t.loft.free[p] = s.loft.free[p] - 1 ∧
        (getSlice t d.toNat i.toNat).cerr = 0 ∧ (getSlice t d.toNat i.toNat).pdie = BitVec.ofNat 4 p.val ∧
        s.start.flashSlices.length + 1 = t.start.flashSlices.length)

/-- The dies' power (R493, R494, R506 to R510): a junction reading is kept with the hottest, starts a thermal step at 95 °C and a stall at 105 °C; a droop
stretches the clock of its region, and the stretched cycles are counted; a margin check moves the trim that the next beat applies; an idle device reaches TROT,
and an exit ends in GALLOP and answers the command that waited for it. -/
def Obligations.DiePowerEvents : Prop :=
  ∀ s : State, awake s = true →
    (∀ (d : Fin 8), halfIn s (d.val / 4) = true → let x := s.pwr.dies[d]
      (∀ temp : Byte, x.thermal = .none → temp.toNat < 95 → ∀ held, exec (.dieTempRead d temp held) s =
        .next (leaves s (finish (modDie d (fun x => { x with temp := temp, hot := if x.hot < temp then temp else x.hot, thermal := .none }) s)))) ∧
      (∀ (temp : Byte) held, x.thermal = .none → 95 ≤ temp.toNat → temp.toNat < 105 → exec (.dieTempRead d temp held) s =
        .next (leaves s (finish (applyThermal d (report (dieErr 0x04 0 d temp.toNat)
          (modDie d (fun x => { x with temp := temp, hot := if x.hot < temp then temp else x.hot, thermal := .step }) s)))))) ∧
      (∀ temp : Byte, x.thermal = .step → 92 < temp.toNat → temp.toNat < 105 → exec (.dieTempRead d temp true) s =
        .next (leaves s (finish (modDie d (fun x => { x with temp := temp, hot := if x.hot < temp then temp else x.hot, thermal := .step }) s)))) ∧
      (∀ region : Fin 5, exec (.voltageDroop d region) s =
        .next (leaves s (finish (modDie d (fun x => { x with droop := x.droop ||| BitVec.ofNat 5 (2 ^ region.val) }) s)))) ∧
      (∀ (region : Fin 5) fc, x.droop.getLsbD region.val = true → exec (.droopRecovered d region fc) s =
        .next (leaves s (finish (modDie d (fun x => { x with
          droop := setBit x.droop region.val false, stretch := BitVec.ofNat 32 (satAdd 32 x.stretch.toNat fc.toNat) }) s)))) ∧
      (∀ q, exec (.marginCheck d q .ok) s = .next (leaves s (finish s)) ∧
        (-20 < x.pendTrim[q] → exec (.marginCheck d q .ample) s =
          .next (leaves s (finish (modDie d (fun y => { y with pendTrim := y.pendTrim.set q (y.pendTrim[q] - 1) }) s)))) ∧
        (x.pendTrim[q] < 20 → exec (.marginCheck d q .low) s =
          .next (leaves s (finish (modDie d (fun y => { y with pendTrim := y.pendTrim.set q (y.pendTrim[q] + 1) }) s)))) ∧
        (20 ≤ x.pendTrim[q] → 20 ≤ x.trim[q] → 500 < x.ceil.toNat → exec (.marginCheck d q .low) s =
          .next (leaves s (finish (recheck (fun rs _ _ => rs.any fun r => r.cores.any fun n => coreDie n == d.val)
            (report (dieErr 0x05 2 d (x.ceil.toNat - 100)) (modDie d (fun y => { y with ceil := y.ceil - 100 }) s)))))))) ∧
    (s.pwr.state = .gallop → idle s = true →
      (s.pwr.target = none → exec .trotEntry s = .next (leaves s (finish { s with pwr := { s.pwr with state := .trot } }))) ∧
      (∀ seq, s.pwr.target = some (.trot, seq) → exec .trotEntry s =
        .next (leaves s (finish (writeStatus seq done [] { s with pwr := { s.pwr with state := .trot, target := none } }))))) ∧
    (s.pwr.exiting = true →
      (s.pwr.target = none → exec .gallopExitDone s = .next (leaves s (finish { s with pwr := { s.pwr with state := .gallop, exiting := false } }))) ∧
      (∀ seq, s.pwr.target = some (.gallop, seq) → exec .gallopExitDone s =
        .next (leaves s (finish (writeStatus seq done [] { s with pwr := { s.pwr with state := .gallop, exiting := false, target := none } })))))

/-! ## Attestation and sessions -/

/-- SPDM over an endpoint that can be reached (R513, R514, R520 to R524): each request answers in its place of the connection, ahead of it an error; a key
exchange makes a session that FINISH opens, at most 64 at once; a message of a session needs it open on its own endpoint; a session without a heartbeat ends; a
debug token opens debug unless a confidential paddock exists; an MCTP message of the sideband whose PEC holds and whose type is 5 is answered as the SPDM request
in it, and any other message changes nothing. The codes and layouts of the messages are the model's (log 31). -/
def Obligations.SpdmMessages : Prop :=
  ∀ (s : State) (e : Endpoint), endpointUp s e = true →
    exec (.getVersion e) s = .next (leaves s (spdmReply 0x04 0 0 [0, 2, 0x00, 0x12, 0x00, 0x13] (setConn e 1 s))) ∧
    (1 ≤ connStage s e → exec (.getCapabilities e) s =
      .next (leaves s (spdmReply 0x61 0 0 ([0, 0, 0, 0] ++ leBytes 4 capabilityFlags) (setConn e 2 s)))) ∧
    (2 ≤ connStage s e → exec (.negotiateAlgorithms e true) s = .next (leaves s (spdmReply 0x63 0 0 [] (setConn e 3 s))) ∧
      exec (.negotiateAlgorithms e false) s = .next (leaves s (spdmReply 0x7F 1 0 [] s))) ∧
    (connStage s e < 3 → exec (.getDigests e) s = .next (leaves s (spdmReply 0x7F 4 0 [] s)) ∧
      ∀ n x, exec (.keyExchange e n x) s = .next (leaves s (spdmReply 0x7F 4 0 [] s))) ∧
    (3 ≤ connStage s e →
      exec (.getDigests e) s = .next (leaves s (spdmReply 0x01 0 1 (digestBytes (Config.sha256 (certChain s))) s)) ∧
      (∀ (offset length : W16), offset.toNat ≤ (certChain s).length →
        let part := ((certChain s).drop offset.toNat).take length.toNat
        exec (.getCertificate e 0 offset length) s = .next (leaves s (spdmReply 0x02 0 0
          (leBytes 2 part.length ++ leBytes 2 ((certChain s).length - offset.toNat - part.length) ++ part) s))) ∧
      (∀ nonce : BitVec 256, let body := digestBytes (Config.sha256 (certChain s)) ++ digestBytes (Config.sha256 (s.sec.meas.toList.flatMap digestBytes))
        exec (.challenge e 0 nonce) s = .next (leaves s (spdmReply 0x03 0 1 (body ++ aliasSign s (digestBytes nonce ++ body)) s))) ∧
      (∀ (i : Byte) v, i ≠ 0 → i ≠ 0xFF → measurementValue s e i.toNat = some v → ∀ nonce, let block := measurementBlock i.toNat v
        exec (.getMeasurements e i false nonce) s = .next (leaves s (spdmReply 0x60 0 0 ([1] ++ leBytes 3 block.length ++ block) s))) ∧
      (∀ (n : W16) (x : BitVec 512), s.sec.sessions.length < 64 →
        let rsp := s.sec.nextSess.toNat % 65536
        let id : W32 := BitVec.ofNat 32 (n.toNat + 65536 * rsp)
        let y : Session := { id := id, ep := e, isOpen := false, secret := Config.sessionSecret id x, epoch := 0 }
        exec (.keyExchange e n x) s = .next (leaves s (spdmReply 0x64 0 0 (leBytes 2 rsp ++ aliasSign s (leBytes 64 x.toNat))
          { s with sec := { s.sec with sessions := s.sec.sessions ++ [y], nextSess := s.sec.nextSess + 1 } }))) ∧
      (∀ (n : W16) (x : BitVec 512), 64 ≤ s.sec.sessions.length → exec (.keyExchange e n x) s = .next (leaves s (spdmReply 0x7F 3 0 [] s)))) ∧
    (∀ id x, findSession s id = some x → x.ep = e →
      (x.isOpen = false →
        exec (.spdmFinish e id true) s = .next (leaves s (spdmReply 0x65 0 0 [] { s with sec := { s.sec with
          sessions := mapWhere (fun y => y.id == id) (fun y => { y with isOpen := true }) s.sec.sessions } })) ∧
        exec (.spdmFinish e id false) s = .next (leaves s (spdmReply 0x7F 6 0 [] (dropSession id s))) ∧
        exec (.heartbeat e id) s = .next (leaves s (spdmReply 0x7F 4 0 [] s))) ∧
      (x.isOpen = true →
        exec (.heartbeat e id) s = .next (leaves s (spdmReply 0x68 0 0 [] s)) ∧
        exec (.keyUpdate e id) s = .next (leaves s (spdmReply 0x69 1 0 [] { s with sec := { s.sec with
          sessions := mapWhere (fun y => y.id == id) (fun y => { y with epoch := y.epoch + 1 }) s.sec.sessions } })) ∧
        exec (.endSession e id) s = .next (leaves s (spdmReply 0x6C 0 0 [] (dropSession id s))) ∧
        exec (.sessionHeartbeatExpiry id) s = .next (leaves s (dropSession id s)))) ∧
    (s.pins.pwrOk = true → anyConf s = false → s.sec.dbgopen = false → exec (.debugToken true) s = .next (leaves s (finish
      (report (secErr s 0x03 0 0xFF s.sec.version) { s with sec := { s.sec with dbgopen := true, dbgever := true, dbgNext := true } })))) ∧
    (anyConf s = true → exec (.debugToken true) s = .next (leaves s (finish s))) ∧
    (∀ bytes, exec (.mctpMessage false bytes) s = .next (leaves s s)) ∧
    (∀ bs, exec (.mctpMessage true (5 :: bs)) s = .next (leaves s (spdmRequest .sideband bs s))) ∧
    exec (.mctpMessage true [5, 0x12, 0x84, 0, 0]) s =
      .next (leaves s (spdmReply 0x04 0 0 [0, 2, 0x00, 0x12, 0x00, 0x13] (setConn .sideband 1 s))) ∧
    (1 ≤ connStage s .sideband → exec (.mctpMessage true [5, 0x12, 0xE1, 0, 0]) s =
      .next (leaves s (spdmReply 0x61 0 0 ([0, 0, 0, 0] ++ leBytes 4 capabilityFlags) (setConn .sideband 2 s)))) ∧
    (∀ (t : Byte) bs, t ≠ 5 → exec (.mctpMessage true (t :: bs)) s = .next (leaves s s)) ∧
    exec (.mctpMessage true []) s = .next (leaves s s) ∧
    exec (.mctpMessage true [5, 0x12, 0x84, 0, 0]) s = exec (.getVersion .sideband) s
end

