-- ==== Sys2Proof/Laws/State.lean ====
section
/-! SUPPORT. What each update of the state leaves in each field. -/

namespace Sys2Proof.Machine

variable (s : State)

@[simp] theorem setCore_pending (n : Nat) (c : Core) : (setCore n c s).pending = s.pending := rfl
@[simp] theorem setCore_pins (n : Nat) (c : Core) : (setCore n c s).pins = s.pins := rfl
@[simp] theorem setCore_panel (n : Nat) (c : Core) : (setCore n c s).panel = s.panel := rfl
@[simp] theorem setCore_hosts (n : Nat) (c : Core) : (setCore n c s).hosts = s.hosts := rfl
@[simp] theorem setCore_rings (n : Nat) (c : Core) : (setCore n c s).rings = s.rings := rfl
@[simp] theorem setCore_ym (n : Nat) (c : Core) : (setCore n c s).ym = s.ym := rfl
@[simp] theorem setCore_flt (n : Nat) (c : Core) : (setCore n c s).flt = s.flt := rfl
@[simp] theorem setCore_beat (n : Nat) (c : Core) : (setCore n c s).beat = s.beat := rfl
@[simp] theorem setCore_cnt (n : Nat) (c : Core) : (setCore n c s).cnt = s.cnt := rfl
@[simp] theorem setCore_mem (n : Nat) (c : Core) : (setCore n c s).mem = s.mem := rfl
@[simp] theorem setCore_loft (n : Nat) (c : Core) : (setCore n c s).loft = s.loft := rfl
@[simp] theorem setCore_xlt (n : Nat) (c : Core) : (setCore n c s).xlt = s.xlt := rfl
@[simp] theorem setCore_stk (n : Nat) (c : Core) : (setCore n c s).stk = s.stk := rfl
@[simp] theorem setCore_posts (n : Nat) (c : Core) : (setCore n c s).posts = s.posts := rfl
@[simp] theorem setCore_cores (n : Nat) (c : Core) : (setCore n c s).cores = tput s.cores n c := rfl
@[simp] theorem setCore_accs (n : Nat) (c : Core) : (setCore n c s).accs = s.accs := rfl
@[simp] theorem setCore_copies (n : Nat) (c : Core) : (setCore n c s).copies = s.copies := rfl
@[simp] theorem setCore_nextAcc (n : Nat) (c : Core) : (setCore n c s).nextAcc = s.nextAcc := rfl
@[simp] theorem setCore_mesh (n : Nat) (c : Core) : (setCore n c s).mesh = s.mesh := rfl
@[simp] theorem setCore_drays (n : Nat) (c : Core) : (setCore n c s).drays = s.drays := rfl
@[simp] theorem setCore_links (n : Nat) (c : Core) : (setCore n c s).links = s.links := rfl
@[simp] theorem setCore_pads (n : Nat) (c : Core) : (setCore n c s).pads = s.pads := rfl
@[simp] theorem setCore_snaps (n : Nat) (c : Core) : (setCore n c s).snaps = s.snaps := rfl
@[simp] theorem setCore_pwr (n : Nat) (c : Core) : (setCore n c s).pwr = s.pwr := rfl
@[simp] theorem setCore_sec (n : Nat) (c : Core) : (setCore n c s).sec = s.sec := rfl
@[simp] theorem setCore_start (n : Nat) (c : Core) : (setCore n c s).start = s.start := rfl
@[simp] theorem setCore_shadow (n : Nat) (c : Core) : (setCore n c s).shadow = s.shadow := rfl
@[simp] theorem setCore_latches (n : Nat) (c : Core) : (setCore n c s).latches = s.latches := rfl
@[simp] theorem setCore_reply (n : Nat) (c : Core) : (setCore n c s).reply = s.reply := rfl
@[simp] theorem setCore_free (n : Nat) (c : Core) : (setCore n c s).free = s.free := rfl

@[simp] theorem setRing_pending (r : Nat) (g : Ring) : (setRing r g s).pending = s.pending := rfl
@[simp] theorem setRing_pins (r : Nat) (g : Ring) : (setRing r g s).pins = s.pins := rfl
@[simp] theorem setRing_panel (r : Nat) (g : Ring) : (setRing r g s).panel = s.panel := rfl
@[simp] theorem setRing_hosts (r : Nat) (g : Ring) : (setRing r g s).hosts = s.hosts := rfl
@[simp] theorem setRing_rings (r : Nat) (g : Ring) : (setRing r g s).rings = tput s.rings r g := rfl
@[simp] theorem setRing_ym (r : Nat) (g : Ring) : (setRing r g s).ym = s.ym := rfl
@[simp] theorem setRing_flt (r : Nat) (g : Ring) : (setRing r g s).flt = s.flt := rfl
@[simp] theorem setRing_beat (r : Nat) (g : Ring) : (setRing r g s).beat = s.beat := rfl
@[simp] theorem setRing_cnt (r : Nat) (g : Ring) : (setRing r g s).cnt = s.cnt := rfl
@[simp] theorem setRing_mem (r : Nat) (g : Ring) : (setRing r g s).mem = s.mem := rfl
@[simp] theorem setRing_loft (r : Nat) (g : Ring) : (setRing r g s).loft = s.loft := rfl
@[simp] theorem setRing_xlt (r : Nat) (g : Ring) : (setRing r g s).xlt = s.xlt := rfl
@[simp] theorem setRing_stk (r : Nat) (g : Ring) : (setRing r g s).stk = s.stk := rfl
@[simp] theorem setRing_posts (r : Nat) (g : Ring) : (setRing r g s).posts = s.posts := rfl
@[simp] theorem setRing_cores (r : Nat) (g : Ring) : (setRing r g s).cores = s.cores := rfl
@[simp] theorem setRing_accs (r : Nat) (g : Ring) : (setRing r g s).accs = s.accs := rfl
@[simp] theorem setRing_copies (r : Nat) (g : Ring) : (setRing r g s).copies = s.copies := rfl
@[simp] theorem setRing_nextAcc (r : Nat) (g : Ring) : (setRing r g s).nextAcc = s.nextAcc := rfl
@[simp] theorem setRing_mesh (r : Nat) (g : Ring) : (setRing r g s).mesh = s.mesh := rfl
@[simp] theorem setRing_drays (r : Nat) (g : Ring) : (setRing r g s).drays = s.drays := rfl
@[simp] theorem setRing_links (r : Nat) (g : Ring) : (setRing r g s).links = s.links := rfl
@[simp] theorem setRing_pads (r : Nat) (g : Ring) : (setRing r g s).pads = s.pads := rfl
@[simp] theorem setRing_snaps (r : Nat) (g : Ring) : (setRing r g s).snaps = s.snaps := rfl
@[simp] theorem setRing_pwr (r : Nat) (g : Ring) : (setRing r g s).pwr = s.pwr := rfl
@[simp] theorem setRing_sec (r : Nat) (g : Ring) : (setRing r g s).sec = s.sec := rfl
@[simp] theorem setRing_start (r : Nat) (g : Ring) : (setRing r g s).start = s.start := rfl
@[simp] theorem setRing_shadow (r : Nat) (g : Ring) : (setRing r g s).shadow = s.shadow := rfl
@[simp] theorem setRing_latches (r : Nat) (g : Ring) : (setRing r g s).latches = s.latches := rfl
@[simp] theorem setRing_reply (r : Nat) (g : Ring) : (setRing r g s).reply = s.reply := rfl
@[simp] theorem setRing_free (r : Nat) (g : Ring) : (setRing r g s).free = s.free := rfl

@[simp] theorem setPad_pending (p : Nat) (d : Pad) : (setPad p d s).pending = s.pending := rfl
@[simp] theorem setPad_pins (p : Nat) (d : Pad) : (setPad p d s).pins = s.pins := rfl
@[simp] theorem setPad_panel (p : Nat) (d : Pad) : (setPad p d s).panel = s.panel := rfl
@[simp] theorem setPad_hosts (p : Nat) (d : Pad) : (setPad p d s).hosts = s.hosts := rfl
@[simp] theorem setPad_rings (p : Nat) (d : Pad) : (setPad p d s).rings = s.rings := rfl
@[simp] theorem setPad_ym (p : Nat) (d : Pad) : (setPad p d s).ym = s.ym := rfl
@[simp] theorem setPad_flt (p : Nat) (d : Pad) : (setPad p d s).flt = s.flt := rfl
@[simp] theorem setPad_beat (p : Nat) (d : Pad) : (setPad p d s).beat = s.beat := rfl
@[simp] theorem setPad_cnt (p : Nat) (d : Pad) : (setPad p d s).cnt = s.cnt := rfl
@[simp] theorem setPad_mem (p : Nat) (d : Pad) : (setPad p d s).mem = s.mem := rfl
@[simp] theorem setPad_loft (p : Nat) (d : Pad) : (setPad p d s).loft = s.loft := rfl
@[simp] theorem setPad_xlt (p : Nat) (d : Pad) : (setPad p d s).xlt = s.xlt := rfl
@[simp] theorem setPad_stk (p : Nat) (d : Pad) : (setPad p d s).stk = s.stk := rfl
@[simp] theorem setPad_posts (p : Nat) (d : Pad) : (setPad p d s).posts = s.posts := rfl
@[simp] theorem setPad_cores (p : Nat) (d : Pad) : (setPad p d s).cores = s.cores := rfl
@[simp] theorem setPad_accs (p : Nat) (d : Pad) : (setPad p d s).accs = s.accs := rfl
@[simp] theorem setPad_copies (p : Nat) (d : Pad) : (setPad p d s).copies = s.copies := rfl
@[simp] theorem setPad_nextAcc (p : Nat) (d : Pad) : (setPad p d s).nextAcc = s.nextAcc := rfl
@[simp] theorem setPad_mesh (p : Nat) (d : Pad) : (setPad p d s).mesh = s.mesh := rfl
@[simp] theorem setPad_drays (p : Nat) (d : Pad) : (setPad p d s).drays = s.drays := rfl
@[simp] theorem setPad_links (p : Nat) (d : Pad) : (setPad p d s).links = s.links := rfl
@[simp] theorem setPad_pads (p : Nat) (d : Pad) : (setPad p d s).pads = tput s.pads p d := rfl
@[simp] theorem setPad_snaps (p : Nat) (d : Pad) : (setPad p d s).snaps = s.snaps := rfl
@[simp] theorem setPad_pwr (p : Nat) (d : Pad) : (setPad p d s).pwr = s.pwr := rfl
@[simp] theorem setPad_sec (p : Nat) (d : Pad) : (setPad p d s).sec = s.sec := rfl
@[simp] theorem setPad_start (p : Nat) (d : Pad) : (setPad p d s).start = s.start := rfl
@[simp] theorem setPad_shadow (p : Nat) (d : Pad) : (setPad p d s).shadow = s.shadow := rfl
@[simp] theorem setPad_latches (p : Nat) (d : Pad) : (setPad p d s).latches = s.latches := rfl
@[simp] theorem setPad_reply (p : Nat) (d : Pad) : (setPad p d s).reply = s.reply := rfl
@[simp] theorem setPad_free (p : Nat) (d : Pad) : (setPad p d s).free = s.free := rfl

@[simp] theorem setSpace_pending (t : Nat) (a : AddrSpace) : (setSpace t a s).pending = s.pending := rfl
@[simp] theorem setSpace_pins (t : Nat) (a : AddrSpace) : (setSpace t a s).pins = s.pins := rfl
@[simp] theorem setSpace_panel (t : Nat) (a : AddrSpace) : (setSpace t a s).panel = s.panel := rfl
@[simp] theorem setSpace_hosts (t : Nat) (a : AddrSpace) : (setSpace t a s).hosts = s.hosts := rfl
@[simp] theorem setSpace_rings (t : Nat) (a : AddrSpace) : (setSpace t a s).rings = s.rings := rfl
@[simp] theorem setSpace_ym (t : Nat) (a : AddrSpace) : (setSpace t a s).ym = s.ym := rfl
@[simp] theorem setSpace_flt (t : Nat) (a : AddrSpace) : (setSpace t a s).flt = s.flt := rfl
@[simp] theorem setSpace_beat (t : Nat) (a : AddrSpace) : (setSpace t a s).beat = s.beat := rfl
@[simp] theorem setSpace_cnt (t : Nat) (a : AddrSpace) : (setSpace t a s).cnt = s.cnt := rfl
@[simp] theorem setSpace_mem (t : Nat) (a : AddrSpace) : (setSpace t a s).mem = s.mem := rfl
@[simp] theorem setSpace_loft (t : Nat) (a : AddrSpace) : (setSpace t a s).loft = s.loft := rfl
@[simp] theorem setSpace_xlt (t : Nat) (a : AddrSpace) : (setSpace t a s).xlt = { s.xlt with spaces := tput s.xlt.spaces t a } := rfl
@[simp] theorem setSpace_stk (t : Nat) (a : AddrSpace) : (setSpace t a s).stk = s.stk := rfl
@[simp] theorem setSpace_posts (t : Nat) (a : AddrSpace) : (setSpace t a s).posts = s.posts := rfl
@[simp] theorem setSpace_cores (t : Nat) (a : AddrSpace) : (setSpace t a s).cores = s.cores := rfl
@[simp] theorem setSpace_accs (t : Nat) (a : AddrSpace) : (setSpace t a s).accs = s.accs := rfl
@[simp] theorem setSpace_copies (t : Nat) (a : AddrSpace) : (setSpace t a s).copies = s.copies := rfl
@[simp] theorem setSpace_nextAcc (t : Nat) (a : AddrSpace) : (setSpace t a s).nextAcc = s.nextAcc := rfl
@[simp] theorem setSpace_mesh (t : Nat) (a : AddrSpace) : (setSpace t a s).mesh = s.mesh := rfl
@[simp] theorem setSpace_drays (t : Nat) (a : AddrSpace) : (setSpace t a s).drays = s.drays := rfl
@[simp] theorem setSpace_links (t : Nat) (a : AddrSpace) : (setSpace t a s).links = s.links := rfl
@[simp] theorem setSpace_pads (t : Nat) (a : AddrSpace) : (setSpace t a s).pads = s.pads := rfl
@[simp] theorem setSpace_snaps (t : Nat) (a : AddrSpace) : (setSpace t a s).snaps = s.snaps := rfl
@[simp] theorem setSpace_pwr (t : Nat) (a : AddrSpace) : (setSpace t a s).pwr = s.pwr := rfl
@[simp] theorem setSpace_sec (t : Nat) (a : AddrSpace) : (setSpace t a s).sec = s.sec := rfl
@[simp] theorem setSpace_start (t : Nat) (a : AddrSpace) : (setSpace t a s).start = s.start := rfl
@[simp] theorem setSpace_shadow (t : Nat) (a : AddrSpace) : (setSpace t a s).shadow = s.shadow := rfl
@[simp] theorem setSpace_latches (t : Nat) (a : AddrSpace) : (setSpace t a s).latches = s.latches := rfl
@[simp] theorem setSpace_reply (t : Nat) (a : AddrSpace) : (setSpace t a s).reply = s.reply := rfl
@[simp] theorem setSpace_free (t : Nat) (a : AddrSpace) : (setSpace t a s).free = s.free := rfl

@[simp] theorem setWin_pending (w : Nat) (x : Window) : (setWin w x s).pending = s.pending := rfl
@[simp] theorem setWin_pins (w : Nat) (x : Window) : (setWin w x s).pins = s.pins := rfl
@[simp] theorem setWin_panel (w : Nat) (x : Window) : (setWin w x s).panel = s.panel := rfl
@[simp] theorem setWin_hosts (w : Nat) (x : Window) : (setWin w x s).hosts = s.hosts := rfl
@[simp] theorem setWin_rings (w : Nat) (x : Window) : (setWin w x s).rings = s.rings := rfl
@[simp] theorem setWin_ym (w : Nat) (x : Window) : (setWin w x s).ym = s.ym := rfl
@[simp] theorem setWin_flt (w : Nat) (x : Window) : (setWin w x s).flt = s.flt := rfl
@[simp] theorem setWin_beat (w : Nat) (x : Window) : (setWin w x s).beat = s.beat := rfl
@[simp] theorem setWin_cnt (w : Nat) (x : Window) : (setWin w x s).cnt = s.cnt := rfl
@[simp] theorem setWin_mem (w : Nat) (x : Window) : (setWin w x s).mem = s.mem := rfl
@[simp] theorem setWin_loft (w : Nat) (x : Window) : (setWin w x s).loft = s.loft := rfl
@[simp] theorem setWin_xlt (w : Nat) (x : Window) : (setWin w x s).xlt = { s.xlt with wins := tput s.xlt.wins w x } := rfl
@[simp] theorem setWin_stk (w : Nat) (x : Window) : (setWin w x s).stk = s.stk := rfl
@[simp] theorem setWin_posts (w : Nat) (x : Window) : (setWin w x s).posts = s.posts := rfl
@[simp] theorem setWin_cores (w : Nat) (x : Window) : (setWin w x s).cores = s.cores := rfl
@[simp] theorem setWin_accs (w : Nat) (x : Window) : (setWin w x s).accs = s.accs := rfl
@[simp] theorem setWin_copies (w : Nat) (x : Window) : (setWin w x s).copies = s.copies := rfl
@[simp] theorem setWin_nextAcc (w : Nat) (x : Window) : (setWin w x s).nextAcc = s.nextAcc := rfl
@[simp] theorem setWin_mesh (w : Nat) (x : Window) : (setWin w x s).mesh = s.mesh := rfl
@[simp] theorem setWin_drays (w : Nat) (x : Window) : (setWin w x s).drays = s.drays := rfl
@[simp] theorem setWin_links (w : Nat) (x : Window) : (setWin w x s).links = s.links := rfl
@[simp] theorem setWin_pads (w : Nat) (x : Window) : (setWin w x s).pads = s.pads := rfl
@[simp] theorem setWin_snaps (w : Nat) (x : Window) : (setWin w x s).snaps = s.snaps := rfl
@[simp] theorem setWin_pwr (w : Nat) (x : Window) : (setWin w x s).pwr = s.pwr := rfl
@[simp] theorem setWin_sec (w : Nat) (x : Window) : (setWin w x s).sec = s.sec := rfl
@[simp] theorem setWin_start (w : Nat) (x : Window) : (setWin w x s).start = s.start := rfl
@[simp] theorem setWin_shadow (w : Nat) (x : Window) : (setWin w x s).shadow = s.shadow := rfl
@[simp] theorem setWin_latches (w : Nat) (x : Window) : (setWin w x s).latches = s.latches := rfl
@[simp] theorem setWin_reply (w : Nat) (x : Window) : (setWin w x s).reply = s.reply := rfl
@[simp] theorem setWin_free (w : Nat) (x : Window) : (setWin w x s).free = s.free := rfl

@[simp] theorem setPort_pending (p : Fin 36) (x : Port) : (setPort p x s).pending = s.pending := rfl
@[simp] theorem setPort_pins (p : Fin 36) (x : Port) : (setPort p x s).pins = s.pins := rfl
@[simp] theorem setPort_panel (p : Fin 36) (x : Port) : (setPort p x s).panel = s.panel := rfl
@[simp] theorem setPort_hosts (p : Fin 36) (x : Port) : (setPort p x s).hosts = s.hosts := rfl
@[simp] theorem setPort_rings (p : Fin 36) (x : Port) : (setPort p x s).rings = s.rings := rfl
@[simp] theorem setPort_ym (p : Fin 36) (x : Port) : (setPort p x s).ym = s.ym := rfl
@[simp] theorem setPort_flt (p : Fin 36) (x : Port) : (setPort p x s).flt = s.flt := rfl
@[simp] theorem setPort_beat (p : Fin 36) (x : Port) : (setPort p x s).beat = s.beat := rfl
@[simp] theorem setPort_cnt (p : Fin 36) (x : Port) : (setPort p x s).cnt = s.cnt := rfl
@[simp] theorem setPort_mem (p : Fin 36) (x : Port) : (setPort p x s).mem = s.mem := rfl
@[simp] theorem setPort_loft (p : Fin 36) (x : Port) : (setPort p x s).loft = s.loft := rfl
@[simp] theorem setPort_xlt (p : Fin 36) (x : Port) : (setPort p x s).xlt = s.xlt := rfl
@[simp] theorem setPort_stk (p : Fin 36) (x : Port) : (setPort p x s).stk = s.stk := rfl
@[simp] theorem setPort_posts (p : Fin 36) (x : Port) : (setPort p x s).posts = s.posts := rfl
@[simp] theorem setPort_cores (p : Fin 36) (x : Port) : (setPort p x s).cores = s.cores := rfl
@[simp] theorem setPort_accs (p : Fin 36) (x : Port) : (setPort p x s).accs = s.accs := rfl
@[simp] theorem setPort_copies (p : Fin 36) (x : Port) : (setPort p x s).copies = s.copies := rfl
@[simp] theorem setPort_nextAcc (p : Fin 36) (x : Port) : (setPort p x s).nextAcc = s.nextAcc := rfl
@[simp] theorem setPort_mesh (p : Fin 36) (x : Port) : (setPort p x s).mesh = s.mesh := rfl
@[simp] theorem setPort_drays (p : Fin 36) (x : Port) : (setPort p x s).drays = s.drays := rfl
@[simp] theorem setPort_links (p : Fin 36) (x : Port) : (setPort p x s).links = { s.links with ports := s.links.ports.set p x } := rfl
@[simp] theorem setPort_pads (p : Fin 36) (x : Port) : (setPort p x s).pads = s.pads := rfl
@[simp] theorem setPort_snaps (p : Fin 36) (x : Port) : (setPort p x s).snaps = s.snaps := rfl
@[simp] theorem setPort_pwr (p : Fin 36) (x : Port) : (setPort p x s).pwr = s.pwr := rfl
@[simp] theorem setPort_sec (p : Fin 36) (x : Port) : (setPort p x s).sec = s.sec := rfl
@[simp] theorem setPort_start (p : Fin 36) (x : Port) : (setPort p x s).start = s.start := rfl
@[simp] theorem setPort_shadow (p : Fin 36) (x : Port) : (setPort p x s).shadow = s.shadow := rfl
@[simp] theorem setPort_latches (p : Fin 36) (x : Port) : (setPort p x s).latches = s.latches := rfl
@[simp] theorem setPort_reply (p : Fin 36) (x : Port) : (setPort p x s).reply = s.reply := rfl
@[simp] theorem setPort_free (p : Fin 36) (x : Port) : (setPort p x s).free = s.free := rfl

@[simp] theorem setSq_pending (q : Nat) (x : SendQ) : (setSq q x s).pending = s.pending := rfl
@[simp] theorem setSq_pins (q : Nat) (x : SendQ) : (setSq q x s).pins = s.pins := rfl
@[simp] theorem setSq_panel (q : Nat) (x : SendQ) : (setSq q x s).panel = s.panel := rfl
@[simp] theorem setSq_hosts (q : Nat) (x : SendQ) : (setSq q x s).hosts = s.hosts := rfl
@[simp] theorem setSq_rings (q : Nat) (x : SendQ) : (setSq q x s).rings = s.rings := rfl
@[simp] theorem setSq_ym (q : Nat) (x : SendQ) : (setSq q x s).ym = s.ym := rfl
@[simp] theorem setSq_flt (q : Nat) (x : SendQ) : (setSq q x s).flt = s.flt := rfl
@[simp] theorem setSq_beat (q : Nat) (x : SendQ) : (setSq q x s).beat = s.beat := rfl
@[simp] theorem setSq_cnt (q : Nat) (x : SendQ) : (setSq q x s).cnt = s.cnt := rfl
@[simp] theorem setSq_mem (q : Nat) (x : SendQ) : (setSq q x s).mem = s.mem := rfl
@[simp] theorem setSq_loft (q : Nat) (x : SendQ) : (setSq q x s).loft = s.loft := rfl
@[simp] theorem setSq_xlt (q : Nat) (x : SendQ) : (setSq q x s).xlt = s.xlt := rfl
@[simp] theorem setSq_stk (q : Nat) (x : SendQ) : (setSq q x s).stk = s.stk := rfl
@[simp] theorem setSq_posts (q : Nat) (x : SendQ) : (setSq q x s).posts = s.posts := rfl
@[simp] theorem setSq_cores (q : Nat) (x : SendQ) : (setSq q x s).cores = s.cores := rfl
@[simp] theorem setSq_accs (q : Nat) (x : SendQ) : (setSq q x s).accs = s.accs := rfl
@[simp] theorem setSq_copies (q : Nat) (x : SendQ) : (setSq q x s).copies = s.copies := rfl
@[simp] theorem setSq_nextAcc (q : Nat) (x : SendQ) : (setSq q x s).nextAcc = s.nextAcc := rfl
@[simp] theorem setSq_mesh (q : Nat) (x : SendQ) : (setSq q x s).mesh = s.mesh := rfl
@[simp] theorem setSq_drays (q : Nat) (x : SendQ) : (setSq q x s).drays = s.drays := rfl
@[simp] theorem setSq_links (q : Nat) (x : SendQ) : (setSq q x s).links = { s.links with sqs := tput s.links.sqs q x } := rfl
@[simp] theorem setSq_pads (q : Nat) (x : SendQ) : (setSq q x s).pads = s.pads := rfl
@[simp] theorem setSq_snaps (q : Nat) (x : SendQ) : (setSq q x s).snaps = s.snaps := rfl
@[simp] theorem setSq_pwr (q : Nat) (x : SendQ) : (setSq q x s).pwr = s.pwr := rfl
@[simp] theorem setSq_sec (q : Nat) (x : SendQ) : (setSq q x s).sec = s.sec := rfl
@[simp] theorem setSq_start (q : Nat) (x : SendQ) : (setSq q x s).start = s.start := rfl
@[simp] theorem setSq_shadow (q : Nat) (x : SendQ) : (setSq q x s).shadow = s.shadow := rfl
@[simp] theorem setSq_latches (q : Nat) (x : SendQ) : (setSq q x s).latches = s.latches := rfl
@[simp] theorem setSq_reply (q : Nat) (x : SendQ) : (setSq q x s).reply = s.reply := rfl
@[simp] theorem setSq_free (q : Nat) (x : SendQ) : (setSq q x s).free = s.free := rfl

@[simp] theorem setTgt_pending (t : Nat) (x : Target) : (setTgt t x s).pending = s.pending := rfl
@[simp] theorem setTgt_pins (t : Nat) (x : Target) : (setTgt t x s).pins = s.pins := rfl
@[simp] theorem setTgt_panel (t : Nat) (x : Target) : (setTgt t x s).panel = s.panel := rfl
@[simp] theorem setTgt_hosts (t : Nat) (x : Target) : (setTgt t x s).hosts = s.hosts := rfl
@[simp] theorem setTgt_rings (t : Nat) (x : Target) : (setTgt t x s).rings = s.rings := rfl
@[simp] theorem setTgt_ym (t : Nat) (x : Target) : (setTgt t x s).ym = s.ym := rfl
@[simp] theorem setTgt_flt (t : Nat) (x : Target) : (setTgt t x s).flt = s.flt := rfl
@[simp] theorem setTgt_beat (t : Nat) (x : Target) : (setTgt t x s).beat = s.beat := rfl
@[simp] theorem setTgt_cnt (t : Nat) (x : Target) : (setTgt t x s).cnt = s.cnt := rfl
@[simp] theorem setTgt_mem (t : Nat) (x : Target) : (setTgt t x s).mem = s.mem := rfl
@[simp] theorem setTgt_loft (t : Nat) (x : Target) : (setTgt t x s).loft = s.loft := rfl
@[simp] theorem setTgt_xlt (t : Nat) (x : Target) : (setTgt t x s).xlt = s.xlt := rfl
@[simp] theorem setTgt_stk (t : Nat) (x : Target) : (setTgt t x s).stk = s.stk := rfl
@[simp] theorem setTgt_posts (t : Nat) (x : Target) : (setTgt t x s).posts = s.posts := rfl
@[simp] theorem setTgt_cores (t : Nat) (x : Target) : (setTgt t x s).cores = s.cores := rfl
@[simp] theorem setTgt_accs (t : Nat) (x : Target) : (setTgt t x s).accs = s.accs := rfl
@[simp] theorem setTgt_copies (t : Nat) (x : Target) : (setTgt t x s).copies = s.copies := rfl
@[simp] theorem setTgt_nextAcc (t : Nat) (x : Target) : (setTgt t x s).nextAcc = s.nextAcc := rfl
@[simp] theorem setTgt_mesh (t : Nat) (x : Target) : (setTgt t x s).mesh = s.mesh := rfl
@[simp] theorem setTgt_drays (t : Nat) (x : Target) : (setTgt t x s).drays = s.drays := rfl
@[simp] theorem setTgt_links (t : Nat) (x : Target) : (setTgt t x s).links = { s.links with tgts := tput s.links.tgts t x } := rfl
@[simp] theorem setTgt_pads (t : Nat) (x : Target) : (setTgt t x s).pads = s.pads := rfl
@[simp] theorem setTgt_snaps (t : Nat) (x : Target) : (setTgt t x s).snaps = s.snaps := rfl
@[simp] theorem setTgt_pwr (t : Nat) (x : Target) : (setTgt t x s).pwr = s.pwr := rfl
@[simp] theorem setTgt_sec (t : Nat) (x : Target) : (setTgt t x s).sec = s.sec := rfl
@[simp] theorem setTgt_start (t : Nat) (x : Target) : (setTgt t x s).start = s.start := rfl
@[simp] theorem setTgt_shadow (t : Nat) (x : Target) : (setTgt t x s).shadow = s.shadow := rfl
@[simp] theorem setTgt_latches (t : Nat) (x : Target) : (setTgt t x s).latches = s.latches := rfl
@[simp] theorem setTgt_reply (t : Nat) (x : Target) : (setTgt t x s).reply = s.reply := rfl
@[simp] theorem setTgt_free (t : Nat) (x : Target) : (setTgt t x s).free = s.free := rfl

@[simp] theorem setChk_pending (k : Nat) (x : CheckUnit) : (setChk k x s).pending = s.pending := rfl
@[simp] theorem setChk_pins (k : Nat) (x : CheckUnit) : (setChk k x s).pins = s.pins := rfl
@[simp] theorem setChk_panel (k : Nat) (x : CheckUnit) : (setChk k x s).panel = s.panel := rfl
@[simp] theorem setChk_hosts (k : Nat) (x : CheckUnit) : (setChk k x s).hosts = s.hosts := rfl
@[simp] theorem setChk_rings (k : Nat) (x : CheckUnit) : (setChk k x s).rings = s.rings := rfl
@[simp] theorem setChk_ym (k : Nat) (x : CheckUnit) : (setChk k x s).ym = s.ym := rfl
@[simp] theorem setChk_flt (k : Nat) (x : CheckUnit) : (setChk k x s).flt = s.flt := rfl
@[simp] theorem setChk_beat (k : Nat) (x : CheckUnit) : (setChk k x s).beat = s.beat := rfl
@[simp] theorem setChk_cnt (k : Nat) (x : CheckUnit) : (setChk k x s).cnt = s.cnt := rfl
@[simp] theorem setChk_mem (k : Nat) (x : CheckUnit) : (setChk k x s).mem = s.mem := rfl
@[simp] theorem setChk_loft (k : Nat) (x : CheckUnit) : (setChk k x s).loft = s.loft := rfl
@[simp] theorem setChk_xlt (k : Nat) (x : CheckUnit) : (setChk k x s).xlt = s.xlt := rfl
@[simp] theorem setChk_stk (k : Nat) (x : CheckUnit) : (setChk k x s).stk = s.stk := rfl
@[simp] theorem setChk_posts (k : Nat) (x : CheckUnit) : (setChk k x s).posts = s.posts := rfl
@[simp] theorem setChk_cores (k : Nat) (x : CheckUnit) : (setChk k x s).cores = s.cores := rfl
@[simp] theorem setChk_accs (k : Nat) (x : CheckUnit) : (setChk k x s).accs = s.accs := rfl
@[simp] theorem setChk_copies (k : Nat) (x : CheckUnit) : (setChk k x s).copies = s.copies := rfl
@[simp] theorem setChk_nextAcc (k : Nat) (x : CheckUnit) : (setChk k x s).nextAcc = s.nextAcc := rfl
@[simp] theorem setChk_mesh (k : Nat) (x : CheckUnit) : (setChk k x s).mesh = s.mesh := rfl
@[simp] theorem setChk_drays (k : Nat) (x : CheckUnit) : (setChk k x s).drays = s.drays := rfl
@[simp] theorem setChk_links (k : Nat) (x : CheckUnit) : (setChk k x s).links = { s.links with checks := tput s.links.checks k x } := rfl
@[simp] theorem setChk_pads (k : Nat) (x : CheckUnit) : (setChk k x s).pads = s.pads := rfl
@[simp] theorem setChk_snaps (k : Nat) (x : CheckUnit) : (setChk k x s).snaps = s.snaps := rfl
@[simp] theorem setChk_pwr (k : Nat) (x : CheckUnit) : (setChk k x s).pwr = s.pwr := rfl
@[simp] theorem setChk_sec (k : Nat) (x : CheckUnit) : (setChk k x s).sec = s.sec := rfl
@[simp] theorem setChk_start (k : Nat) (x : CheckUnit) : (setChk k x s).start = s.start := rfl
@[simp] theorem setChk_shadow (k : Nat) (x : CheckUnit) : (setChk k x s).shadow = s.shadow := rfl
@[simp] theorem setChk_latches (k : Nat) (x : CheckUnit) : (setChk k x s).latches = s.latches := rfl
@[simp] theorem setChk_reply (k : Nat) (x : CheckUnit) : (setChk k x s).reply = s.reply := rfl
@[simp] theorem setChk_free (k : Nat) (x : CheckUnit) : (setChk k x s).free = s.free := rfl

@[simp] theorem setHost_pending (h : Fin 2) (x : HostPort) : (setHost h x s).pending = s.pending := rfl
@[simp] theorem setHost_pins (h : Fin 2) (x : HostPort) : (setHost h x s).pins = s.pins := rfl
@[simp] theorem setHost_panel (h : Fin 2) (x : HostPort) : (setHost h x s).panel = s.panel := rfl
@[simp] theorem setHost_hosts (h : Fin 2) (x : HostPort) : (setHost h x s).hosts = s.hosts.set h x := rfl
@[simp] theorem setHost_rings (h : Fin 2) (x : HostPort) : (setHost h x s).rings = s.rings := rfl
@[simp] theorem setHost_ym (h : Fin 2) (x : HostPort) : (setHost h x s).ym = s.ym := rfl
@[simp] theorem setHost_flt (h : Fin 2) (x : HostPort) : (setHost h x s).flt = s.flt := rfl
@[simp] theorem setHost_beat (h : Fin 2) (x : HostPort) : (setHost h x s).beat = s.beat := rfl
@[simp] theorem setHost_cnt (h : Fin 2) (x : HostPort) : (setHost h x s).cnt = s.cnt := rfl
@[simp] theorem setHost_mem (h : Fin 2) (x : HostPort) : (setHost h x s).mem = s.mem := rfl
@[simp] theorem setHost_loft (h : Fin 2) (x : HostPort) : (setHost h x s).loft = s.loft := rfl
@[simp] theorem setHost_xlt (h : Fin 2) (x : HostPort) : (setHost h x s).xlt = s.xlt := rfl
@[simp] theorem setHost_stk (h : Fin 2) (x : HostPort) : (setHost h x s).stk = s.stk := rfl
@[simp] theorem setHost_posts (h : Fin 2) (x : HostPort) : (setHost h x s).posts = s.posts := rfl
@[simp] theorem setHost_cores (h : Fin 2) (x : HostPort) : (setHost h x s).cores = s.cores := rfl
@[simp] theorem setHost_accs (h : Fin 2) (x : HostPort) : (setHost h x s).accs = s.accs := rfl
@[simp] theorem setHost_copies (h : Fin 2) (x : HostPort) : (setHost h x s).copies = s.copies := rfl
@[simp] theorem setHost_nextAcc (h : Fin 2) (x : HostPort) : (setHost h x s).nextAcc = s.nextAcc := rfl
@[simp] theorem setHost_mesh (h : Fin 2) (x : HostPort) : (setHost h x s).mesh = s.mesh := rfl
@[simp] theorem setHost_drays (h : Fin 2) (x : HostPort) : (setHost h x s).drays = s.drays := rfl
@[simp] theorem setHost_links (h : Fin 2) (x : HostPort) : (setHost h x s).links = s.links := rfl
@[simp] theorem setHost_pads (h : Fin 2) (x : HostPort) : (setHost h x s).pads = s.pads := rfl
@[simp] theorem setHost_snaps (h : Fin 2) (x : HostPort) : (setHost h x s).snaps = s.snaps := rfl
@[simp] theorem setHost_pwr (h : Fin 2) (x : HostPort) : (setHost h x s).pwr = s.pwr := rfl
@[simp] theorem setHost_sec (h : Fin 2) (x : HostPort) : (setHost h x s).sec = s.sec := rfl
@[simp] theorem setHost_start (h : Fin 2) (x : HostPort) : (setHost h x s).start = s.start := rfl
@[simp] theorem setHost_shadow (h : Fin 2) (x : HostPort) : (setHost h x s).shadow = s.shadow := rfl
@[simp] theorem setHost_latches (h : Fin 2) (x : HostPort) : (setHost h x s).latches = s.latches := rfl
@[simp] theorem setHost_reply (h : Fin 2) (x : HostPort) : (setHost h x s).reply = s.reply := rfl
@[simp] theorem setHost_free (h : Fin 2) (x : HostPort) : (setHost h x s).free = s.free := rfl

@[simp] theorem bump_pending (i n : Nat) : (bump i n s).pending = s.pending := rfl
@[simp] theorem bump_pins (i n : Nat) : (bump i n s).pins = s.pins := rfl
@[simp] theorem bump_panel (i n : Nat) : (bump i n s).panel = s.panel := rfl
@[simp] theorem bump_hosts (i n : Nat) : (bump i n s).hosts = s.hosts := rfl
@[simp] theorem bump_rings (i n : Nat) : (bump i n s).rings = s.rings := rfl
@[simp] theorem bump_ym (i n : Nat) : (bump i n s).ym = s.ym := rfl
@[simp] theorem bump_flt (i n : Nat) : (bump i n s).flt = s.flt := rfl
@[simp] theorem bump_beat (i n : Nat) : (bump i n s).beat = s.beat := rfl
@[simp] theorem bump_cnt (i n : Nat) : (bump i n s).cnt = { s.cnt with live := tmod s.cnt.live i 0 fun c => c + BitVec.ofNat 64 n } := rfl
@[simp] theorem bump_mem (i n : Nat) : (bump i n s).mem = s.mem := rfl
@[simp] theorem bump_loft (i n : Nat) : (bump i n s).loft = s.loft := rfl
@[simp] theorem bump_xlt (i n : Nat) : (bump i n s).xlt = s.xlt := rfl
@[simp] theorem bump_stk (i n : Nat) : (bump i n s).stk = s.stk := rfl
@[simp] theorem bump_posts (i n : Nat) : (bump i n s).posts = s.posts := rfl
@[simp] theorem bump_cores (i n : Nat) : (bump i n s).cores = s.cores := rfl
@[simp] theorem bump_accs (i n : Nat) : (bump i n s).accs = s.accs := rfl
@[simp] theorem bump_copies (i n : Nat) : (bump i n s).copies = s.copies := rfl
@[simp] theorem bump_nextAcc (i n : Nat) : (bump i n s).nextAcc = s.nextAcc := rfl
@[simp] theorem bump_mesh (i n : Nat) : (bump i n s).mesh = s.mesh := rfl
@[simp] theorem bump_drays (i n : Nat) : (bump i n s).drays = s.drays := rfl
@[simp] theorem bump_links (i n : Nat) : (bump i n s).links = s.links := rfl
@[simp] theorem bump_pads (i n : Nat) : (bump i n s).pads = s.pads := rfl
@[simp] theorem bump_snaps (i n : Nat) : (bump i n s).snaps = s.snaps := rfl
@[simp] theorem bump_pwr (i n : Nat) : (bump i n s).pwr = s.pwr := rfl
@[simp] theorem bump_sec (i n : Nat) : (bump i n s).sec = s.sec := rfl
@[simp] theorem bump_start (i n : Nat) : (bump i n s).start = s.start := rfl
@[simp] theorem bump_shadow (i n : Nat) : (bump i n s).shadow = s.shadow := rfl
@[simp] theorem bump_latches (i n : Nat) : (bump i n s).latches = s.latches := rfl
@[simp] theorem bump_reply (i n : Nat) : (bump i n s).reply = s.reply := rfl
@[simp] theorem bump_free (i n : Nat) : (bump i n s).free = s.free := rfl

@[simp] theorem useFree_pending : (useFree s).pending = s.pending := rfl
@[simp] theorem useFree_pins : (useFree s).pins = s.pins := rfl
@[simp] theorem useFree_panel : (useFree s).panel = s.panel := rfl
@[simp] theorem useFree_hosts : (useFree s).hosts = s.hosts := rfl
@[simp] theorem useFree_rings : (useFree s).rings = s.rings := rfl
@[simp] theorem useFree_ym : (useFree s).ym = s.ym := rfl
@[simp] theorem useFree_flt : (useFree s).flt = s.flt := rfl
@[simp] theorem useFree_beat : (useFree s).beat = s.beat := rfl
@[simp] theorem useFree_cnt : (useFree s).cnt = s.cnt := rfl
@[simp] theorem useFree_mem : (useFree s).mem = s.mem := rfl
@[simp] theorem useFree_loft : (useFree s).loft = s.loft := rfl
@[simp] theorem useFree_xlt : (useFree s).xlt = s.xlt := rfl
@[simp] theorem useFree_stk : (useFree s).stk = s.stk := rfl
@[simp] theorem useFree_posts : (useFree s).posts = s.posts := rfl
@[simp] theorem useFree_cores : (useFree s).cores = s.cores := rfl
@[simp] theorem useFree_accs : (useFree s).accs = s.accs := rfl
@[simp] theorem useFree_copies : (useFree s).copies = s.copies := rfl
@[simp] theorem useFree_nextAcc : (useFree s).nextAcc = s.nextAcc := rfl
@[simp] theorem useFree_mesh : (useFree s).mesh = s.mesh := rfl
@[simp] theorem useFree_drays : (useFree s).drays = s.drays := rfl
@[simp] theorem useFree_links : (useFree s).links = s.links := rfl
@[simp] theorem useFree_pads : (useFree s).pads = s.pads := rfl
@[simp] theorem useFree_snaps : (useFree s).snaps = s.snaps := rfl
@[simp] theorem useFree_pwr : (useFree s).pwr = s.pwr := rfl
@[simp] theorem useFree_sec : (useFree s).sec = s.sec := rfl
@[simp] theorem useFree_start : (useFree s).start = s.start := rfl
@[simp] theorem useFree_shadow : (useFree s).shadow = s.shadow := rfl
@[simp] theorem useFree_latches : (useFree s).latches = s.latches := rfl
@[simp] theorem useFree_reply : (useFree s).reply = s.reply := rfl
@[simp] theorem useFree_free : (useFree s).free = s.free + 1 := rfl

@[simp] theorem withReply_pending (bs : List Byte) : (withReply bs s).pending = s.pending := rfl
@[simp] theorem withReply_pins (bs : List Byte) : (withReply bs s).pins = s.pins := rfl
@[simp] theorem withReply_panel (bs : List Byte) : (withReply bs s).panel = s.panel := rfl
@[simp] theorem withReply_hosts (bs : List Byte) : (withReply bs s).hosts = s.hosts := rfl
@[simp] theorem withReply_rings (bs : List Byte) : (withReply bs s).rings = s.rings := rfl
@[simp] theorem withReply_ym (bs : List Byte) : (withReply bs s).ym = s.ym := rfl
@[simp] theorem withReply_flt (bs : List Byte) : (withReply bs s).flt = s.flt := rfl
@[simp] theorem withReply_beat (bs : List Byte) : (withReply bs s).beat = s.beat := rfl
@[simp] theorem withReply_cnt (bs : List Byte) : (withReply bs s).cnt = s.cnt := rfl
@[simp] theorem withReply_mem (bs : List Byte) : (withReply bs s).mem = s.mem := rfl
@[simp] theorem withReply_loft (bs : List Byte) : (withReply bs s).loft = s.loft := rfl
@[simp] theorem withReply_xlt (bs : List Byte) : (withReply bs s).xlt = s.xlt := rfl
@[simp] theorem withReply_stk (bs : List Byte) : (withReply bs s).stk = s.stk := rfl
@[simp] theorem withReply_posts (bs : List Byte) : (withReply bs s).posts = s.posts := rfl
@[simp] theorem withReply_cores (bs : List Byte) : (withReply bs s).cores = s.cores := rfl
@[simp] theorem withReply_accs (bs : List Byte) : (withReply bs s).accs = s.accs := rfl
@[simp] theorem withReply_copies (bs : List Byte) : (withReply bs s).copies = s.copies := rfl
@[simp] theorem withReply_nextAcc (bs : List Byte) : (withReply bs s).nextAcc = s.nextAcc := rfl
@[simp] theorem withReply_mesh (bs : List Byte) : (withReply bs s).mesh = s.mesh := rfl
@[simp] theorem withReply_drays (bs : List Byte) : (withReply bs s).drays = s.drays := rfl
@[simp] theorem withReply_links (bs : List Byte) : (withReply bs s).links = s.links := rfl
@[simp] theorem withReply_pads (bs : List Byte) : (withReply bs s).pads = s.pads := rfl
@[simp] theorem withReply_snaps (bs : List Byte) : (withReply bs s).snaps = s.snaps := rfl
@[simp] theorem withReply_pwr (bs : List Byte) : (withReply bs s).pwr = s.pwr := rfl
@[simp] theorem withReply_sec (bs : List Byte) : (withReply bs s).sec = s.sec := rfl
@[simp] theorem withReply_start (bs : List Byte) : (withReply bs s).start = s.start := rfl
@[simp] theorem withReply_shadow (bs : List Byte) : (withReply bs s).shadow = s.shadow := rfl
@[simp] theorem withReply_latches (bs : List Byte) : (withReply bs s).latches = s.latches := rfl
@[simp] theorem withReply_reply (bs : List Byte) : (withReply bs s).reply = bs := rfl
@[simp] theorem withReply_free (bs : List Byte) : (withReply bs s).free = s.free := rfl

@[simp] theorem setPanel_pending (f : Panel → Panel) : (setPanel f s).pending = s.pending := rfl
@[simp] theorem setPanel_pins (f : Panel → Panel) : (setPanel f s).pins = s.pins := rfl
@[simp] theorem setPanel_panel (f : Panel → Panel) : (setPanel f s).panel = f s.panel := rfl
@[simp] theorem setPanel_hosts (f : Panel → Panel) : (setPanel f s).hosts = s.hosts := rfl
@[simp] theorem setPanel_rings (f : Panel → Panel) : (setPanel f s).rings = s.rings := rfl
@[simp] theorem setPanel_ym (f : Panel → Panel) : (setPanel f s).ym = s.ym := rfl
@[simp] theorem setPanel_flt (f : Panel → Panel) : (setPanel f s).flt = s.flt := rfl
@[simp] theorem setPanel_beat (f : Panel → Panel) : (setPanel f s).beat = s.beat := rfl
@[simp] theorem setPanel_cnt (f : Panel → Panel) : (setPanel f s).cnt = s.cnt := rfl
@[simp] theorem setPanel_mem (f : Panel → Panel) : (setPanel f s).mem = s.mem := rfl
@[simp] theorem setPanel_loft (f : Panel → Panel) : (setPanel f s).loft = s.loft := rfl
@[simp] theorem setPanel_xlt (f : Panel → Panel) : (setPanel f s).xlt = s.xlt := rfl
@[simp] theorem setPanel_stk (f : Panel → Panel) : (setPanel f s).stk = s.stk := rfl
@[simp] theorem setPanel_posts (f : Panel → Panel) : (setPanel f s).posts = s.posts := rfl
@[simp] theorem setPanel_cores (f : Panel → Panel) : (setPanel f s).cores = s.cores := rfl
@[simp] theorem setPanel_accs (f : Panel → Panel) : (setPanel f s).accs = s.accs := rfl
@[simp] theorem setPanel_copies (f : Panel → Panel) : (setPanel f s).copies = s.copies := rfl
@[simp] theorem setPanel_nextAcc (f : Panel → Panel) : (setPanel f s).nextAcc = s.nextAcc := rfl
@[simp] theorem setPanel_mesh (f : Panel → Panel) : (setPanel f s).mesh = s.mesh := rfl
@[simp] theorem setPanel_drays (f : Panel → Panel) : (setPanel f s).drays = s.drays := rfl
@[simp] theorem setPanel_links (f : Panel → Panel) : (setPanel f s).links = s.links := rfl
@[simp] theorem setPanel_pads (f : Panel → Panel) : (setPanel f s).pads = s.pads := rfl
@[simp] theorem setPanel_snaps (f : Panel → Panel) : (setPanel f s).snaps = s.snaps := rfl
@[simp] theorem setPanel_pwr (f : Panel → Panel) : (setPanel f s).pwr = s.pwr := rfl
@[simp] theorem setPanel_sec (f : Panel → Panel) : (setPanel f s).sec = s.sec := rfl
@[simp] theorem setPanel_start (f : Panel → Panel) : (setPanel f s).start = s.start := rfl
@[simp] theorem setPanel_shadow (f : Panel → Panel) : (setPanel f s).shadow = s.shadow := rfl
@[simp] theorem setPanel_latches (f : Panel → Panel) : (setPanel f s).latches = s.latches := rfl
@[simp] theorem setPanel_reply (f : Panel → Panel) : (setPanel f s).reply = s.reply := rfl
@[simp] theorem setPanel_free (f : Panel → Panel) : (setPanel f s).free = s.free := rfl

@[simp] theorem setPwr_pending (f : Power → Power) : (setPwr f s).pending = s.pending := rfl
@[simp] theorem setPwr_pins (f : Power → Power) : (setPwr f s).pins = s.pins := rfl
@[simp] theorem setPwr_panel (f : Power → Power) : (setPwr f s).panel = s.panel := rfl
@[simp] theorem setPwr_hosts (f : Power → Power) : (setPwr f s).hosts = s.hosts := rfl
@[simp] theorem setPwr_rings (f : Power → Power) : (setPwr f s).rings = s.rings := rfl
@[simp] theorem setPwr_ym (f : Power → Power) : (setPwr f s).ym = s.ym := rfl
@[simp] theorem setPwr_flt (f : Power → Power) : (setPwr f s).flt = s.flt := rfl
@[simp] theorem setPwr_beat (f : Power → Power) : (setPwr f s).beat = s.beat := rfl
@[simp] theorem setPwr_cnt (f : Power → Power) : (setPwr f s).cnt = s.cnt := rfl
@[simp] theorem setPwr_mem (f : Power → Power) : (setPwr f s).mem = s.mem := rfl
@[simp] theorem setPwr_loft (f : Power → Power) : (setPwr f s).loft = s.loft := rfl
@[simp] theorem setPwr_xlt (f : Power → Power) : (setPwr f s).xlt = s.xlt := rfl
@[simp] theorem setPwr_stk (f : Power → Power) : (setPwr f s).stk = s.stk := rfl
@[simp] theorem setPwr_posts (f : Power → Power) : (setPwr f s).posts = s.posts := rfl
@[simp] theorem setPwr_cores (f : Power → Power) : (setPwr f s).cores = s.cores := rfl
@[simp] theorem setPwr_accs (f : Power → Power) : (setPwr f s).accs = s.accs := rfl
@[simp] theorem setPwr_copies (f : Power → Power) : (setPwr f s).copies = s.copies := rfl
@[simp] theorem setPwr_nextAcc (f : Power → Power) : (setPwr f s).nextAcc = s.nextAcc := rfl
@[simp] theorem setPwr_mesh (f : Power → Power) : (setPwr f s).mesh = s.mesh := rfl
@[simp] theorem setPwr_drays (f : Power → Power) : (setPwr f s).drays = s.drays := rfl
@[simp] theorem setPwr_links (f : Power → Power) : (setPwr f s).links = s.links := rfl
@[simp] theorem setPwr_pads (f : Power → Power) : (setPwr f s).pads = s.pads := rfl
@[simp] theorem setPwr_snaps (f : Power → Power) : (setPwr f s).snaps = s.snaps := rfl
@[simp] theorem setPwr_pwr (f : Power → Power) : (setPwr f s).pwr = f s.pwr := rfl
@[simp] theorem setPwr_sec (f : Power → Power) : (setPwr f s).sec = s.sec := rfl
@[simp] theorem setPwr_start (f : Power → Power) : (setPwr f s).start = s.start := rfl
@[simp] theorem setPwr_shadow (f : Power → Power) : (setPwr f s).shadow = s.shadow := rfl
@[simp] theorem setPwr_latches (f : Power → Power) : (setPwr f s).latches = s.latches := rfl
@[simp] theorem setPwr_reply (f : Power → Power) : (setPwr f s).reply = s.reply := rfl
@[simp] theorem setPwr_free (f : Power → Power) : (setPwr f s).free = s.free := rfl

@[simp] theorem setSec_pending (f : Sec → Sec) : (setSec f s).pending = s.pending := rfl
@[simp] theorem setSec_pins (f : Sec → Sec) : (setSec f s).pins = s.pins := rfl
@[simp] theorem setSec_panel (f : Sec → Sec) : (setSec f s).panel = s.panel := rfl
@[simp] theorem setSec_hosts (f : Sec → Sec) : (setSec f s).hosts = s.hosts := rfl
@[simp] theorem setSec_rings (f : Sec → Sec) : (setSec f s).rings = s.rings := rfl
@[simp] theorem setSec_ym (f : Sec → Sec) : (setSec f s).ym = s.ym := rfl
@[simp] theorem setSec_flt (f : Sec → Sec) : (setSec f s).flt = s.flt := rfl
@[simp] theorem setSec_beat (f : Sec → Sec) : (setSec f s).beat = s.beat := rfl
@[simp] theorem setSec_cnt (f : Sec → Sec) : (setSec f s).cnt = s.cnt := rfl
@[simp] theorem setSec_mem (f : Sec → Sec) : (setSec f s).mem = s.mem := rfl
@[simp] theorem setSec_loft (f : Sec → Sec) : (setSec f s).loft = s.loft := rfl
@[simp] theorem setSec_xlt (f : Sec → Sec) : (setSec f s).xlt = s.xlt := rfl
@[simp] theorem setSec_stk (f : Sec → Sec) : (setSec f s).stk = s.stk := rfl
@[simp] theorem setSec_posts (f : Sec → Sec) : (setSec f s).posts = s.posts := rfl
@[simp] theorem setSec_cores (f : Sec → Sec) : (setSec f s).cores = s.cores := rfl
@[simp] theorem setSec_accs (f : Sec → Sec) : (setSec f s).accs = s.accs := rfl
@[simp] theorem setSec_copies (f : Sec → Sec) : (setSec f s).copies = s.copies := rfl
@[simp] theorem setSec_nextAcc (f : Sec → Sec) : (setSec f s).nextAcc = s.nextAcc := rfl
@[simp] theorem setSec_mesh (f : Sec → Sec) : (setSec f s).mesh = s.mesh := rfl
@[simp] theorem setSec_drays (f : Sec → Sec) : (setSec f s).drays = s.drays := rfl
@[simp] theorem setSec_links (f : Sec → Sec) : (setSec f s).links = s.links := rfl
@[simp] theorem setSec_pads (f : Sec → Sec) : (setSec f s).pads = s.pads := rfl
@[simp] theorem setSec_snaps (f : Sec → Sec) : (setSec f s).snaps = s.snaps := rfl
@[simp] theorem setSec_pwr (f : Sec → Sec) : (setSec f s).pwr = s.pwr := rfl
@[simp] theorem setSec_sec (f : Sec → Sec) : (setSec f s).sec = f s.sec := rfl
@[simp] theorem setSec_start (f : Sec → Sec) : (setSec f s).start = s.start := rfl
@[simp] theorem setSec_shadow (f : Sec → Sec) : (setSec f s).shadow = s.shadow := rfl
@[simp] theorem setSec_latches (f : Sec → Sec) : (setSec f s).latches = s.latches := rfl
@[simp] theorem setSec_reply (f : Sec → Sec) : (setSec f s).reply = s.reply := rfl
@[simp] theorem setSec_free (f : Sec → Sec) : (setSec f s).free = s.free := rfl

@[simp] theorem setBeat_pending (f : Beat → Beat) : (setBeat f s).pending = s.pending := rfl
@[simp] theorem setBeat_pins (f : Beat → Beat) : (setBeat f s).pins = s.pins := rfl
@[simp] theorem setBeat_panel (f : Beat → Beat) : (setBeat f s).panel = s.panel := rfl
@[simp] theorem setBeat_hosts (f : Beat → Beat) : (setBeat f s).hosts = s.hosts := rfl
@[simp] theorem setBeat_rings (f : Beat → Beat) : (setBeat f s).rings = s.rings := rfl
@[simp] theorem setBeat_ym (f : Beat → Beat) : (setBeat f s).ym = s.ym := rfl
@[simp] theorem setBeat_flt (f : Beat → Beat) : (setBeat f s).flt = s.flt := rfl
@[simp] theorem setBeat_beat (f : Beat → Beat) : (setBeat f s).beat = f s.beat := rfl
@[simp] theorem setBeat_cnt (f : Beat → Beat) : (setBeat f s).cnt = s.cnt := rfl
@[simp] theorem setBeat_mem (f : Beat → Beat) : (setBeat f s).mem = s.mem := rfl
@[simp] theorem setBeat_loft (f : Beat → Beat) : (setBeat f s).loft = s.loft := rfl
@[simp] theorem setBeat_xlt (f : Beat → Beat) : (setBeat f s).xlt = s.xlt := rfl
@[simp] theorem setBeat_stk (f : Beat → Beat) : (setBeat f s).stk = s.stk := rfl
@[simp] theorem setBeat_posts (f : Beat → Beat) : (setBeat f s).posts = s.posts := rfl
@[simp] theorem setBeat_cores (f : Beat → Beat) : (setBeat f s).cores = s.cores := rfl
@[simp] theorem setBeat_accs (f : Beat → Beat) : (setBeat f s).accs = s.accs := rfl
@[simp] theorem setBeat_copies (f : Beat → Beat) : (setBeat f s).copies = s.copies := rfl
@[simp] theorem setBeat_nextAcc (f : Beat → Beat) : (setBeat f s).nextAcc = s.nextAcc := rfl
@[simp] theorem setBeat_mesh (f : Beat → Beat) : (setBeat f s).mesh = s.mesh := rfl
@[simp] theorem setBeat_drays (f : Beat → Beat) : (setBeat f s).drays = s.drays := rfl
@[simp] theorem setBeat_links (f : Beat → Beat) : (setBeat f s).links = s.links := rfl
@[simp] theorem setBeat_pads (f : Beat → Beat) : (setBeat f s).pads = s.pads := rfl
@[simp] theorem setBeat_snaps (f : Beat → Beat) : (setBeat f s).snaps = s.snaps := rfl
@[simp] theorem setBeat_pwr (f : Beat → Beat) : (setBeat f s).pwr = s.pwr := rfl
@[simp] theorem setBeat_sec (f : Beat → Beat) : (setBeat f s).sec = s.sec := rfl
@[simp] theorem setBeat_start (f : Beat → Beat) : (setBeat f s).start = s.start := rfl
@[simp] theorem setBeat_shadow (f : Beat → Beat) : (setBeat f s).shadow = s.shadow := rfl
@[simp] theorem setBeat_latches (f : Beat → Beat) : (setBeat f s).latches = s.latches := rfl
@[simp] theorem setBeat_reply (f : Beat → Beat) : (setBeat f s).reply = s.reply := rfl
@[simp] theorem setBeat_free (f : Beat → Beat) : (setBeat f s).free = s.free := rfl

@[simp] theorem setPostValue_pending (d : Nat) (v : W48) : (setPostValue d v s).pending = s.pending := rfl
@[simp] theorem setPostValue_pins (d : Nat) (v : W48) : (setPostValue d v s).pins = s.pins := rfl
@[simp] theorem setPostValue_panel (d : Nat) (v : W48) : (setPostValue d v s).panel = s.panel := rfl
@[simp] theorem setPostValue_hosts (d : Nat) (v : W48) : (setPostValue d v s).hosts = s.hosts := rfl
@[simp] theorem setPostValue_rings (d : Nat) (v : W48) : (setPostValue d v s).rings = s.rings := rfl
@[simp] theorem setPostValue_ym (d : Nat) (v : W48) : (setPostValue d v s).ym = s.ym := rfl
@[simp] theorem setPostValue_flt (d : Nat) (v : W48) : (setPostValue d v s).flt = s.flt := rfl
@[simp] theorem setPostValue_beat (d : Nat) (v : W48) : (setPostValue d v s).beat = s.beat := rfl
@[simp] theorem setPostValue_cnt (d : Nat) (v : W48) : (setPostValue d v s).cnt = s.cnt := rfl
@[simp] theorem setPostValue_mem (d : Nat) (v : W48) : (setPostValue d v s).mem = s.mem := rfl
@[simp] theorem setPostValue_loft (d : Nat) (v : W48) : (setPostValue d v s).loft = s.loft := rfl
@[simp] theorem setPostValue_xlt (d : Nat) (v : W48) : (setPostValue d v s).xlt = s.xlt := rfl
@[simp] theorem setPostValue_stk (d : Nat) (v : W48) : (setPostValue d v s).stk = s.stk := rfl
@[simp] theorem setPostValue_posts (d : Nat) (v : W48) : (setPostValue d v s).posts = { s.posts with cnt := if v = 0 then tdel s.posts.cnt d else tput s.posts.cnt d v } := rfl
@[simp] theorem setPostValue_cores (d : Nat) (v : W48) : (setPostValue d v s).cores = s.cores := rfl
@[simp] theorem setPostValue_accs (d : Nat) (v : W48) : (setPostValue d v s).accs = s.accs := rfl
@[simp] theorem setPostValue_copies (d : Nat) (v : W48) : (setPostValue d v s).copies = s.copies := rfl
@[simp] theorem setPostValue_nextAcc (d : Nat) (v : W48) : (setPostValue d v s).nextAcc = s.nextAcc := rfl
@[simp] theorem setPostValue_mesh (d : Nat) (v : W48) : (setPostValue d v s).mesh = s.mesh := rfl
@[simp] theorem setPostValue_drays (d : Nat) (v : W48) : (setPostValue d v s).drays = s.drays := rfl
@[simp] theorem setPostValue_links (d : Nat) (v : W48) : (setPostValue d v s).links = s.links := rfl
@[simp] theorem setPostValue_pads (d : Nat) (v : W48) : (setPostValue d v s).pads = s.pads := rfl
@[simp] theorem setPostValue_snaps (d : Nat) (v : W48) : (setPostValue d v s).snaps = s.snaps := rfl
@[simp] theorem setPostValue_pwr (d : Nat) (v : W48) : (setPostValue d v s).pwr = s.pwr := rfl
@[simp] theorem setPostValue_sec (d : Nat) (v : W48) : (setPostValue d v s).sec = s.sec := rfl
@[simp] theorem setPostValue_start (d : Nat) (v : W48) : (setPostValue d v s).start = s.start := rfl
@[simp] theorem setPostValue_shadow (d : Nat) (v : W48) : (setPostValue d v s).shadow = s.shadow := rfl
@[simp] theorem setPostValue_latches (d : Nat) (v : W48) : (setPostValue d v s).latches = s.latches := rfl
@[simp] theorem setPostValue_reply (d : Nat) (v : W48) : (setPostValue d v s).reply = s.reply := rfl
@[simp] theorem setPostValue_free (d : Nat) (v : W48) : (setPostValue d v s).free = s.free := rfl

@[simp] theorem setQueue_pending (k : Nat) (q : DrayQ) : (setQueue k q s).pending = s.pending := rfl
@[simp] theorem setQueue_pins (k : Nat) (q : DrayQ) : (setQueue k q s).pins = s.pins := rfl
@[simp] theorem setQueue_panel (k : Nat) (q : DrayQ) : (setQueue k q s).panel = s.panel := rfl
@[simp] theorem setQueue_hosts (k : Nat) (q : DrayQ) : (setQueue k q s).hosts = s.hosts := rfl
@[simp] theorem setQueue_rings (k : Nat) (q : DrayQ) : (setQueue k q s).rings = s.rings := rfl
@[simp] theorem setQueue_ym (k : Nat) (q : DrayQ) : (setQueue k q s).ym = s.ym := rfl
@[simp] theorem setQueue_flt (k : Nat) (q : DrayQ) : (setQueue k q s).flt = s.flt := rfl
@[simp] theorem setQueue_beat (k : Nat) (q : DrayQ) : (setQueue k q s).beat = s.beat := rfl
@[simp] theorem setQueue_cnt (k : Nat) (q : DrayQ) : (setQueue k q s).cnt = s.cnt := rfl
@[simp] theorem setQueue_mem (k : Nat) (q : DrayQ) : (setQueue k q s).mem = s.mem := rfl
@[simp] theorem setQueue_loft (k : Nat) (q : DrayQ) : (setQueue k q s).loft = s.loft := rfl
@[simp] theorem setQueue_xlt (k : Nat) (q : DrayQ) : (setQueue k q s).xlt = s.xlt := rfl
@[simp] theorem setQueue_stk (k : Nat) (q : DrayQ) : (setQueue k q s).stk = s.stk := rfl
@[simp] theorem setQueue_posts (k : Nat) (q : DrayQ) : (setQueue k q s).posts = s.posts := rfl
@[simp] theorem setQueue_cores (k : Nat) (q : DrayQ) : (setQueue k q s).cores = s.cores := rfl
@[simp] theorem setQueue_accs (k : Nat) (q : DrayQ) : (setQueue k q s).accs = s.accs := rfl
@[simp] theorem setQueue_copies (k : Nat) (q : DrayQ) : (setQueue k q s).copies = s.copies := rfl
@[simp] theorem setQueue_nextAcc (k : Nat) (q : DrayQ) : (setQueue k q s).nextAcc = s.nextAcc := rfl
@[simp] theorem setQueue_mesh (k : Nat) (q : DrayQ) : (setQueue k q s).mesh = s.mesh := rfl
@[simp] theorem setQueue_drays (k : Nat) (q : DrayQ) : (setQueue k q s).drays = { s.drays with queues := tput s.drays.queues k q } := rfl
@[simp] theorem setQueue_links (k : Nat) (q : DrayQ) : (setQueue k q s).links = s.links := rfl
@[simp] theorem setQueue_pads (k : Nat) (q : DrayQ) : (setQueue k q s).pads = s.pads := rfl
@[simp] theorem setQueue_snaps (k : Nat) (q : DrayQ) : (setQueue k q s).snaps = s.snaps := rfl
@[simp] theorem setQueue_pwr (k : Nat) (q : DrayQ) : (setQueue k q s).pwr = s.pwr := rfl
@[simp] theorem setQueue_sec (k : Nat) (q : DrayQ) : (setQueue k q s).sec = s.sec := rfl
@[simp] theorem setQueue_start (k : Nat) (q : DrayQ) : (setQueue k q s).start = s.start := rfl
@[simp] theorem setQueue_shadow (k : Nat) (q : DrayQ) : (setQueue k q s).shadow = s.shadow := rfl
@[simp] theorem setQueue_latches (k : Nat) (q : DrayQ) : (setQueue k q s).latches = s.latches := rfl
@[simp] theorem setQueue_reply (k : Nat) (q : DrayQ) : (setQueue k q s).reply = s.reply := rfl
@[simp] theorem setQueue_free (k : Nat) (q : DrayQ) : (setQueue k q s).free = s.free := rfl

@[simp] theorem setStk_pending (k : Fin 16) (x : Stack) : (setStk k x s).pending = s.pending := rfl
@[simp] theorem setStk_pins (k : Fin 16) (x : Stack) : (setStk k x s).pins = s.pins := rfl
@[simp] theorem setStk_panel (k : Fin 16) (x : Stack) : (setStk k x s).panel = s.panel := rfl
@[simp] theorem setStk_hosts (k : Fin 16) (x : Stack) : (setStk k x s).hosts = s.hosts := rfl
@[simp] theorem setStk_rings (k : Fin 16) (x : Stack) : (setStk k x s).rings = s.rings := rfl
@[simp] theorem setStk_ym (k : Fin 16) (x : Stack) : (setStk k x s).ym = s.ym := rfl
@[simp] theorem setStk_flt (k : Fin 16) (x : Stack) : (setStk k x s).flt = s.flt := rfl
@[simp] theorem setStk_beat (k : Fin 16) (x : Stack) : (setStk k x s).beat = s.beat := rfl
@[simp] theorem setStk_cnt (k : Fin 16) (x : Stack) : (setStk k x s).cnt = s.cnt := rfl
@[simp] theorem setStk_mem (k : Fin 16) (x : Stack) : (setStk k x s).mem = s.mem := rfl
@[simp] theorem setStk_loft (k : Fin 16) (x : Stack) : (setStk k x s).loft = s.loft := rfl
@[simp] theorem setStk_xlt (k : Fin 16) (x : Stack) : (setStk k x s).xlt = s.xlt := rfl
@[simp] theorem setStk_stk (k : Fin 16) (x : Stack) : (setStk k x s).stk = { s.stk with stk := s.stk.stk.set k x } := rfl
@[simp] theorem setStk_posts (k : Fin 16) (x : Stack) : (setStk k x s).posts = s.posts := rfl
@[simp] theorem setStk_cores (k : Fin 16) (x : Stack) : (setStk k x s).cores = s.cores := rfl
@[simp] theorem setStk_accs (k : Fin 16) (x : Stack) : (setStk k x s).accs = s.accs := rfl
@[simp] theorem setStk_copies (k : Fin 16) (x : Stack) : (setStk k x s).copies = s.copies := rfl
@[simp] theorem setStk_nextAcc (k : Fin 16) (x : Stack) : (setStk k x s).nextAcc = s.nextAcc := rfl
@[simp] theorem setStk_mesh (k : Fin 16) (x : Stack) : (setStk k x s).mesh = s.mesh := rfl
@[simp] theorem setStk_drays (k : Fin 16) (x : Stack) : (setStk k x s).drays = s.drays := rfl
@[simp] theorem setStk_links (k : Fin 16) (x : Stack) : (setStk k x s).links = s.links := rfl
@[simp] theorem setStk_pads (k : Fin 16) (x : Stack) : (setStk k x s).pads = s.pads := rfl
@[simp] theorem setStk_snaps (k : Fin 16) (x : Stack) : (setStk k x s).snaps = s.snaps := rfl
@[simp] theorem setStk_pwr (k : Fin 16) (x : Stack) : (setStk k x s).pwr = s.pwr := rfl
@[simp] theorem setStk_sec (k : Fin 16) (x : Stack) : (setStk k x s).sec = s.sec := rfl
@[simp] theorem setStk_start (k : Fin 16) (x : Stack) : (setStk k x s).start = s.start := rfl
@[simp] theorem setStk_shadow (k : Fin 16) (x : Stack) : (setStk k x s).shadow = s.shadow := rfl
@[simp] theorem setStk_latches (k : Fin 16) (x : Stack) : (setStk k x s).latches = s.latches := rfl
@[simp] theorem setStk_reply (k : Fin 16) (x : Stack) : (setStk k x s).reply = s.reply := rfl
@[simp] theorem setStk_free (k : Fin 16) (x : Stack) : (setStk k x s).free = s.free := rfl

@[simp] theorem setFrames_pending (fs : Tbl Frame) : (setFrames fs s).pending = s.pending := rfl
@[simp] theorem setFrames_pins (fs : Tbl Frame) : (setFrames fs s).pins = s.pins := rfl
@[simp] theorem setFrames_panel (fs : Tbl Frame) : (setFrames fs s).panel = s.panel := rfl
@[simp] theorem setFrames_hosts (fs : Tbl Frame) : (setFrames fs s).hosts = s.hosts := rfl
@[simp] theorem setFrames_rings (fs : Tbl Frame) : (setFrames fs s).rings = s.rings := rfl
@[simp] theorem setFrames_ym (fs : Tbl Frame) : (setFrames fs s).ym = s.ym := rfl
@[simp] theorem setFrames_flt (fs : Tbl Frame) : (setFrames fs s).flt = s.flt := rfl
@[simp] theorem setFrames_beat (fs : Tbl Frame) : (setFrames fs s).beat = s.beat := rfl
@[simp] theorem setFrames_cnt (fs : Tbl Frame) : (setFrames fs s).cnt = s.cnt := rfl
@[simp] theorem setFrames_mem (fs : Tbl Frame) : (setFrames fs s).mem = s.mem := rfl
@[simp] theorem setFrames_loft (fs : Tbl Frame) : (setFrames fs s).loft = { s.loft with frames := fs } := rfl
@[simp] theorem setFrames_xlt (fs : Tbl Frame) : (setFrames fs s).xlt = s.xlt := rfl
@[simp] theorem setFrames_stk (fs : Tbl Frame) : (setFrames fs s).stk = s.stk := rfl
@[simp] theorem setFrames_posts (fs : Tbl Frame) : (setFrames fs s).posts = s.posts := rfl
@[simp] theorem setFrames_cores (fs : Tbl Frame) : (setFrames fs s).cores = s.cores := rfl
@[simp] theorem setFrames_accs (fs : Tbl Frame) : (setFrames fs s).accs = s.accs := rfl
@[simp] theorem setFrames_copies (fs : Tbl Frame) : (setFrames fs s).copies = s.copies := rfl
@[simp] theorem setFrames_nextAcc (fs : Tbl Frame) : (setFrames fs s).nextAcc = s.nextAcc := rfl
@[simp] theorem setFrames_mesh (fs : Tbl Frame) : (setFrames fs s).mesh = s.mesh := rfl
@[simp] theorem setFrames_drays (fs : Tbl Frame) : (setFrames fs s).drays = s.drays := rfl
@[simp] theorem setFrames_links (fs : Tbl Frame) : (setFrames fs s).links = s.links := rfl
@[simp] theorem setFrames_pads (fs : Tbl Frame) : (setFrames fs s).pads = s.pads := rfl
@[simp] theorem setFrames_snaps (fs : Tbl Frame) : (setFrames fs s).snaps = s.snaps := rfl
@[simp] theorem setFrames_pwr (fs : Tbl Frame) : (setFrames fs s).pwr = s.pwr := rfl
@[simp] theorem setFrames_sec (fs : Tbl Frame) : (setFrames fs s).sec = s.sec := rfl
@[simp] theorem setFrames_start (fs : Tbl Frame) : (setFrames fs s).start = s.start := rfl
@[simp] theorem setFrames_shadow (fs : Tbl Frame) : (setFrames fs s).shadow = s.shadow := rfl
@[simp] theorem setFrames_latches (fs : Tbl Frame) : (setFrames fs s).latches = s.latches := rfl
@[simp] theorem setFrames_reply (fs : Tbl Frame) : (setFrames fs s).reply = s.reply := rfl
@[simp] theorem setFrames_free (fs : Tbl Frame) : (setFrames fs s).free = s.free := rfl

@[simp] theorem setOpenLines_pending (t : Tbl OpenLine) : (setOpenLines t s).pending = s.pending := rfl
@[simp] theorem setOpenLines_pins (t : Tbl OpenLine) : (setOpenLines t s).pins = s.pins := rfl
@[simp] theorem setOpenLines_panel (t : Tbl OpenLine) : (setOpenLines t s).panel = s.panel := rfl
@[simp] theorem setOpenLines_hosts (t : Tbl OpenLine) : (setOpenLines t s).hosts = s.hosts := rfl
@[simp] theorem setOpenLines_rings (t : Tbl OpenLine) : (setOpenLines t s).rings = s.rings := rfl
@[simp] theorem setOpenLines_ym (t : Tbl OpenLine) : (setOpenLines t s).ym = s.ym := rfl
@[simp] theorem setOpenLines_flt (t : Tbl OpenLine) : (setOpenLines t s).flt = s.flt := rfl
@[simp] theorem setOpenLines_beat (t : Tbl OpenLine) : (setOpenLines t s).beat = s.beat := rfl
@[simp] theorem setOpenLines_cnt (t : Tbl OpenLine) : (setOpenLines t s).cnt = s.cnt := rfl
@[simp] theorem setOpenLines_mem (t : Tbl OpenLine) : (setOpenLines t s).mem = s.mem := rfl
@[simp] theorem setOpenLines_loft (t : Tbl OpenLine) : (setOpenLines t s).loft = { s.loft with openLines := t } := rfl
@[simp] theorem setOpenLines_xlt (t : Tbl OpenLine) : (setOpenLines t s).xlt = s.xlt := rfl
@[simp] theorem setOpenLines_stk (t : Tbl OpenLine) : (setOpenLines t s).stk = s.stk := rfl
@[simp] theorem setOpenLines_posts (t : Tbl OpenLine) : (setOpenLines t s).posts = s.posts := rfl
@[simp] theorem setOpenLines_cores (t : Tbl OpenLine) : (setOpenLines t s).cores = s.cores := rfl
@[simp] theorem setOpenLines_accs (t : Tbl OpenLine) : (setOpenLines t s).accs = s.accs := rfl
@[simp] theorem setOpenLines_copies (t : Tbl OpenLine) : (setOpenLines t s).copies = s.copies := rfl
@[simp] theorem setOpenLines_nextAcc (t : Tbl OpenLine) : (setOpenLines t s).nextAcc = s.nextAcc := rfl
@[simp] theorem setOpenLines_mesh (t : Tbl OpenLine) : (setOpenLines t s).mesh = s.mesh := rfl
@[simp] theorem setOpenLines_drays (t : Tbl OpenLine) : (setOpenLines t s).drays = s.drays := rfl
@[simp] theorem setOpenLines_links (t : Tbl OpenLine) : (setOpenLines t s).links = s.links := rfl
@[simp] theorem setOpenLines_pads (t : Tbl OpenLine) : (setOpenLines t s).pads = s.pads := rfl
@[simp] theorem setOpenLines_snaps (t : Tbl OpenLine) : (setOpenLines t s).snaps = s.snaps := rfl
@[simp] theorem setOpenLines_pwr (t : Tbl OpenLine) : (setOpenLines t s).pwr = s.pwr := rfl
@[simp] theorem setOpenLines_sec (t : Tbl OpenLine) : (setOpenLines t s).sec = s.sec := rfl
@[simp] theorem setOpenLines_start (t : Tbl OpenLine) : (setOpenLines t s).start = s.start := rfl
@[simp] theorem setOpenLines_shadow (t : Tbl OpenLine) : (setOpenLines t s).shadow = s.shadow := rfl
@[simp] theorem setOpenLines_latches (t : Tbl OpenLine) : (setOpenLines t s).latches = s.latches := rfl
@[simp] theorem setOpenLines_reply (t : Tbl OpenLine) : (setOpenLines t s).reply = s.reply := rfl
@[simp] theorem setOpenLines_free (t : Tbl OpenLine) : (setOpenLines t s).free = s.free := rfl

@[simp] theorem putAccess_pending (a : Access) : (putAccess a s).pending = s.pending := rfl
@[simp] theorem putAccess_pins (a : Access) : (putAccess a s).pins = s.pins := rfl
@[simp] theorem putAccess_panel (a : Access) : (putAccess a s).panel = s.panel := rfl
@[simp] theorem putAccess_hosts (a : Access) : (putAccess a s).hosts = s.hosts := rfl
@[simp] theorem putAccess_rings (a : Access) : (putAccess a s).rings = s.rings := rfl
@[simp] theorem putAccess_ym (a : Access) : (putAccess a s).ym = s.ym := rfl
@[simp] theorem putAccess_flt (a : Access) : (putAccess a s).flt = s.flt := rfl
@[simp] theorem putAccess_beat (a : Access) : (putAccess a s).beat = s.beat := rfl
@[simp] theorem putAccess_cnt (a : Access) : (putAccess a s).cnt = s.cnt := rfl
@[simp] theorem putAccess_mem (a : Access) : (putAccess a s).mem = s.mem := rfl
@[simp] theorem putAccess_loft (a : Access) : (putAccess a s).loft = s.loft := rfl
@[simp] theorem putAccess_xlt (a : Access) : (putAccess a s).xlt = s.xlt := rfl
@[simp] theorem putAccess_stk (a : Access) : (putAccess a s).stk = s.stk := rfl
@[simp] theorem putAccess_posts (a : Access) : (putAccess a s).posts = s.posts := rfl
@[simp] theorem putAccess_cores (a : Access) : (putAccess a s).cores = s.cores := rfl
@[simp] theorem putAccess_accs (a : Access) : (putAccess a s).accs = s.accs.map fun b => if b.id == a.id then a else b := rfl
@[simp] theorem putAccess_copies (a : Access) : (putAccess a s).copies = s.copies := rfl
@[simp] theorem putAccess_nextAcc (a : Access) : (putAccess a s).nextAcc = s.nextAcc := rfl
@[simp] theorem putAccess_mesh (a : Access) : (putAccess a s).mesh = s.mesh := rfl
@[simp] theorem putAccess_drays (a : Access) : (putAccess a s).drays = s.drays := rfl
@[simp] theorem putAccess_links (a : Access) : (putAccess a s).links = s.links := rfl
@[simp] theorem putAccess_pads (a : Access) : (putAccess a s).pads = s.pads := rfl
@[simp] theorem putAccess_snaps (a : Access) : (putAccess a s).snaps = s.snaps := rfl
@[simp] theorem putAccess_pwr (a : Access) : (putAccess a s).pwr = s.pwr := rfl
@[simp] theorem putAccess_sec (a : Access) : (putAccess a s).sec = s.sec := rfl
@[simp] theorem putAccess_start (a : Access) : (putAccess a s).start = s.start := rfl
@[simp] theorem putAccess_shadow (a : Access) : (putAccess a s).shadow = s.shadow := rfl
@[simp] theorem putAccess_latches (a : Access) : (putAccess a s).latches = s.latches := rfl
@[simp] theorem putAccess_reply (a : Access) : (putAccess a s).reply = s.reply := rfl
@[simp] theorem putAccess_free (a : Access) : (putAccess a s).free = s.free := rfl

@[simp] theorem setFq_pending (q : Fin 2) (x : FaultQueue) : (setFq q x s).pending = s.pending := rfl
@[simp] theorem setFq_pins (q : Fin 2) (x : FaultQueue) : (setFq q x s).pins = s.pins := rfl
@[simp] theorem setFq_panel (q : Fin 2) (x : FaultQueue) : (setFq q x s).panel = s.panel := rfl
@[simp] theorem setFq_hosts (q : Fin 2) (x : FaultQueue) : (setFq q x s).hosts = s.hosts := rfl
@[simp] theorem setFq_rings (q : Fin 2) (x : FaultQueue) : (setFq q x s).rings = s.rings := rfl
@[simp] theorem setFq_ym (q : Fin 2) (x : FaultQueue) : (setFq q x s).ym = s.ym := rfl
@[simp] theorem setFq_flt (q : Fin 2) (x : FaultQueue) : (setFq q x s).flt = { s.flt with queues := s.flt.queues.set q x } := rfl
@[simp] theorem setFq_beat (q : Fin 2) (x : FaultQueue) : (setFq q x s).beat = s.beat := rfl
@[simp] theorem setFq_cnt (q : Fin 2) (x : FaultQueue) : (setFq q x s).cnt = s.cnt := rfl
@[simp] theorem setFq_mem (q : Fin 2) (x : FaultQueue) : (setFq q x s).mem = s.mem := rfl
@[simp] theorem setFq_loft (q : Fin 2) (x : FaultQueue) : (setFq q x s).loft = s.loft := rfl
@[simp] theorem setFq_xlt (q : Fin 2) (x : FaultQueue) : (setFq q x s).xlt = s.xlt := rfl
@[simp] theorem setFq_stk (q : Fin 2) (x : FaultQueue) : (setFq q x s).stk = s.stk := rfl
@[simp] theorem setFq_posts (q : Fin 2) (x : FaultQueue) : (setFq q x s).posts = s.posts := rfl
@[simp] theorem setFq_cores (q : Fin 2) (x : FaultQueue) : (setFq q x s).cores = s.cores := rfl
@[simp] theorem setFq_accs (q : Fin 2) (x : FaultQueue) : (setFq q x s).accs = s.accs := rfl
@[simp] theorem setFq_copies (q : Fin 2) (x : FaultQueue) : (setFq q x s).copies = s.copies := rfl
@[simp] theorem setFq_nextAcc (q : Fin 2) (x : FaultQueue) : (setFq q x s).nextAcc = s.nextAcc := rfl
@[simp] theorem setFq_mesh (q : Fin 2) (x : FaultQueue) : (setFq q x s).mesh = s.mesh := rfl
@[simp] theorem setFq_drays (q : Fin 2) (x : FaultQueue) : (setFq q x s).drays = s.drays := rfl
@[simp] theorem setFq_links (q : Fin 2) (x : FaultQueue) : (setFq q x s).links = s.links := rfl
@[simp] theorem setFq_pads (q : Fin 2) (x : FaultQueue) : (setFq q x s).pads = s.pads := rfl
@[simp] theorem setFq_snaps (q : Fin 2) (x : FaultQueue) : (setFq q x s).snaps = s.snaps := rfl
@[simp] theorem setFq_pwr (q : Fin 2) (x : FaultQueue) : (setFq q x s).pwr = s.pwr := rfl
@[simp] theorem setFq_sec (q : Fin 2) (x : FaultQueue) : (setFq q x s).sec = s.sec := rfl
@[simp] theorem setFq_start (q : Fin 2) (x : FaultQueue) : (setFq q x s).start = s.start := rfl
@[simp] theorem setFq_shadow (q : Fin 2) (x : FaultQueue) : (setFq q x s).shadow = s.shadow := rfl
@[simp] theorem setFq_latches (q : Fin 2) (x : FaultQueue) : (setFq q x s).latches = s.latches := rfl
@[simp] theorem setFq_reply (q : Fin 2) (x : FaultQueue) : (setFq q x s).reply = s.reply := rfl
@[simp] theorem setFq_free (q : Fin 2) (x : FaultQueue) : (setFq q x s).free = s.free := rfl

@[simp] theorem keepInputs_pending (p : Pins) (t : State) : (keepInputs s p t).pending = s.pending := rfl

/-- A state whose queue and pins are already those of s is left as it is. -/
theorem keepInputs_self (t : State) (hq : t.pending = s.pending) (hp : t.pins = s.pins) : keepInputs s s.pins t = t := by
  cases t
  simp_all [keepInputs]

end Sys2Proof.Machine
end

