-- ==== Sys2Proof/Laws/Issue.lean ====
section
/-! SUPPORT. What a change of a team leaves alone, and what the issue of an instruction comes to. -/

namespace Sys2Proof.Machine

/-! ## Changes of a block or team change the cores alone -/

theorem modBlock_cases (core slot : Nat) (f : Block → Block) (s : State) : ∃ cs, modBlock core slot f s = { s with cores := cs } := by
  unfold modBlock
  split
  · exact ⟨_, rfl⟩
  · exact ⟨s.cores, rfl⟩

/-- A change of a team is a change of the cores and of nothing else. -/
theorem modTeam_cases (core slot team : Nat) (f : Team → Team) (s : State) : ∃ cs, modTeam core slot team f s = { s with cores := cs } :=
  modBlock_cases core slot _ s

theorem modTeam_pins (core slot team : Nat) (f : Team → Team) (s : State) : (modTeam core slot team f s).pins = s.pins := by
  obtain ⟨_, h⟩ := modTeam_cases core slot team f s
  rw [h]

theorem modTeam_pending (core slot team : Nat) (f : Team → Team) (s : State) : (modTeam core slot team f s).pending = s.pending := by
  obtain ⟨_, h⟩ := modTeam_cases core slot team f s
  rw [h]

/-! ## Issue -/

theorem atWork_power (s : State) (h : atWork s = true) : s.pins.p48vOk = true := by
  simp only [atWork, awake, Bool.and_eq_true] at h
  exact h.1.1.1.1

/-- What a ready group's issue is: the device works, and the issue is of this state. -/
theorem ready_spec (s : State) (i : Issue) (w : IWord) (c : Ctx) (h : ready s i w = some c) :
    atWork s = true ∧ c.s = s ∧ c.core = i.core.val ∧ c.slot = i.slot.val ∧ c.team = i.team.val := by
  unfold ready at h
  split at h
  · cases h
  · rename_i hw
    split at h
    · cases h
    · split at h
      · cases h
      · dsimp only at h
        split at h
        · cases h
        · split at h
          · cases h
          · cases h
            exact ⟨by simpa using hw, rfl, rfl, rfl, rfl⟩

/-- An instruction that issues now: its meaning acts on the issue with the group moved past the word, and the team settles. -/
theorem issueWith_issues (i : Issue) (w : IWord) (form : Ctx → Form) (sr : Bool) (body : Ctx → State) (s : State) (c : Ctx)
    (h : Issues i w form s c) :
    issueWith i w form sr body s = modTeam c.core c.slot c.team (fun t => settleTeam (countSr sr t)) (body (past w c)) := by
  obtain ⟨he, hr, hl, hw⟩ := h
  obtain ⟨_, hs, _⟩ := ready_spec s i w c hr
  unfold issueWith
  simp only [hr, hl, hw, he, sramFound, Bool.not_true, Bool.false_eq_true, if_false]
  subst hs
  rfl

/-- The meaning that changes the team alone. -/
theorem issueTeam_issues (i : Issue) (w : IWord) (form : Form) (f : Ctx → Team) (s : State) (c : Ctx) (h : Issues i w (fun _ => form) s c) :
    issueTeam i w form f s = retires c (f (past w c)) := by
  unfold issueTeam issue
  rw [issueWith_issues i w _ false _ s c h]
  rfl

/-- The answer of a meaning that keeps queue and pins. -/
theorem answer_keeps (s t : State) (hp : s.pins.p48vOk = true) (hq : t.pending = s.pending) (hs : t.pins = s.pins) : answer s t = .next t := by
  unfold answer
  rw [if_pos hp, keepInputs_self s t hq hs]

theorem answer_leaves (s t : State) (hp : s.pins.p48vOk = true) : answer s t = .next (leaves s t) := by
  unfold answer
  rw [if_pos hp]
  rfl

theorem retires_pins (c : Ctx) (t : Team) : (retires c t).pins = c.s.pins := by
  unfold retires Ctx.put
  rw [modTeam_pins, modTeam_pins]

theorem retires_pending (c : Ctx) (t : Team) : (retires c t).pending = c.s.pending := by
  unfold retires Ctx.put
  rw [modTeam_pending, modTeam_pending]

/-- An instruction whose meaning changes its team alone answers the state in which the team has retired it. -/
theorem answer_issueTeam (i : Issue) (w : IWord) (form : Form) (f : Ctx → Team) (s : State) (c : Ctx) (h : Issues i w (fun _ => form) s c) :
    answer s (issueTeam i w form f s) = .next (retires c (f (past w c))) := by
  have hr := ready_spec s i w c h.2.1
  rw [issueTeam_issues i w form f s c h]
  exact answer_keeps _ _ (atWork_power s hr.1) (by rw [retires_pending]; rw [hr.2.1]) (by rw [retires_pins]; rw [hr.2.1])

theorem put_pins (c : Ctx) (t : Team) : (c.put t).pins = c.s.pins := modTeam_pins ..

theorem put_pending (c : Ctx) (t : Team) : (c.put t).pending = c.s.pending := modTeam_pending ..

/-- An effect that keeps queue and pins is what the command leaves. -/
theorem leaves_self (s t : State) (hq : t.pending = s.pending) (hs : t.pins = s.pins) : leaves s t = t := keepInputs_self s t hq hs

/-- An instruction that issues now answers what its meaning leaves. -/
theorem answer_issueWith (i : Issue) (w : IWord) (form : Ctx → Form) (sr : Bool) (body : Ctx → State) (s : State) (c : Ctx) (h : Issues i w form s c) :
    answer s (issueWith i w form sr body s) =
      .next (leaves s (modTeam c.core c.slot c.team (fun t => settleTeam (countSr sr t)) (body (past w c)))) := by
  rw [issueWith_issues _ _ _ _ _ _ _ h, answer_leaves _ _ (atWork_power s (ready_spec s i w c h.2.1).1)]

end Sys2Proof.Machine
end

