-- ==== Sys2Proof/Laws/Command.lean ====
section
/-! SUPPORT. A packet that is accepted and begins at once: what its row leaves. -/

namespace Sys2Proof.Machine

theorem atWork_awake (s : State) (h : atWork s = true) : awake s = true := by
  simp only [atWork, Bool.and_eq_true] at h; exact h.1

theorem sendMsix_ym (h : Fin 2) (fn v : Nat) (s : State) : (sendMsix h fn v s).ym = s.ym := by
  unfold sendMsix; split <;> rfl

/-- A status entry changes no command in flight. -/
theorem ringStatus_ym (r : Nat) (tag : W32) (o c : Nat) (res : List Byte) (irq rsv : Bool) (s : State) :
    (ringStatus r tag o c res irq rsv s).ym = s.ym := by
  unfold ringStatus
  dsimp only
  cases ringFunc s r with
  | none => rfl
  | some e =>
    obtain ⟨h, fn⟩ := e
    dsimp only
    cases funcUp s h fn with
    | false => simp only [Bool.false_eq_true, if_false]; rfl
    | true =>
      simp only [if_true]
      cases irq with
      | false => simp only [Bool.false_eq_true, if_false]; rfl
      | true => simp only [if_true]; rw [sendMsix_ym]; rfl

/-- The status entry of a command takes it out of the commands in flight and leaves the others. -/
theorem writeStatus_cmds (seq code : Nat) (res : List Byte) (s : State) (c : Cmd) (h : findCmd s seq = some c) :
    (writeStatus seq code res s).ym.cmds = s.ym.cmds.filter fun x => x.seq != seq := by
  simp only [writeStatus, h, ringStatus_ym]; rfl

/-- Passes over commands that have all begun change nothing. -/
theorem settleFuel_begun (n : Nat) (s : State) (h : ∀ c ∈ s.ym.cmds, c.began = true) : settleFuel n s = s := by
  induction n with
  | zero => rfl
  | succ n ih =>
    have : settlePass s = s := by
      have hf : (s.ym.cmds.filter fun c => !c.began) = [] := by
        simp only [List.filter_eq_nil_iff]; intro c hc; simp [h c hc]
      simp [settlePass, hf]
    rw [settleFuel, this, ih]

/-- Requests and commands that are tried again: with none held and none of their kind begun, nothing is. -/
theorem retries_none (s : State) (hh : s.xlt.held = []) (hc : ∀ c ∈ s.ym.cmds, c.began = true → c.body.retried = false) : retries s = s := by
  have fold : ∀ (f : State → Cmd → State) (l : List Cmd), (∀ c ∈ l, f s c = s) → l.foldl f s = s := by
    intro f l h
    induction l with
    | nil => rfl
    | cons c r ih => rw [List.foldl_cons, h c (by simp), ih fun x hx => h x (by simp [hx])]
  have each : ∀ c ∈ s.ym.cmds.filter Cmd.began, c.body.retried = false := by
    intro c h; rw [List.mem_filter] at h; exact hc c h.1 h.2
  have e1 : retryAllHeld s = s := by simp [retryAllHeld, hh]
  have e2 : retryMaps s = s := fold _ _ fun c h => by
    have r := each c h
    split
    · next d hd => rw [hd] at r; cases r
    · rfl
  have e3 : retryCreates s = s := fold _ _ fun c h => by
    have r := each c h
    split
    · next d hd => rw [hd] at r; cases r
    · rfl
  have e4 : retryRestores s = s := fold _ _ fun c h => by
    have r := each c h
    split
    · next d hd => rw [hd] at r; cases r
    · rfl
  rw [retries, e1, e2, e3, e4]

theorem still_parts (s : State) (h : still s = true) :
    s.snaps.lossDue = [] ∧ s.snaps.restart = none ∧ s.xlt.held = [] ∧ (∀ c ∈ s.ym.cmds, c.body.retried = false) ∧
      (beatOn s && s.beat.locked && s.beat.source == 1 && !ptpPort s) = false := by
  simp only [still, Bool.and_eq_true, List.isEmpty_iff, Option.isNone_iff_eq_none, List.all_eq_true, Bool.not_eq_true'] at h
  exact ⟨h.1.1.1.1, h.1.1.1.2, h.1.1.2, h.1.2, h.2⟩

/-- Where nothing stands that an event brings forward, only the commands that have not begun follow. -/
theorem finish_still (s : State) (hl : s.snaps.lossDue = []) (hr : s.snaps.restart = none) (hh : s.xlt.held = [])
    (hc : ∀ c ∈ s.ym.cmds, c.began = true → c.body.retried = false)
    (hp : (beatOn s && s.beat.locked && s.beat.source == 1 && !ptpPort s) = false) : finish s = retries (settle s) := by
  have h1 : losses s = s := by simp [losses, hl]
  have h2 : restartOver s = s := by simp [restartOver, hr]
  have h3 : checkPort0 s = s := by rw [checkPort0, if_neg]; rw [hp]; decide
  rw [finish, h1, h3, h2, retries_none s hh hc]

/-- Where every command has begun too, nothing follows an event. -/
theorem finish_quiet (s : State) (h : ∀ c ∈ s.ym.cmds, c.began = true) (hs : still s = true) : finish s = s := by
  obtain ⟨hl, hr, hh, hc, hp⟩ := still_parts s hs
  have h3 : (s.ym.cmds.any fun c => !c.began) = false := by
    simp only [List.any_eq_false]; intro c hc; simp [h c hc]
  rw [finish_still s hl hr hh (fun c x _ => hc c x) hp, settle, h3]
  exact retries_none s hh fun c x _ => hc c x

theorem map_absent (l : List Cmd) (q : Nat) (c : Cmd) (h : ∀ x ∈ l, x.seq < q) : (l.map fun x => if x.seq == q then c else x) = l := by
  induction l with
  | nil => rfl
  | cons x r ih =>
    have hx : x.seq ≠ q := Nat.ne_of_lt (h x (by simp))
    rw [List.map_cons, ih fun y hy => h y (by simp [hy]), if_neg (by simpa using hx)]

theorem find_absent (l : List Cmd) (q : Nat) (c : Cmd) (h : ∀ x ∈ l, x.seq < q) (hc : c.seq = q) : ((l ++ [c]).find? fun x => x.seq == q) = some c := by
  rw [List.find?_append]
  have : (l.find? fun x => x.seq == q) = none := by
    simp only [List.find?_eq_none]; intro x hx; simpa using Nat.ne_of_lt (h x hx)
  simp [this, hc]

/-- A launch counted as accepted changes the paddocks alone. -/
theorem counted_pads (q : Bool) (p : Nat) (t : State) : ∃ x, (if q then countAccepted p t else t) = { t with pads := x } := by
  cases q with
  | false => exact ⟨t.pads, rfl⟩
  | true =>
    simp only [if_true]
    unfold countAccepted modPad
    split
    · exact ⟨_, rfl⟩
    · exact ⟨t.pads, rfl⟩

/-- RT stands where no reference is locked. -/
theorem tickRt_unlocked (s : State) (h : s.beat.locked = false) : tickRt s = useFree s := by
  have : rtNow s = s.beat.rt := by simp [rtNow, rtBound, h]
  simp [tickRt, this, setBeat, useFree]

/-- A packet's visit changes its ring, and RT where BEAT.SET looks at it. -/
theorem seen_eq (h : CmdHdr) (b : Body) (s : State) :
    ∃ g r f, seen h b s = { s with rings := g, beat := { s.beat with rt := r }, free := f } := by
  unfold seen
  cases b.isBeatSet
  · exact ⟨_, s.beat.rt, s.free, rfl⟩
  · exact ⟨_, _, _, rfl⟩

/-- What taking a packet changes. -/
theorem takenAs_eq (c : Cmd) (h : CmdHdr) (b : Body) (s : State) :
    ∃ g x r f, takenAs c h b s = { s with rings := g, pads := x, beat := { s.beat with rt := r }, free := f,
                                           ym := { s.ym with seq := s.ym.seq + 1, cmds := s.ym.cmds ++ [c] } } := by
  obtain ⟨g, r, f, hs⟩ := seen_eq h b s
  obtain ⟨x, hx⟩ := counted_pads b.isLaunch h.paddock.toNat
    (setRing h.ring.val { getRing (seen h b s) h.ring.val with reserved := (getRing (seen h b s) h.ring.val).reserved + 1 } (seen h b s))
  refine ⟨(setRing h.ring.val { getRing (seen h b s) h.ring.val with reserved := (getRing (seen h b s) h.ring.val).reserved + 1 } (seen h b s)).rings, x, r, f, ?_⟩
  have e : takenAs c h b s =
      { (if b.isLaunch then countAccepted h.paddock.toNat
            (setRing h.ring.val { getRing (seen h b s) h.ring.val with reserved := (getRing (seen h b s) h.ring.val).reserved + 1 } (seen h b s))
          else (setRing h.ring.val { getRing (seen h b s) h.ring.val with reserved := (getRing (seen h b s) h.ring.val).reserved + 1 } (seen h b s))) with
        ym := { s.ym with seq := s.ym.seq + 1, cmds := s.ym.cmds ++ [c] } } := rfl
  rw [e, hx, hs]
  rfl

/-- Taking a packet changes the commands in flight alone among what decides whether anything else follows. -/
theorem takenAs_parts (c : Cmd) (h : CmdHdr) (b : Body) (s : State) :
    (takenAs c h b s).snaps = s.snaps ∧ (takenAs c h b s).xlt = s.xlt ∧ (takenAs c h b s).pwr = s.pwr ∧ (takenAs c h b s).pins = s.pins ∧
      (takenAs c h b s).ym.cmds = s.ym.cmds ++ [c] ∧ awake (takenAs c h b s) = awake s ∧
      (beatOn (takenAs c h b s) && (takenAs c h b s).beat.locked && (takenAs c h b s).beat.source == 1 && !ptpPort (takenAs c h b s)) =
        (beatOn s && s.beat.locked && s.beat.source == 1 && !ptpPort s) := by
  obtain ⟨g, x, r, f, e⟩ := takenAs_eq c h b s
  rw [e]
  exact ⟨rfl, rfl, rfl, rfl, rfl, rfl, rfl⟩

theorem takenAs_seq (c : Cmd) (h : CmdHdr) (b : Body) (s : State) : (takenAs c h b s).ym.seq = s.ym.seq + 1 := by
  unfold takenAs; rfl

/-- Only the command in flight that has been taken tells the two states of a packet apart. -/
theorem takenAs_other (c d : Cmd) (h : CmdHdr) (b : Body) (s : State) :
    { takenAs c h b s with ym := { (takenAs c h b s).ym with cmds := s.ym.cmds ++ [d] } } = takenAs d h b s := by
  unfold takenAs; rfl

/-- The command of a packet that begins at once is found by its place. -/
theorem taken_find (h : CmdHdr) (b : Body) (s : State) (t : Takes h b s) : findCmd (taken h b s) s.ym.seq = some (begunCmd h b s) := by
  unfold findCmd taken
  rw [(takenAs_parts _ h b s).2.2.2.2.1]
  exact find_absent _ _ _ (fun x hx => (t.2.2.2.2.2.2.2.2.2.2 x hx).2) rfl

/-- A packet that breaks no check is taken. -/
theorem accept_ok (h : CmdHdr) (b : Body) (s : State) (hc : checksOk (seen h b s) h b = true) :
    accept h b (visitRing h.ring.val s) = inHand h b s := by
  have e : (if b.isBeatSet then tickRt (visitRing h.ring.val s) else visitRing h.ring.val s) = seen h b s := rfl
  obtain ⟨g, r, f, hs⟩ := seen_eq h b s
  obtain ⟨x, hx⟩ := counted_pads b.isLaunch h.paddock.toNat
    (setRing h.ring.val { getRing (seen h b s) h.ring.val with reserved := (getRing (seen h b s) h.ring.val).reserved + 1 } (seen h b s))
  unfold accept inHand takenAs
  rw [e]
  simp only [hc, Bool.not_true, Bool.false_eq_true, if_false]
  rw [hx, hs]
  rfl

/-- A packet that is accepted and begins at once begins, and then the commands that wait for what it did. -/
theorem command_begins (h : CmdHdr) (b : Body) (s : State) (t : Takes h b s) :
    command h b s = settled s.ym.cmds.length (beginBody (begunCmd h b s) (taken h b s)) := by
  obtain ⟨hw, hl, hq, hr, hc, hscope, ha, hf, hb, hs, ho⟩ := t
  obtain ⟨p1, p2, p3, p4, p5, p6, p7⟩ := takenAs_parts { begunCmd h b s with began := false } h b s
  obtain ⟨s1, s2, s3, s4, s5⟩ := still_parts s hs
  let c : Cmd := { begunCmd h b s with began := false }
  have hcs : (inHand h b s).ym.cmds = s.ym.cmds ++ [c] := p5
  have hcmd : command h b s = finish (inHand h b s) := by
    unfold command
    simp only [hl, hq, hr, accept_ok h b s hc]; rfl
  have hfin : finish (inHand h b s) = retries (settle (inHand h b s)) := by
    refine finish_still _ (by rw [inHand, p1]; exact s1) (by rw [inHand, p1]; exact s2) (by rw [inHand, p2]; exact s3) ?_ (by rw [inHand, p7]; exact s5)
    intro x hx hbeg
    rw [hcs] at hx
    rcases List.mem_append.mp hx with h1 | h1
    · exact s4 x h1
    · rw [List.mem_singleton.mp h1] at hbeg; simp [c] at hbeg
  have hany : ((inHand h b s).ym.cmds.any fun c => !c.began) = true := by
    rw [hcs]; simp [c]
  have hlen : (inHand h b s).ym.cmds.length = s.ym.cmds.length + 1 := by rw [hcs]; simp
  have hfilter : ((inHand h b s).ym.cmds.filter fun c => !c.began) = [c] := by
    have : (s.ym.cmds.filter fun c => !c.began) = [] := by
      simp only [List.filter_eq_nil_iff]; intro x hx; simp [(ho x hx).1]
    rw [hcs, List.filter_append, this]; rfl
  have hfind : findCmd (inHand h b s) s.ym.seq = some c := by
    unfold findCmd; rw [hcs]; exact find_absent _ _ _ (fun x hx => (ho x hx).2) rfl
  have haw : awake (inHand h b s) = true := by rw [inHand, p6]; exact atWork_awake s hw
  have hst : ((inHand h b s).pwr.state == .walk || (inHand h b s).pwr.state == .stand) = false := by
    rw [inHand, p3]
    have : (s.pwr.state == .gallop || s.pwr.state == .trot) = true := by simp only [atWork, Bool.and_eq_true] at hw; exact hw.2
    revert this
    cases s.pwr.state <;> decide
  have hcan : canBegin (inHand h b s) c = true := hb
  have hfence : fenceHolds (inHand h b s) c = true := by simp [fenceHolds, c, begunCmd, hf]
  have htry : tryBegin s.ym.seq (inHand h b s) = beginCmd c (inHand h b s) := by
    have hab : c.hdr.atBeat.isNone = true := by simp [c, begunCmd, ha]
    have hbg : c.began = false := rfl
    unfold tryBegin
    rw [hfind]
    simp only [hbg, haw, hcan, hab, hfence, hst]
    simp
  have hbeg : beginCmd c (inHand h b s) = beginBody (begunCmd h b s) (taken h b s) := by
    have hm : ((inHand h b s).ym.cmds.map fun x => if x.seq == c.seq then ({ c with began := true } : Cmd) else x) = s.ym.cmds ++ [begunCmd h b s] := by
      have : (s.ym.cmds.map fun x => if x.seq == c.seq then ({ c with began := true } : Cmd) else x) = s.ym.cmds :=
        map_absent _ _ _ fun x hx => (ho x hx).2
      rw [hcs, List.map_append, this]
      simp [c, begunCmd]
    have ht : ({ inHand h b s with ym := { (inHand h b s).ym with cmds := s.ym.cmds ++ [begunCmd h b s] } } : State) = taken h b s :=
      takenAs_other _ _ h b s
    unfold beginCmd
    simp only [hm, ht]
    have : scopeOk (taken h b s) c.hdr c.body = true := hscope
    rw [this]; rfl
  rw [hcmd, hfin, settle, hany, if_pos rfl, hlen, settleFuel, settlePass, hfilter]
  simp only [List.map_cons, List.map_nil, List.foldl_cons, List.foldl_nil]
  rw [show c.seq = s.ym.seq from rfl, htry, hbeg, settled]

/-- Every command in flight has begun, once the packet that begins at once has been taken. -/
theorem taken_begun (h : CmdHdr) (b : Body) (s : State) (t : Takes h b s) : ∀ c ∈ (taken h b s).ym.cmds, c.began = true := by
  intro c hc
  rw [taken, (takenAs_parts _ h b s).2.2.2.2.1] at hc
  rcases List.mem_append.mp hc with h1 | h1
  · exact (t.2.2.2.2.2.2.2.2.2.2 c h1).1
  · rw [List.mem_singleton.mp h1]; rfl

/-- The row of a packet that begins at once, by what its beginning leaves. -/
theorem answer_command (h : CmdHdr) (b : Body) (s u : State) (t : Takes h b s) (e : beginBody (begunCmd h b s) (taken h b s) = u) :
    answer s (command h b s) = .next (leaves s (settled s.ym.cmds.length u)) := by
  rw [command_begins h b s t, e, answer_leaves _ _ (atWork_power s t.1)]

/-- The same where every command in flight then has begun. -/
theorem answer_command_begun (h : CmdHdr) (b : Body) (s u : State) (t : Takes h b s) (e : beginBody (begunCmd h b s) (taken h b s) = u)
    (hu : ∀ c ∈ u.ym.cmds, c.began = true) : answer s (command h b s) = .next (leaves s (retries u)) := by
  rw [answer_command h b s u t e, settled, settleFuel_begun _ _ hu]

/-- The same where the command writes its status entry at once. -/
theorem answer_command_status (h : CmdHdr) (b : Body) (s u : State) (k : Nat) (r : List Byte) (t : Takes h b s)
    (e : beginBody (begunCmd h b s) (taken h b s) = writeStatus s.ym.seq k r u) (hu : u.ym = (taken h b s).ym) :
    answer s (command h b s) = .next (leaves s (retries (writeStatus s.ym.seq k r u))) := by
  refine answer_command_begun h b s _ t e ?_
  intro c hc
  have hf : findCmd u s.ym.seq = some (begunCmd h b s) := by
    have := taken_find h b s t
    unfold findCmd at *
    rw [hu]; exact this
  rw [writeStatus_cmds _ _ _ _ _ hf, hu] at hc
  exact taken_begun h b s t c (List.mem_filter.mp hc).1

theorem modPad_ym (p : Nat) (f : Pad → Pad) (s : State) : (modPad p f s).ym = s.ym := by unfold modPad; split <;> rfl

/-! ## Events -/

theorem awake_power (s : State) (h : awake s = true) : s.pins.p48vOk = true := by
  simp only [awake, Bool.and_eq_true] at h; exact h.1.1.1

/-- The answer of an event of an awake device. -/
theorem answer_ifAwake (s : State) (f : State → State) (h : awake s = true) : answer s (ifAwake f s) = .next (leaves s (finish (f s))) := by
  rw [answer_leaves _ _ (awake_power s h)]; simp [ifAwake, h]

/-- The answer of an event of a device at work. -/
theorem answer_ifWork (s : State) (f : State → State) (h : atWork s = true) : answer s (ifWork f s) = .next (leaves s (finish (f s))) := by
  rw [answer_leaves _ _ (atWork_power s h)]; simp [ifWork, h]

end Sys2Proof.Machine
end

