-- ==== Sys2Proof/Laws/Memory.lean ====
section
/-! SUPPORT. Tables and memories: what a read finds after a write, and that every memory operation keeps the canonical form. -/

namespace Sys2Proof.Machine

/-! ## Tables -/

@[simp] theorem tget_tput_self {α : Type} (t : Tbl α) (k : Nat) (v d : α) : tget (tput t k v) k d = v := by
  induction t with
  | nil => simp [tput, tget]
  | cons e r ih =>
    obtain ⟨j, w⟩ := e
    simp only [tput]
    split
    · simp [tget]
    · split
      · simp [tget]
      · simp [tget, *]

theorem tget_tput_other {α : Type} (t : Tbl α) (k j : Nat) (v d : α) (h : j ≠ k) : tget (tput t k v) j d = tget t j d := by
  induction t with
  | nil => simp [tput, tget, Ne.symm h]
  | cons e r ih =>
    obtain ⟨i, w⟩ := e
    simp only [tput]
    split
    · simp [tget, Ne.symm h]
    · split
      · subst i; simp [tget, Ne.symm h]
      · simp only [tget, ih]

@[simp] theorem tfind_tput_self {α : Type} (t : Tbl α) (k : Nat) (v : α) : tfind (tput t k v) k = some v := by
  induction t with
  | nil => simp [tput, tfind]
  | cons e r ih =>
    obtain ⟨j, w⟩ := e
    simp only [tput]
    split
    · simp [tfind]
    · split
      · simp [tfind]
      · simp [tfind, *]

theorem tfind_tput_other {α : Type} (t : Tbl α) (k j : Nat) (v : α) (h : j ≠ k) : tfind (tput t k v) j = tfind t j := by
  induction t with
  | nil => simp [tput, tfind, Ne.symm h]
  | cons e r ih =>
    obtain ⟨i, w⟩ := e
    simp only [tput]
    split
    · simp [tfind, Ne.symm h]
    · split
      · subst i; simp [tfind, Ne.symm h]
      · simp only [tfind, ih]

theorem tget_tdel {α : Type} (t : Tbl α) (k j : Nat) (d : α) : tget (tdel t k) j d = if j = k then d else tget t j d := by
  unfold tdel
  induction t with
  | nil => simp [tget]
  | cons e r ih =>
    obtain ⟨i, w⟩ := e
    by_cases hik : i = k
    · subst i
      rw [List.filter_cons_of_neg (by simp), ih]
      by_cases hj : j = k
      · simp [hj]
      · simp [tget, hj, Ne.symm hj]
    · rw [List.filter_cons_of_pos (by simpa using hik)]
      simp only [tget]
      by_cases hij : i = j
      · subst j; simp [hik]
      · simp only [hij, if_false, ih]

/-! ## The canonical form of a memory -/

theorem memWfFrom_mono (m : Mem) (lo hi : Nat) (h : lo ≤ hi) (w : memWfFrom hi m = true) : memWfFrom lo m = true := by
  cases m with
  | nil => rfl
  | cons e r =>
    simp only [memWfFrom, Bool.and_eq_true, decide_eq_true_eq] at *
    exact ⟨⟨Nat.le_trans h w.1.1, w.1.2⟩, w.2⟩

theorem memWfFrom_mwrite (m : Mem) (a : Nat) (b : Byte) : ∀ lo, lo ≤ a → memWfFrom lo m = true → memWfFrom lo (mwrite m a b) = true := by
  induction m with
  | nil =>
    intro lo h _
    by_cases hb : b = 0
    · simp only [mwrite, if_pos hb, memWfFrom]
    · simp only [mwrite, if_neg hb, memWfFrom, Bool.and_eq_true, decide_eq_true_eq]
      exact ⟨⟨h, hb⟩, trivial⟩
  | cons e r ih =>
    obtain ⟨j, v⟩ := e
    intro lo h w
    simp only [memWfFrom, Bool.and_eq_true, decide_eq_true_eq] at w
    obtain ⟨⟨h1, h2⟩, h3⟩ := w
    by_cases hb : b = 0
    · simp only [mwrite, hb, if_true]
      split
      · simp only [memWfFrom, Bool.and_eq_true, decide_eq_true_eq]
        exact ⟨⟨h1, h2⟩, h3⟩
      · split
        · exact memWfFrom_mono r lo (j + 1) (by omega) h3
        · simp only [memWfFrom, Bool.and_eq_true, decide_eq_true_eq]
          exact ⟨⟨h1, h2⟩, hb ▸ ih (j + 1) (by omega) h3⟩
    · simp only [mwrite, hb, if_false]
      split
      · simp only [memWfFrom, Bool.and_eq_true, decide_eq_true_eq]
        exact ⟨⟨h, hb⟩, ⟨by omega, h2⟩, h3⟩
      · split
        · subst j
          simp only [memWfFrom, Bool.and_eq_true, decide_eq_true_eq]
          exact ⟨⟨h, hb⟩, h3⟩
        · simp only [memWfFrom, Bool.and_eq_true, decide_eq_true_eq]
          exact ⟨⟨h1, h2⟩, ih (j + 1) (by omega) h3⟩

/-- A write keeps the canonical form. -/
theorem mwrite_wf (m : Mem) (a : Nat) (b : Byte) (w : Memory.wf m = true) : Memory.wf (mwrite m a b) = true :=
  memWfFrom_mwrite m a b 0 (Nat.zero_le a) w

/-- Writes of bytes keep the canonical form. -/
theorem mwrites_wf (bs : List Byte) : ∀ (m : Mem) (a : Nat), Memory.wf m = true → Memory.wf (mwrites m a bs) = true := by
  induction bs with
  | nil => intro m a w; exact w
  | cons b r ih => intro m a w; exact ih _ _ (mwrite_wf m a b w)

theorem memWfFrom_filter (p : Host.Cell → Bool) (m : Mem) : ∀ lo, memWfFrom lo m = true → memWfFrom lo (m.filter p) = true := by
  induction m with
  | nil => intro lo _; rfl
  | cons e r ih =>
    obtain ⟨j, v⟩ := e
    intro lo w
    simp only [memWfFrom, Bool.and_eq_true, decide_eq_true_eq] at w
    obtain ⟨⟨h1, h2⟩, h3⟩ := w
    rw [List.filter_cons]
    split
    · simp only [memWfFrom, Bool.and_eq_true, decide_eq_true_eq]
      exact ⟨⟨h1, h2⟩, ih _ h3⟩
    · exact memWfFrom_mono _ lo (j + 1) (by omega) (ih _ h3)

/-- Zeroing a range keeps the canonical form. -/
theorem mzero_wf (m : Mem) (a n : Nat) (w : Memory.wf m = true) : Memory.wf (mzero m a n) = true := memWfFrom_filter _ m 0 w

/-- Every memory of the state right after reset has the canonical form. -/
theorem reset_memories_wf :
    (∀ h : Fin 2, Memory.wf State.reset.mem.stack[h] = true) ∧ (∀ h : Fin 2, Memory.wf State.reset.mem.barn[h] = true) ∧
    Memory.wf State.reset.mem.commons = true ∧ (∀ h : Fin 2, Memory.wf (getHost State.reset h).mem = true) := by
  refine ⟨?_, ?_, rfl, ?_⟩ <;> decide

/-! ## Reads after writes -/

theorem mread_below (m : Mem) (lo a : Nat) (h : a < lo) (w : memWfFrom lo m = true) : mread m a = 0 := by
  induction m generalizing lo with
  | nil => rfl
  | cons e r ih =>
    obtain ⟨j, v⟩ := e
    simp only [memWfFrom, Bool.and_eq_true, decide_eq_true_eq] at w
    rw [mread, if_neg (by omega)]
    exact ih (j + 1) (by omega) w.2

theorem mread_mwrite_from (m : Mem) (a x : Nat) (b : Byte) : ∀ lo, memWfFrom lo m = true → mread (mwrite m a b) x = if x = a then b else mread m x := by
  have single : ∀ r : Mem, mread ((a, b) :: r) x = if x = a then b else mread r x := by
    intro r
    by_cases hx : x = a
    · subst x; simp only [mread, if_true]
    · simp only [mread, if_neg (Ne.symm hx), if_neg hx]
  induction m with
  | nil =>
    intro lo _
    by_cases hb : b = 0
    · subst hb; simp only [mwrite, if_true, mread, ite_self]
    · simp only [mwrite, if_neg hb, single]
  | cons e r ih =>
    obtain ⟨j, v⟩ := e
    intro lo w
    simp only [memWfFrom, Bool.and_eq_true, decide_eq_true_eq] at w
    obtain ⟨_, h3⟩ := w
    have below : ∀ y, y < j + 1 → mread r y = 0 := fun y hy => mread_below r (j + 1) y hy h3
    simp only [mwrite]
    split
    · split
      · rename_i haj hb
        by_cases hx : x = a
        · subst x
          rw [if_pos rfl, mread, if_neg (by omega), below a (by omega), hb]
        · rw [if_neg hx]
      · rw [single]
    · split
      · rename_i hja
        subst j
        split
        · rename_i hb
          by_cases hx : x = a
          · subst x
            rw [if_pos rfl, below _ (by omega), hb]
          · rw [if_neg hx, mread, if_neg (Ne.symm hx)]
        · rw [single]
          by_cases hx : x = a
          · rw [if_pos hx, if_pos hx]
          · rw [if_neg hx, if_neg hx, mread, if_neg (Ne.symm hx)]
      · rename_i hja
        simp only [mread]
        by_cases hjx : j = x
        · rw [if_pos hjx, if_neg (by omega), if_pos hjx]
        · rw [if_neg hjx, if_neg hjx]
          exact ih (j + 1) h3

/-- A read after a write: the byte written, and every other byte as before. -/
theorem mread_mwrite (m : Mem) (a x : Nat) (b : Byte) (w : Memory.wf m = true) : mread (mwrite m a b) x = if x = a then b else mread m x :=
  mread_mwrite_from m a x b 0 w

end Sys2Proof.Machine
end

