-- ==== Sys2Proof/WellFormed.lean ====
section
/-! DEFINITION. The checks on a command's operands that their types do not say. -/

namespace Sys2Proof

/-- A payload has the length that its header gives, and at most one Kilalmir packet's 4,096 bytes (R433). -/
def payloadOk (t : TxHdr) (bytes : Nat) : Bool := t.len.toNat == bytes && bytes ≤ 4096

/-- A list of numbers without repeats, each below n. -/
def distinctBelow (n : Nat) (l : List Nat) : Bool := l.all (· < n) && decide l.Nodup

/-- Parts that a cold start finds failed are parts of the device (R16, R427). -/
def coldOk (c : ColdInputs) : Bool :=
  distinctBelow 1152 c.badSites && distinctBelow 272 c.badSlices && distinctBelow 144 c.badLanes && distinctBelow 16 c.badStacks &&
  distinctBelow 1024 c.badPcs && decide c.badWires.Nodup && c.badWires.all fun x => match x.1 with | .mesh _ => true | _ => decide (x.2.2.val < 256)

/-- The checks by command. -/
def Instr.wellFormed (i : Instr) : Bool :=
  match i with
  | .pwrEnRise c => coldOk c
  | .testCold _ _ c => coldOk c
  | .testSelf _ _ bad => decide bad.Nodup
  | .remoteWrite _ t data => payloadOk t data.length
  | .readRsp _ t data => payloadOk t data.length
  | .addF32 _ t vals => payloadOk t (4 * vals.length)
  | .addAnchVal _ t vals => payloadOk t (4 * vals.length)
  | .addAnchLong _ t longs => t.len.toNat == 24 * longs.length && longs.length ≤ 170
  | .apertureRequest _ _ (.read len) => decide (0 < len ∧ len ≤ 4096)
  | .apertureRequest _ _ (.write bytes) => decide (0 < bytes.length ∧ bytes.length ≤ 4096)
  | .copyPartLanded _ bytes _ => decide (0 < bytes)
  | .drayPartLanded _ bytes _ => decide (0 < bytes)
  | .linkAck _ bytes => decide (0 < bytes)
  | .mctpMessage _ bytes => decide (0 < bytes.length)
  | _ => true

end Sys2Proof
end

