-- ==== Sys2Proof/Tests/Slice0.lean ====
section
/-! SUPPORT. Tests: the checks of WellFormed, the worked examples of the spec, and for the statements of Certificates/Slice0 a state and operands that meet
the hypotheses of each clause. -/

namespace Sys2Proof.Tests

open Sys2Proof Sys2Proof.Machine

set_option Elab.async false

/-! ## WellFormed: each check refuses an ill-formed command -/

/-- A cold start whose parts all pass, but for the sites, slices, lanes and stacks given. -/
def cold (sites slices lanes stk : List Nat) : ColdInputs :=
  { straps := Vector.ofFn fun i : Fin 12 => strapOf i.val, trained := Vector.replicate 2 true, badSites := sites, badSlices := slices, badLanes := lanes, badWires := [],
    badStacks := stk, badPcs := [], flash := blankImage, ms := 0 }

def hdr (n : Nat) : TxHdr := { last := true, win := 0, wgen := 1, rpost := 0, anchor := 0, offset := 0, len := BitVec.ofNat 32 n, rtag := 0 }

def mgr : Func := { port := 0, vf := 0 }

def hdr0 : CmdHdr := { ring := 0, tag := 7, paddock := 0, irq := false, fence := false, atBeat := none }

theorem test_wellformed_accepts :
    (Instr.pwrEnRise (cold [1151] [271] [143] [15])).wellFormed = true ∧ (Instr.remoteWrite 0 (hdr 2) [1, 2]).wellFormed = true ∧
    (Instr.apertureRequest mgr 0 (.read 4096)).wellFormed = true := by decide

theorem test_wellformed_refuses_parts :
    (Instr.pwrEnRise (cold [1152] [] [] [])).wellFormed = false ∧ (Instr.pwrEnRise (cold [] [272] [] [])).wellFormed = false ∧
    (Instr.testCold hdr0 false (cold [] [] [144] [])).wellFormed = false ∧ (Instr.pwrEnRise (cold [] [] [] [16])).wellFormed = false ∧
    (Instr.pwrEnRise (cold [3, 3] [] [] [])).wellFormed = false ∧ (Instr.pwrEnRise { cold [] [] [] [] with badPcs := [1024] }).wellFormed = false ∧
    (Instr.pwrEnRise { cold [] [] [] [] with badWires := [(.seam 0, true, 256)] }).wellFormed = false ∧ (Instr.pwrEnRise { cold [] [] [] [] with badWires := [(.mesh 0, true, 3), (.mesh 0, true, 3)] }).wellFormed = false ∧ (Instr.testSelf hdr0 0 [4, 4]).wellFormed = false := by decide

theorem test_wellformed_refuses_payloads :
    (Instr.remoteWrite 0 (hdr 3) [1, 2]).wellFormed = false ∧ (Instr.readRsp 0 (hdr 1) []).wellFormed = false ∧
    (Instr.addF32 0 (hdr 4) [1, 2]).wellFormed = false ∧ (Instr.addAnchVal 0 (hdr 8) [1]).wellFormed = false ∧
    (Instr.addAnchLong 0 (hdr 4) [1]).wellFormed = false := by decide

theorem test_wellformed_refuses_lengths :
    (Instr.apertureRequest mgr 0 (.read 0)).wellFormed = false ∧ (Instr.apertureRequest mgr 0 (.read 4097)).wellFormed = false ∧
    (Instr.apertureRequest mgr 0 (.write [])).wellFormed = false ∧ (Instr.copyPartLanded 0 0 .clean).wellFormed = false ∧
    (Instr.drayPartLanded 0 0 .clean).wellFormed = false ∧ (Instr.linkAck 0 0).wellFormed = false ∧ (Instr.mctpMessage true []).wellFormed = false := by decide

/-- No row of the table gives bits, so no word spells a command. -/
theorem test_no_word_spells_a_command : decodeTableWord 0 0 = none ∧ decodeTableWord 128 1 = none := by decide

/-! ## Worked examples of the spec -/

/-- Numbering a core: N = 458 stands at X = 50, Y = 13, its mirror image N = 970 at X = 13. -/
theorem test_core_numbers : coreX 458 = 50 ∧ coreY 458 = 13 ∧ coreX 970 = 13 ∧ coreY 970 = 13 := by decide

/-- One KX4 block with amax 3.3 and T = 1.0: scale 0x72, and the codes of 3.3, −1.0 and 0.2. -/
theorem test_kx4_block :
    (toKx4 0x3F800000 ([(0x40533333, .rn), (0xBF800000, .rn), (0x3E4CCCCD, .rn)] ++ List.replicate 13 (0, .rn))).1 = 0x72 ∧
    (toKx4 0x3F800000 ([(0x40533333, .rn), (0xBF800000, .rn), (0x3E4CCCCD, .rn)] ++ List.replicate 13 (0, .rn))).2.1.take 3 = [0x7, 0xC, 0x1] := by decide

/-- FP32 to E4M3: 0x3E99999A rounds to 0x2A, and under SR by the random word. -/
theorem test_fp32_to_e4m3 :
    (e4m3.convert .rn false (fp32.decode 0x3E99999A)).1 = 0x2A ∧ (e4m3.convert (.sr 0x12345678) false (fp32.decode 0x3E99999A)).1 = 0x2A ∧
    (e4m3.convert (.sr 0xC0000000) false (fp32.decode 0x3E99999A)).1 = 0x29 := by decide

/-- Cancellation at A = −3: both ends of 2^24 + 1 − 2^24 enter exactly, and every order closes to 1.0. -/
theorem test_anchored_cancellation :
    let enter (v : Nat) := longEnter (-3) (fp32.decode v)
    (enter 0x4B800000).bits = 0x080000000000000000000000000000000000000000000000 ∧
    (longClose fp32 (-3) (longCombine (longCombine (enter 0x4B800000) (enter 0x3F800000)) (enter 0xCB800000))).1 = 0x3F800000 ∧
    (longClose fp32 (-3) (longCombine (enter 0x4B800000) (longCombine (enter 0x3F800000) (enter 0xCB800000)))).1 = 0x3F800000 := by decide

/-- Addends below the floor 2^−30 at A = 130: 2^−31 enters as 0; 3 × 2^−31, 5 × 2^−31 and 7 × 2^−32 as 2. -/
theorem test_anchored_floor :
    ([0x30000000, 0x30C00000, 0x31200000, 0x30E00000].map fun v => (longEnter 130 (fp32.decode v)).bits) = [0, 2, 2, 2] := by decide

/-- Adding the partial 0x3DCCCCCD at A = −14: q = 13,421,773 × 2^147; 4,096 of them close to 0x43CCCCCD. -/
theorem test_anchored_partials :
    (longEnter (-14) (fp32.decode 0x3DCCCCCD)).bits = BitVec.ofNat 192 (13421773 * 2 ^ 147) ∧
    (longClose fp32 (-14) { bits := BitVec.ofNat 192 (4096 * 13421773 * 2 ^ 147), ovf := false, oppinf := false }).1 = 0x43CCCCCD := by decide

/-- Position decides the rounding: 2^12 · 2^12 + 1 · 1 − 2^12 · 2^12 in one chunk is 1.0. -/
theorem test_chunk_is_exact :
    let v (c : Nat) : FVal × Bool := (bf16.decode c, false)
    (dotChunks 0 [[v 0x4580, v 0x3F80, v 0xC580]] [[v 0x4580, v 0x3F80, v 0x4580]]).1 = 0x3F800000 := by decide

/-- Fitting a launch of 4 teams, 96 registers and 96 KiB: 4 blocks under SPLIT 1 and 2, 2 under SPLIT 3. -/
theorem test_residents : residents 0x00180C31 = 4 ∧ residents 0x00180C32 = 4 ∧ residents 0x00180C33 = 2 := by decide

/-- The line at half-local address 0x48C00: stack S7 on E3, slice 5, set 1. -/
theorem test_line_home : stackAt false 0x48C00 = 7 ∧ homeDie false 0x48C00 = 3 ∧ sliceOfLine (0x48C00 / 1024) = 5 ∧ setOfLine (0x48C00 / 1024) = 1 := by decide

/-- The line at 0x1_9000_0000: S0, pseudo-channel 8, bank 50, row 200; and back. -/
theorem test_line_row :
    stackAt false 0x190000000 = 0 ∧ rowOfLine (0x190000000 / 1024) = (8, 50, 200) ∧ lineOfRow 0 8 50 200 = 0x190000000 / 1024 := by decide

/-! ## A device with one paddock and one block -/

/-- Paddock 0 on P0, on the quadrant 0. -/
def padParams : PadParams :=
  { port := false, lc := false, autores := false, serve := 0, cring := 0x0C, sring := 0x06, qmask := 1, cache := 0, commons := 0, taglo := 0, ntag := 4, winlo := 0,
    nwin := 4, posts := Vector.replicate 8 0, stacke := 0, stackw := 0, barne := 0, barnw := 0, spille := 0, spillw := 0, tokbudget := 0, chunk := 0, kvtag := 0,
    maxseq := 0, kvtok := 0, kvgrow := 0, nbuf := 0, boff := 0, spost := 0,
    buckets := Vector.replicate 4 { rate := 0, depth := 0 }, queues := [] }

def pad0 : Pad := freshPad padParams 1 [40, 41]

/-- 32 threads at PC 0. -/
def team0 : Team :=
  { sched := 0, uregs := [(10, 0x100)], flags := noFlags, icnt := 0, live := 0xFFFFFFFF, threads := [],
    ring := [{ mask := 0xFFFFFFFF, pc := 0, wait := none, left := 16, born := 0 }], harness := none, born := 1 }

/-- A block of one team with 248 registers and 64 KiB of local store. -/
def block0 (t : Team) : Block :=
  { pad := 0, tag := 0, src := .launch 0, block := 0, member := 0, string := [(0, 0)], shape := 0x00101F00, bound := 0, seed := 0, plotIdx := 0, loc := [],
    teams := [(0, t)], nteams := 1, ac := 0, exited := false }

/-- A tag of paddock 0. -/
def space0 : AddrSpace := { getSpace State.reset 0 with valid := true, pad := 0 }

/-- Both host ports up; paddock 0 with tag 0 and a block with the team t at slot 0 of core 0. -/
def withTeam (t : Team) : State :=
  { State.reset with hosts := State.reset.hosts.map (fun h => { h with up := true, numVf := 4 }), pads := [(0, pad0)],
                     cores := [(0, { getCore State.reset 0 with blocks := [(0, block0 t)] })], xlt := { State.reset.xlt with spaces := [(0, space0)] } }

def demo : State := withTeam team0

/-- The team in a harness region of two tiles. -/
def demoRegion : State :=
  let s := withTeam { team0 with harness := some [0, 1] }
  { s with cores := [(0, { getCore s 0 with tileUsed := 3 })] }

/-- An acc.ld of the demo's team in the matrix unit, its oldest entry. -/
def mma0 : MmaEntry := { slot := 0, team := 0, flags := noFlags, store := true, busy := 64, done := 80, started := true, own := true, frees := [] }

def withMma (e : MmaEntry) : State := { demo with cores := [(0, { getCore demo 0 with mmaQ := [e] })] }

def issue0 : Issue := { core := 0, slot := 0, team := 0, sram := .clean }

/-- A word of operand fields and IMM, guarded by p7. -/
def word (dst a b c : BitVec 9) (imm : W32) : IWord :=
  { rsv := 0, yield := false, ext := 0, imm := imm, pen := false, pdst := 0, mod := 0, fmt := 0, srcC := c, srcB := b, srcA := a, dst := dst, gneg := false,
    gpred := 7 }

/-- The hypotheses of Issues and a condition, as a computation. -/
def issuesNow (w : IWord) (form : Ctx → Form) (s : State) (p : Ctx → Bool) : Bool :=
  match ready s issue0 w with
  | some c => legal (shapeRegs c.b.shape) (form c) w && !waitsOperand s c.core c.slot c.team c.g.lanes (formRegs (form c) w) && p c
  | none => false

theorem issuesNow_issues {w : IWord} {form : Ctx → Form} {s : State} {p : Ctx → Bool} (h : issuesNow w form s p = true) :
    ∃ c, Issues issue0 w form s c ∧ p c = true := by
  unfold issuesNow at h
  split at h
  · next c hc =>
    simp only [Bool.and_eq_true, Bool.not_eq_true'] at h
    exact ⟨c, ⟨rfl, hc, h.1.1, h.1.2⟩, h.2⟩
  · cases h

def always : Ctx → Bool := fun _ => true

/-- A predicate destination p1. -/
def cmpWord (ext : BitVec 24) : IWord := { word 0 2 4 0 0 with pen := true, pdst := 1, ext := ext }

/-! ## The hypotheses of the statements: instructions -/

/-- The forms of the INT family issue (O7 to O9): sums and products, one source, shifts, counts, fields, pick, cmp at its last condition, lane exchanges. -/
theorem witness_int_forms :
    [((fun w => addSubForm w), word 0 2 4 0 0), ((fun w => addSubForm w), { word 0 2 4 0 0 with mod := 7 }), ((fun w => intForm2 w), word 246 244 320 0 9),
     ((fun w => { intForm2 w with c := src (intN w) }), word 0 2 4 6 0), ((fun w => intForm1 w), word 0 2 0 0 0), ((fun w => intFormShift w), word 0 2 4 0 0),
     ((fun w => intFormCount w), word 0 2 0 0 0), ((fun w => intForm w (dest (intN w)) (src (intN w)) (src 1) (src 1)), word 0 2 4 5 0),
     ((fun w => intForm w (dest (intN w)) (src (intN w)) (src (intN w)) (src 1)), word 0 2 4 6 0),
     ((fun w => { intForm2 w with ext := extMask 102 100 }), { word 0 2 4 0 0 with ext := 0x70 }), ((fun w => cmpForm w), cmpWord 5),
     ((fun w => { intForm w (dest 1) noUse noUse noUse with ext := extMask 102 100 }), word 0 0 0 0 0)].all
      (fun e => issuesNow e.2 (fun _ => e.1 e.2) demo always) = true := by decide

/-- The forms of FLT and CVT issue: two, three and one source, cmp, estimates; cvt, f2i, i2f, blk with a guard true and with every guard false. -/
theorem witness_flt_cvt_forms :
    [((fun w => fltForm2 w), { word 0 2 4 0 0 with fmt := 1 }), ((fun w => fltForm w (src (fltN w)) (src (fltN w)) (src (fltN w))), { word 0 2 4 6 0 with mod := 3 }),
     ((fun w => fltForm1 w), { word 0 2 0 0 0 with fmt := 1 }), ((fun w => fltCmpForm w), { cmpWord 13 with fmt := 1 }),
     ((fun w => estForm w), { word 0 2 0 0 0 with fmt := 1 }), ((fun w => cvtForm w), { word 0 2 0 0 0 with fmt := 2, ext := 0x20 }),
     ((fun w => f2iForm w), { word 0 2 0 0 0 with fmt := 1 }), ((fun w => i2fForm w), { word 0 2 0 0 0 with fmt := 1 })].all
      (fun e => issuesNow e.2 (fun _ => e.1 e.2) demo always) = true ∧
    issuesNow { word 0 2 0 0 0 with fmt := 0x0C, ext := 0x20 } (fun _ => blkForm { word 0 2 0 0 0 with fmt := 0x0C, ext := 0x20 }) demo (fun c => !c.on.isEmpty) = true ∧
    issuesNow { word 0 2 0 0 0 with fmt := 0x0C, ext := 0x20, gneg := true } (fun _ => blkForm { word 0 2 0 0 0 with fmt := 0x0C, ext := 0x20, gneg := true }) demo
      (fun c => c.on.isEmpty) = true := by decide

/-- Branches that are taken: no harness region, aligned targets, empty stacks for a call, a full one for a return. -/
theorem witness_branches :
    issuesNow (word 0 0 0 0 5) (fun _ => ctlForm true true) demo (fun c =>
      !splits (past (word 0 0 0 0 5) c) (c.on.map fun l => (l, c.g.pc + BitVec.ofInt 64 (16 * (5 : W32).toInt))) &&
      c.on.all fun l => decide ((thread (past (word 0 0 0 0 5) c).t l).stack.length < 32)) = true ∧
    issuesNow (word 0 2 0 0 0) (fun _ => jmpiForm) demo (fun c =>
      c.on.all fun l => decide ((BitVec.ofNat 64 (read64 (past (word 0 2 0 0 0) c).t l 2 0)).toNat % 16 = 0)) = true ∧
    issuesNow (word 0 0 0 0 0) (fun _ => bareForm) (withTeam { team0 with threads := (List.range 32).map fun l => (l, { thread team0 l with stack := [16] }) })
      (fun c => c.on.all fun l => decide ((thread (past (word 0 0 0 0 0) c).t l).stack ≠ [])) = true := by decide

/-- Branches that fault: an indirect target of 8, a return on empty stacks, a call at depth 32, a branch that splits a region. -/
theorem witness_branch_faults :
    issuesNow (word 0 320 0 0 8) (fun _ => jmpiForm) demo (fun c =>
      c.on.any fun l => decide ((BitVec.ofNat 64 (read64 (past (word 0 320 0 0 8) c).t l 320 8)).toNat % 16 ≠ 0)) = true ∧
    issuesNow (word 0 0 0 0 0) (fun _ => bareForm) demo (fun c => c.on.any fun l => decide ((thread c.t l).stack = [])) = true ∧
    issuesNow (word 0 0 0 0 0) (fun _ => ctlForm true true) (withTeam { team0 with threads := [(3, { thread team0 3 with stack := List.replicate 32 16 })] })
      (fun c => c.on.any fun l => decide (32 ≤ (thread c.t l).stack.length)) = true ∧
    issuesNow { word 0 0 0 0 5 with gpred := 0 } (fun _ => ctlForm true true)
      (withTeam { team0 with harness := some [0], threads := [(0, { thread team0 0 with preds := 1 })] })
      (fun c => splits (past { word 0 0 0 0 5 with gpred := 0 } c) (c.on.map fun l => (l, 80))) = true := by decide

/-- The groups of the demo's team share no thread, and jmp issues there outside a region. -/
theorem witness_jump : issuesNow (word 0 0 0 0 5) (fun _ => ctlForm true true) demo (fun c => c.t.harness == none) = true ∧
    (team0.ring.Pairwise fun g h => g.mask &&& h.mask = 0) ∧ (team0.ring.map fun g => g.born).Nodup ∧ ∀ g ∈ team0.ring, g.born < team0.born := by decide

/-- Ends and waits: some and all live threads end, a join with and without a matrix instruction in flight, barrier 15, doze 65,535, a trap. -/
theorem witness_ends_and_waits :
    issuesNow (word 0 0 0 0 0) (fun _ => bareForm) demo (fun c => c.t.live &&& ~~~laneMask c.on == 0) = true ∧
    issuesNow { word 0 0 0 0 0 with gpred := 0 } (fun _ => bareForm) demo (fun c => c.t.live &&& ~~~laneMask c.on != 0) = true ∧
    issuesNow (word 0 2 0 0 0) (fun _ => joinForm) demo (fun c => !mmaStores demo c.core c.slot c.team) = true ∧
    issuesNow (word 0 2 0 0 0) (fun _ => joinForm) (withMma { mma0 with store := false }) (fun c => !mmaStores (withMma { mma0 with store := false }) c.core c.slot c.team) =
      true ∧
    issuesNow (word 0 2 0 0 0) (fun _ => joinForm) (withMma mma0) (fun c => mmaStores (withMma mma0) c.core c.slot c.team) = true ∧
    issuesNow (word 0 0 0 0 15) (fun _ => barrierForm (word 0 0 0 0 15)) demo always = true ∧
    issuesNow (word 0 0 0 0 65535) (fun _ => dozeForm (word 0 0 0 0 65535)) demo (fun c => !c.on.isEmpty) = true ∧
    issuesNow (word 0 0 0 0 9) (fun _ => ctlForm true true) demo (fun c => !c.on.isEmpty) = true := by decide

/-- System instructions issue: sreg 0 and 12, flags, invalidations. -/
theorem witness_system :
    issuesNow (word 0 0 0 0 0) (fun _ => sregForm (word 0 0 0 0 0)) demo always = true ∧
    issuesNow (word 0 0 0 0 12) (fun _ => sregForm (word 0 0 0 0 12)) demo (fun c => !c.on.isEmpty) = true ∧
    issuesNow (word 0 0 0 0 0) (fun _ => flagsRdForm) demo always = true ∧
    issuesNow (word 0 0 0 0 7) (fun _ => ctlForm true true) demo (fun c => !c.on.isEmpty) = true ∧
    issuesNow (word 0 0 0 0 0) (fun _ => bareForm) demo (fun c => !c.on.isEmpty) = true := by decide

/-! ## Memory, copies, matrices, sums, posts, paths -/

/-- A word of MEM: EXT holds SPACE and the size. -/
def memWord (dst a b : BitVec 9) (imm : W32) (ext : BitVec 24) : IWord := { word dst a b 0 imm with ext := ext }

/-- Accesses of 4 bytes at LOFT address 0 go on their way, with no guard true none does; at the last words of the own local store they are performed. -/
theorem witness_memory :
    [(MemKind.ld, memWord 0 2 0 0 9), (.st, memWord 0 2 4 0 9), (.atom, memWord 0 2 4 0 9), (.red, memWord 0 2 4 0 9)].all (fun e =>
      issuesNow e.2 (fun _ => memForm e.1 e.2) demo (fun c =>
        let p := past e.2 c
        !c.on.isEmpty && (c.on.all fun l => (laneFault e.2 p l).isNone) && !ownLocal (newAccess e.1 e.2 p) p)) = true ∧
    issuesNow { memWord 0 2 0 0 9 with gneg := true } (fun _ => memForm .ld { memWord 0 2 0 0 9 with gneg := true }) demo (fun c => c.on.isEmpty) = true ∧
    [(MemKind.ld, memWord 0 2 0 65532 8), (.st, memWord 0 2 4 65532 8)].all (fun e =>
      issuesNow e.2 (fun _ => memForm e.1 e.2) demo (fun c =>
        let p := past e.2 c
        let a := newAccess e.1 e.2 p
        let u : State := { c.put p.t with accs := demo.accs ++ [a], nextAcc := demo.nextAcc + 1 }
        !c.on.isEmpty && (c.on.all fun l => (laneFault e.2 p l).isNone) && ownLocal a p &&
        !blockedBy u c.core c.slot c.team a.id a.compact (accSpans u a) && (copiesBefore u c.core c.slot c.team a.id a.compact (accSpans u a)).isEmpty)) = true := by
  decide

/-- The first lane breaks a rule: one byte past the local store, a misaligned local address, a misaligned LOFT address. -/
theorem witness_memory_faults :
    issuesNow (memWord 0 2 0 65533 8) (fun _ => memForm .ld (memWord 0 2 0 65533 8)) demo (fun c =>
      let p := past (memWord 0 2 0 65533 8) c
      !c.on.isEmpty && localBad c.b false (memAddr (memWord 0 2 0 65533 8) p 0) 4) = true ∧
    issuesNow (memWord 0 2 0 2 8) (fun _ => memForm .ld (memWord 0 2 0 2 8)) demo (fun c =>
      let p := past (memWord 0 2 0 2 8) c
      !localBad c.b false (memAddr (memWord 0 2 0 2 8) p 0) 4 && decide (memAddr (memWord 0 2 0 2 8) p 0 % 4 ≠ 0)) = true ∧
    issuesNow (memWord 0 2 0 2 9) (fun _ => memForm .ld (memWord 0 2 0 2 9)) demo (fun c =>
      decide (memAddr (memWord 0 2 0 2 9) (past (memWord 0 2 0 2 9) c) 0 % 4 ≠ 0)) = true := by decide

/-- cp of 256 bytes (u10) within the local store, with no guard true none starts, and a copy of no byte (u0) faults; cp.rows of no row faults. -/
theorem witness_copies :
    issuesNow (word 256 256 266 320 0xFFFF) (fun _ => cpyForm false (word 256 256 266 320 0xFFFF)) demo (fun c =>
      !c.on.isEmpty && (copyFault c.b (newCopy false (word 256 256 266 320 0xFFFF) (past (word 256 256 266 320 0xFFFF) c))).isNone) = true ∧
    issuesNow { word 256 256 266 256 0 with gneg := true } (fun _ => cpyForm false { word 256 256 266 256 0 with gneg := true }) demo (fun c => c.on.isEmpty) = true ∧
    issuesNow (word 256 256 256 256 0) (fun _ => cpyForm true (word 256 256 256 256 0)) demo (fun c =>
      !c.on.isEmpty && (copyFault c.b (newCopy true (word 256 256 256 256 0) (past (word 256 256 256 256 0) c))).isSome) = true := by decide

/-- A region of all eight tiles is granted; behind a request or with a tile taken it waits; a region closes. -/
theorem witness_harness :
    issuesNow (word 0 0 0 0 8) (fun _ => openForm (word 0 0 0 0 8)) demo (fun c =>
      c.t.harness.isNone && c.g.mask == c.t.live && (getCore demo 0).harnessQ.isEmpty && decide (8 ≤ (freeTileList (getCore demo 0)).length)) = true ∧
    (let s := { demo with cores := [(0, { getCore demo 0 with tileUsed := 1 })] }
     issuesNow (word 0 0 0 0 8) (fun _ => openForm (word 0 0 0 0 8)) s (fun c =>
       c.t.harness.isNone && c.g.mask == c.t.live && decide ((freeTileList (getCore s 0)).length < 8)) = true) ∧
    issuesNow (word 0 0 0 0 0) (fun _ => closeForm (word 0 0 0 0 0)) demoRegion (fun c => c.t.harness.isSome && !mmaBusy demoRegion 0 0 0) = true ∧
    getTeam demo 0 0 0 = some team0 ∧ 8 ≤ (freeTileList (getCore demo 0)).length := by decide

/-- The MMA family issues in the region: mma of BF16, acc.zero, acc.ld, acc.st and acc.rd on the region's second tile. -/
theorem witness_matrices :
    [((fun w => mmaForm w), (fun w => mmaRows w), { word 0 256 256 0 0x00400040 with fmt := 2, ext := 0x1 }),
     ((fun w => accZeroForm w), (fun _ _ => ([] : List Rows)), { word 0 0 0 0 0 with ext := 1 }),
     ((fun w => accLdForm w), (fun w c => [accRows w c]), { word 0 256 0 0 16 with fmt := 1, ext := 1 }),
     ((fun w => accStForm w), (fun w c => [accRows w c]), { word 0 256 0 0 16 with fmt := 1, ext := 1 }),
     ((fun w => accRdForm w), (fun _ _ => ([] : List Rows)), { word 0 0 0 0 63 with fmt := 1, ext := 1 })].all (fun e =>
      issuesNow e.2.2 (e.1 e.2.2) demoRegion (fun c =>
        let p := past e.2.2 c
        let xs := (e.2.1 e.2.2 p).flatMap (Rows.spans c.core c.slot)
        decide (notStarted (getCore demoRegion 0).mmaQ < 8) && c.t.live == 0xFFFFFFFF && teamGuard e.2.2 c.t && (rowsFault c.b (e.2.1 e.2.2 p)).isNone &&
        !blockedBy demoRegion 0 0 0 demoRegion.nextAcc (compactPad demoRegion 0) xs && (copiesBefore demoRegion 0 0 0 demoRegion.nextAcc (compactPad demoRegion 0) xs).isEmpty)) =
      true := by decide

/-- The ANCH family issues: zero and tred, add, merge, close with and without a predicate, probe, pmax. -/
theorem witness_anchored :
    [((fun w => anchForm w group7 noUse noUse noUse), { word 240 0 0 0 0 with fmt := 1 }),
     ((fun w => anchForm w group7 noUse (src 1) (src 1)), { word 0 0 8 9 0 with fmt := 2 }), ((fun w => mergeForm w), { word 0 8 0 0 0 with fmt := 1 }),
     ((fun w => closeGroupForm w), { word 20 8 0 21 0 with fmt := 1 }), ((fun w => closeGroupForm w), { word 20 8 0 21 0 with fmt := 1, pen := true, pdst := 6 }),
     ((fun w => probeForm w), { word 20 8 9 0 0 with fmt := 1 }), ((fun w => pmaxForm w), { word 20 8 0 0 0 with fmt := 1 })].all
      (fun e => issuesNow e.2 (fun _ => e.1 e.2) demo always) = true := by decide

/-- Post instructions: handle 1 names post 41, handle 2 none. -/
theorem witness_posts :
    issuesNow (word 0 320 256 0 1) (fun _ => postAddForm) demo (fun c => !c.on.isEmpty && handlePost demo c.b.pad 1 == some 41) = true ∧
    issuesNow (word 0 320 256 0 2) (fun _ => postAddForm) demo (fun c => !c.on.isEmpty && (handlePost demo c.b.pad 2).isNone) = true ∧
    issuesNow (word 0 320 256 256 1) (fun _ => postSetForm) demo (fun c => !c.on.isEmpty) = true ∧
    issuesNow { word 0 320 256 256 1 with mod := 1 } (fun _ => postWaitForm { word 0 320 256 256 1 with mod := 1 }) demo (fun c =>
      !c.on.isEmpty && !ownUpd { word 0 320 256 256 1 with mod := 1 } (past { word 0 320 256 256 1 with mod := 1 } c)) = true ∧
    issuesNow (word 0 256 0 0 1) (fun _ => postRdForm (word 0 256 0 0 1)) demo (fun c =>
      !c.on.isEmpty && !ownUpd (word 0 256 0 0 1) (past (word 0 256 0 0 1) c)) = true := by decide

/-- A send of 65,552 bytes breaks the range, one of 16 that no path takes does not; path.inv issues. -/
theorem witness_paths :
    (sendFault (block0 team0) 0 65552).isSome = true ∧ issuesNow (word 256 256 320 256 65552) (fun _ => sendForm) demo (fun c => !c.on.isEmpty) = true ∧
    issuesNow (word 256 256 320 256 16) (fun _ => sendForm) demo (fun c =>
      !c.on.isEmpty && (sendFault c.b 0 16).isNone && (sendPath demo c.b 0 16 0).isNone) = true ∧
    issuesNow (word 0 0 0 0 1) (fun _ => invForm (word 0 0 0 0 1)) demo always = true := by decide

/-! ## Queue, pins, registers, numbers -/

def answersNext (o : Host.Outcome State Fault Refusal) : Bool := match o with | .next _ => true | _ => false

/-- The demo without input power. -/
def dark0 : State := { State.reset with pins := { State.reset.pins with p48vOk := false } }

/-- Premises on the queue and on input power hold of some states; demo steps. -/
theorem witness_machine :
    State.reset.pending = [] ∧ dark0.pins.p48vOk = false ∧ answersNext (exec .identifyTimeout demo) = true ∧ answersNext (exec .identifyTimeout dark0) = true ∧
    demo.pins.p48vOk = true ∧ answersNext (step { demo with pending := [.identifyTimeout] }) = true := by decide

theorem witness_invariant : poweredOrOff { demo with pending := [.identifyTimeout] } := Or.inl (by decide)

theorem witness_int_frame : issuesNow (word 0 2 4 0 0) (fun _ => addSubForm (word 0 2 4 0 0)) demo (fun _ => answersNext (exec (.intAdd issue0 (word 0 2 4 0 0)) demo)) =
    true := by decide

/-- Destinations: the last general registers that hold 4, the last register alone, g255, and a uniform register. -/
theorem witness_destinations : opd 251 = .gen 251 ∧ 251 + 4 ≤ 255 ∧ opd 254 = .gen 254 ∧ opd 255 = .gen 255 ∧ opd 256 = .uni 0 ∧ opd 319 = .uni 63 ∧
    ([(0, 7), (31, 8)].map Prod.fst).Nodup := by decide

/-- NaN, infinite, zero and negative operands in FP32 and FP64. -/
theorem witness_special :
    (fp32.decode 0x7F800001).signalling = true ∧ (fp32.decode 0x7FC00000).isNan = true ∧ (fp32.decode 0x7FC00000).signalling = false ∧
    fp32.decode 0x7F800000 = .inf false ∧ fp32.decode 0xFF800000 = .inf true ∧ (fp32.decode 0).isNan = false ∧
    (match fp32.decode 0 with | .fin n k _ => !n && k == 0 | _ => false) = true ∧ (match fp32.decode 0xBF800000 with | .fin n k _ => n && k != 0 | _ => false) = true ∧
    (fp64.decode 0x7FF0000000000001).signalling = true ∧ fp64.decode 0x7FF0000000000000 = .inf false ∧ fp64.decode 0xFFF0000000000000 = .inf true ∧
    (match fp64.decode 0x8000000000000001 with | .fin n k _ => n && k != 0 | _ => false) = true := by decide

/-- Every format with its largest code of a number. -/
theorem witness_formats : (List.range 32).all (fun k => match fmtOf k with
    | some f => (match f.decode 1 with | .fin _ _ _ => true | _ => false) && decide (1 < 2 ^ f.width)
    | none => true) = true ∧ (fmtOf 0).isSome = true ∧ (fmtOf 1).isSome = true := by decide

/-- Floats to integers: a NaN, an infinity, 2^31 − 128 (in range), −1 unsigned (below) and 2^31 signed (above). -/
theorem witness_float_to_int :
    (∃ q, fp32.decode 0x7FC00000 = .nan q) ∧ fp32.decode 0xFF800000 = .inf true ∧ fp32.decode 0x4EFFFFFF = .fin false 16777215 7 ∧
    ((roundAt .rn false 16777215 7 0 false).1 : Int) ≤ 2 ^ 31 - 1 ∧ fp32.decode 0xBF800000 = .fin true 8388608 (-23) ∧
    (-1 : Int) * ((roundAt .rn true 8388608 (-23) 0 false).1 : Int) < 0 ∧ fp32.decode 0x4F000000 = .fin false 8388608 8 ∧
    (2 ^ 31 - 1 : Int) < ((roundAt .rn false 8388608 8 0 false).1 : Int) := by decide

/-! ## Sums, refused words, job faults -/

/-- Two trees over the same two long forms, and one probed addend under the lowest anchor that its bound allows. -/
theorem witness_sums :
    let l (v : Nat) : LongForm := { bits := BitVec.ofNat 192 v, ovf := false, oppinf := false }
    ([l 1, l 2].Perm [l 2, l 1]) ∧ (SumTree.node (.leaf (l 1)) (.leaf (l 2))).leaves = [l 1, l 2] ∧
    (SumTree.node (.leaf (l 1)) (.leaf (l 2))).magnitude ≤ 2 ^ 191 - 2 ∧ probeExp (.fin false 1 0) ≤ 0 ∧
    (0 : Int) + (bitLen (1 - 1) : Int) - 29 ≤ (BitVec.ofInt 10 (-29)).toInt := by decide

/-- A word with nonzero reserved bits breaks the rules of its form, and so does an unknown family. -/
theorem witness_refused :
    (match ready demo issue0 { word 0 2 4 0 0 with rsv := 1 } with
     | some c => !legal (shapeRegs c.b.shape) (addSubForm { word 0 2 4 0 0 with rsv := 1 }) { word 0 2 4 0 0 with rsv := 1 }
     | none => false) = true ∧
    (let x : BitVec 128 := 0xFFFFFFFFFFFFFFFFFFFFFFFFFFFFFFFF
     match ready demo issue0 (wordFields x) with | some c => refusedWord x c | none => false) = true := by decide

theorem witness_job_fault : restarting demo = false ∧ demo.pads.map Prod.fst = [0] ∧ (getBlock demo 0 0).isSome = true := by decide

/-! ## Teams, accesses, lines, posts -/

def getTeam0 (s : State) : Team := (getTeam s 0 0 0).getD team0

def waiting (x : GWait) : TGroup := { mask := 0xFFFFFFFF, pc := 0, wait := some x, left := 16, born := 0 }

/-- A quantum over with a second group ready; a team at a barrier; a queue of one request for all eight tiles; a matrix instruction in flight. -/
theorem witness_team_events :
    (let s := withTeam { team0 with ring := [{ mask := 1, pc := 0, wait := none, left := 0, born := 0 }, { mask := 0xFFFFFFFE, pc := 16, wait := none, left := 16, born := 1 }] }
     atWork s && ((getTeam0 s).ring.map fun g => g.left) == [0, 16] && (getTeam0 s).ring.all fun g => g.wait.isNone) = true ∧
    (let s := withTeam { team0 with ring := [waiting (.barrier 15)] }
     ∃ b, getBlock s 0 0 = some b ∧ (∀ e ∈ b.teams, e.2.live = 0 ∨ ∀ g ∈ e.2.ring, g.wait = some (.barrier 15)) ∧
       ∀ e ∈ (getCore s 0).mmaQ, e.slot = 0 → e.own = true → e.store = false) ∧
    (∀ e ∈ (getCore (withMma { mma0 with store := false }) 0).mmaQ, e.slot = 0 → e.own = true → e.store = false) ∧
    (∀ e ∈ (getCore (withMma { mma0 with own := false, frees := [0, 1] }) 0).mmaQ, e.slot = 0 → e.own = true → e.store = false) ∧
    (let s := { demo with cores := [(0, { getCore demo 0 with harnessQ := [(0, 0, 8)] })] }
     (getCore s 0).harnessQ = [(0, 0, 8)] ∧ 8 ≤ (freeTileList (getCore s 0)).length) ∧
    (getCore (withMma mma0) 0).mmaQ = [mma0] ∧ mma0.own = true := by
  refine ⟨by decide, ⟨block0 { team0 with ring := [waiting (.barrier 15)] }, by decide⟩, by decide, by decide, by decide, by decide⟩

def lane0 (addr : Nat) : LaneAcc := { lane := 0, addr := addr, data := 5, cmp := 0, got := 0 }

/-- An access of lane 0 in flight. -/
def acc0 (kind : MemKind) (space : Fin 3) (addr : Nat) : Access :=
  { id := 0, core := 0, slot := 0, team := 0, pc := 0, kind := kind, space := space, bytes := 4, lanes := [lane0 addr], dst := 0, aop := 0, signed := false, ro := false,
    last := false, hint := 0, pad := 0, tag := 0, epoch := 0, compact := false, performed := false, adding := false, level := none, block := 0,
    stage := 0xFF, nokeep := false }

def withAcc (a : Access) : State := { demo with accs := [a], nextAcc := 1 }

/-- A commons on unit 0. -/
def withCommons (s : State) : State := { s with pads := [(0, { pad0 with commons := 1 })] }

/-- A loft access that leaves its core with its share unfunded, that no other outranks and that its slice does not hold. -/
def leavesNow (s : State) (a : Access) : Bool :=
  match leaveCore a s with
  | (u, some b) => b == { a with level := some .unfunded } && !outranked u .unfunded (accArbiters u a) && !(lanesHold b u).2 && !commonsPoison (lanesHold b u).1 0 0 4
  | (_, none) => false

/-- Local accesses at the local store's last word and loft accesses at 0 are not held. -/
theorem witness_accesses :
    [acc0 .ld 0 65532, acc0 .st 0 65532, acc0 .red 0 65532, acc0 .atom 0 65532].all (fun a =>
      let s := withAcc a
      atWork s && findAcc s 0 == some a && !reqBehind s a && !a.lost && (getBlock s 0 0).isSome && !blockedBy s 0 0 0 0 false (accSpans s a) && (copiesBefore s 0 0 0 0 false (accSpans s a)).isEmpty) = true ∧
    [acc0 .st 1 0, acc0 .ld 1 0].all (fun a =>
      let s := withCommons (withAcc a)
      findAcc s 0 == some a && !blockedBy s 0 0 0 0 false (accSpans s a) && (copiesBefore s 0 0 0 0 false (accSpans s a)).isEmpty &&
      leavesNow s a && !a.ro && !a.lost) = true := by decide

/-- A copy of two rows of 16 bytes whose source has been read, within the local store. -/
def copyRun0 : CopyRun :=
  { id := 0, core := 0, slot := 0, team := 0, pad := 0, tag := 0, epoch := 0, dspace := 0, daddr := 0, sspace := 0, saddr := 1024, rowLen := 16, rows := 2, sstride := 16,
    dstride := 16, handle := 1, done := 0, read := 32, buf := [], psn := [], refused := false, compact := false, block := 0, pc := 0, stage := 0xFF }

theorem witness_replies :
    (let a := { acc0 .ld 0 0 with performed := true }
     rspBehind (withAcc a) a = false ∧ ((withAcc a).accs.find? fun x => x.id == 0 && x.performed && !x.lost && (x.space == 0) == true) = some a) ∧
    (let a := { acc0 .ld 1 0 with performed := true, level := some .unfunded }
     rspBehind (withAcc a) a = false ∧ ((withAcc a).accs.find? fun x => x.id == 0 && x.performed && !x.lost && (x.space == 0) == false) = some a) ∧
    (let s := { demo with copies := [copyRun0] }
     (s.copies.find? fun x => x.id == 0) = some copyRun0 ∧ copyRun0.read = copyRun0.total ∧ copiesBefore s 0 0 0 0 false (copySpans s copyRun0) = [] ∧
     16 ≤ grantBytes s 0 [1, 2] ∧ copyRun0.done % copyRun0.rowLen + 16 ≤ copyRun0.rowLen ∧ copyRun0.done + 16 < copyRun0.total) := by decide

/-- An add to element 0 of line 0 of the west half. -/
def add0 (anchor : Option (BitVec 10)) (waits : Bool) : AddReq :=
  { id := 0, pad := 0, half := false, line := 0, anchor := anchor, vals := [(0, 0x3F800000)], longs := [], cls := .normal, src := .window 0 none 4 0, waits := waits }

def open0 (place : LinePlace) : OpenLine :=
  { pad := 0, anchor := 0, longs := [], ovf := false, oppinf := false, mismatch := false, spilled := false, place := place, pinAge := 0, poison := [] }

/-- A request in flight, a cache of seven units, and open lines. -/
def withAdd (r : AddReq) (lines : Tbl OpenLine) : State :=
  let s := { demo with pads := [(0, { pad0 with cache := 0x7F, spillUsed := [0] })] }
  { s with loft := { s.loft with adds := [r], nextAdd := 1, openLines := lines } }

def addReady (s : State) (r : AddReq) : Bool :=
  findAdd s 0 == some r && !(lineHold r.half (1024 * r.line) true s).2 && !addBehind s r && addPoison s r == .clean

theorem witness_lines :
    addReady (withAdd (add0 none false) []) (add0 none false) = true ∧ (markDirty false 0 (withAdd (add0 none false) [])).loft.openLines = [] ∧
    addReady (withAdd (add0 (some 3) false) []) (add0 (some 3) false) = true ∧ pinsOf (markDirty false 0 (withAdd (add0 (some 3) false) [])) 0 false ≠ 0 ∧
    (pinnedIn (withAdd (add0 (some 3) false) []) 0 (lineKey false 0)).length < pinsOf (withAdd (add0 (some 3) false) []) 0 false ∧
    (let s := withAdd (add0 (some 3) false) [(lineKey false 0, open0 .pinned)]
     addReady s (add0 (some 3) false) = true ∧ tfind (markDirty false 0 s).loft.openLines (lineKey false 0) = some (open0 .pinned) ∧ (3 : BitVec 10) ≠ (open0 .pinned).anchor) ∧
    (let s := withAdd (add0 (some 3) true) [(lineKey false 0, open0 (.spilling 0))]
     (pinnedIn s 0 (lineKey false 0)).find? isSpilling = some (lineKey false 0, open0 (.spilling 0)) ∧ slotHeld s 0 0 = false) ∧
    (let s := withAdd (add0 (some 3) true) [(lineKey false 0, open0 (.slot 0))]
     addBehind s (add0 (some 3) true) = false ∧ slotHeld s 0 0 = false ∧ (pinnedIn s 0 (lineKey false 0)).length < pinsOf s 0 false ∧
     tfind s.loft.openLines (lineKey false 0) = some (open0 (.slot 0))) := by decide

def upd0 (isSet : Bool) (v : Nat) : PostUpd := { id := 0, post := 41, isSet := isSet, value := v, pad := some 0, after := [], sends := [] }

def wait0 (target : W48) : PostWait := { id := 0, who := .cmd 0, post := some 41, die := postDie 41, target := target, entry := false }

def withPosts (p : Posts) : State := { demo with posts := p }

def cmd0 (b : Body) : Cmd := { seq := 0, hdr := hdr0, body := b, began := true, due := false }

/-- Updates that nothing holds: a set, an add up to the last count and one beyond it; a wait that holds and one that does not; a command's wait with a timeout. -/
theorem witness_post_events :
    [upd0 true 7, upd0 false (2 ^ 48 - 2), upd0 false (2 ^ 48 - 1)].all (fun u =>
      let s := withPosts { cnt := [(41, 1)], waits := [], upds := [u], nextId := 1 }
      (s.posts.upds.find? fun x => x.id == 0) == some u && !updHeld s u) = true ∧
    (let s := withPosts { cnt := [(41, 1)], waits := [wait0 1], upds := [], nextId := 1 }
     (s.posts.waits.find? fun x => x.id == 0 && !x.entry) = some (wait0 1) ∧ waitHolds s (wait0 1) = true ∧ (postValue s 41).toNat + (2 ^ 48 - 2) < 2 ^ 48) ∧
    (let s := withPosts { cnt := [(41, 1)], waits := [wait0 2], upds := [], nextId := 1 }
     waitHolds s (wait0 2) = false ∧ (wait0 2).die < 8 ∧ entriesUsed s (postDie 41) < 1024 ∧
     (let u := { s with ym := { s.ym with cmds := [cmd0 (.postWait 1 2 9)] } }
      awake u = true ∧ findCmd u 0 = some (cmd0 (.postWait 1 2 9)) ∧ (u.posts.waits.find? fun x => x.who == .cmd 0) = some (wait0 2))) := by decide

/-! ## Paths and blocks -/

/-- Stage k on the single core k, at (32 + k, 0). -/
def stage0 (k : Nat) : StageRec :=
  { stage := BitVec.ofNat 6 k, depth := BitVec.ofNat 6 k, px := BitVec.ofNat 6 (32 + k), py := 0, pw := 0, ph := 0, sw := 0, sh := 0, shape := 0x00101F00, prog := 0, arg := 0,
    boundAc := 0, boundFc := 0 }

/-- A path from stage 0 to stage 1 of one tile of 64 bytes, by its distribution. -/
def path0 (dist : BitVec 3) : PathRec :=
  { path := 5, from_ := 0, to_ := 1, dist := dist, postmode := false, rform := 0, cidx := 0, anchor := 0, tile := 64, slots := 2, tpi := 1, sbase := 0, dpost := 0, extra := [] }

def pipe0 (dist : BitVec 3) : Pipe :=
  { tableAt := 0, tag := 0, period := 1000,
    stages := [{ cfg := stage0 0, inv := 3, running := true, told := 0, locals := [], mhz := 2400 }, { cfg := stage0 1, inv := 2, running := true, told := 0, locals := [], mhz := 2400 }],
    paths := [{ cfg := path0 dist, gen := 1, pairs := [], commits := [] }],
    start := some { b0 := 0, first := 0, seed := 0, count := 0, epost := 0, accepted := true, ended := false, cmd := none }, moves := [] }

/-- The demo's block as stage 0's invocation 3. -/
def stageBlock (exited : Bool) : Block := { block0 team0 with src := .stage 0 3, exited := exited, teams := if exited then [] else [(0, team0)] }

def withPipe (p : Pipe) (b : Block) : State :=
  { demo with pads := [(0, { pad0 with pipe := some p })], cores := [(0, { getCore demo 0 with blocks := [(0, b)] })] }

def piped (dist : BitVec 3) : State := withPipe (pipe0 dist) (stageBlock false)

/-- A send of a tile on path 5 waits for its credit. -/
theorem witness_send :
    issuesNow { word 256 256 320 256 64 with ext := 5 } (fun _ => sendForm) (piped 0) (fun c =>
      !c.on.isEmpty && (sendFault c.b 0 64).isNone && (sendPath (piped 0) c.b 5 64 0).isSome &&
      !blockedBy (piped 0) 0 0 0 0 (compactPad (piped 0) 0) (spansAt (piped 0) 0 0 0 0 0 0 0 64)) = true := by decide

def pkt0 (kind : BitVec 4) (gen : Byte) : Pkt :=
  { id := 0, kind := kind, last := true, replay := false, dest := 1, src := 0, pad := 0, path := 5, gen := gen, seq := 0, offset := 0, anchor := 0, rform := 0, enter := false,
    ovf := false, oppinf := false, input := 0, m := 0, rank := 0, count := 1, payload := [] }

/-- The packet as a router forms it, with its check. -/
def sealed (k : Pkt) : Pkt := { k with hchk := k.check }

def withPkt (dist : BitVec 3) (k : Pkt) : State := { piped dist with mesh := { (piped dist).mesh with pkts := [k] } }

/-- Packets of the path's generation and of an older one; a receiver of stage 1, and a reduction whose only contribution this is. -/
theorem witness_packets :
    [sealed (pkt0 0 1), sealed (pkt0 0 0), sealed (pkt0 1 1), sealed (pkt0 1 0), sealed (pkt0 2 1), sealed (pkt0 2 0)].all (fun k =>
      let s := withPkt (if k.kind == 2 then 4 else 0) k
      pktFirst s k && (pktPath (dropPkt 0 s) k).isSome && (s.mesh.pkts.find? fun x => x.id == 0 && (x.kind == k.kind || decide (7 ≤ x.kind.toNat))) == some k && s.mesh.red.isEmpty &&
      decide (k.hchk = k.check) && !k.refused && k.inside s && (k.dropAt s none).isNone) = true ∧
    [pkt0 0 1, sealed { pkt0 0 1 with kind := 7 }, sealed { pkt0 0 1 with dest := 512 }].all (fun k =>
      let s := withPkt 0 k
      pktFirst s k && (pktPath (dropPkt 0 s) k).isSome && (s.mesh.pkts.find? fun x => x.id == 0 && (x.kind == 0 || decide (7 ≤ x.kind.toNat))) == some k &&
      k.dropAt s none == some k.dest && k.dropAt s (some 3) == some 3) = true ∧
    ((receivers (pipe0 0).recs (path0 0)).find? fun r => r.1 == 0 && r.2.2 == 1) = some (0, 0, 1) ∧
    receivers (pipe0 4).recs (path0 4) = [(0, 0, 1)] ∧ fanIn (pipe0 4).recs (path0 4) 1 ≤ 1 ∧
    (let two := [{ stage0 0 with pw := 1 }, { stage0 1 with px := 34 }]
     1 < fanIn two (path0 4) 1) := by decide +kernel

def launch0 : LaunchParams :=
  { prog := 0, arg := 0, shape := 0x00101F00, blocks := 2, tag := 0, sw := 0, sh := 0, limitAc := 0, seed := 0, px := 32, py := 0, pw := 0, ph := 0, dpost := 0x8000 }

def withLaunch : State :=
  { demo with pads := [(0, { pad0 with launches := [{ id := 0, cmd := none, p := launch0, next := 0, ended := 0, first := none, mhz := 0 }] })], cores := [] }

/-- A launch with a block for a free core; a resident block; an invocation that is over; a move whose replays have landed. -/
theorem witness_blocks :
    (let s := { withLaunch with pwr := { withLaunch.pwr with state := .gallop } }
     startStageBlock 0 0 s = none ∧ (getPad s 0).isSome = true ∧ restarting withLaunch = false ∧ withLaunch.pwr.stalled.contains 0 = false ∧
     ((getPad withLaunch 0).map fun d => d.launches.length) = some 1 ∧
     (match getPad withLaunch 0 with
      | some d => d.launches.any fun l => (startLaunchBlock 0 0 l s).isSome
      | none => false) = true) ∧
    (getBlock demo 0 0).any (fun b => !b.exited) = true ∧
    (let s := withPipe (pipe0 0) (stageBlock true)
     (match getPipe s 0 with
      | some p => (match stageRt p 0 with | some x => x.running && invocationOver s 0 x | none => false)
      | none => false) = true) ∧
    (let p := { pipe0 0 with moves := [{ cmd := none, stage := 0, px := 34, py := 0, took := true, inv := 2 }] }
     (p.moves.find? fun m => m.took && m.stage == 0).isSome = true ∧ (stageRt p 0).any (fun x => decide (2 < x.inv)) = true ∧
     (withPipe p (stageBlock false)).mesh.pkts = []) := by decide

/-! ## Commands of the rings -/

def hdrF : CmdHdr := { hdr0 with paddock := 0xFF }

/-- A state with ring 0 enabled. -/
def rung (s : State) : State := { s with rings := [(0, { getRing s 0 with enable := true })] }

def ringed : State := rung demo

/-- The demo with its paddock as given. -/
def withPad (d : Pad) : State := rung { demo with pads := [(0, d)] }

/-- A reserved field set is refused; and nothing waits. -/
theorem witness_refusals :
    ringLive ringed 0 = true ∧ apertWriteWaits ringed (ringPort ringed 0) = false ∧ statusRoom (visitRing 0 ringed) 0 = true ∧
    checksOk (seen hdrF .padQuery ringed) hdrF .padQuery = false ∧ still ringed = true ∧ ringed.ym.cmds = [] ∧
    (let s := { ringed with xlt := { ringed.xlt with held := [{ id := 0, src := .aperture { port := 0, vf := 0 } 4095 (.write [1]), began := none }] } }
     ringLive s 0 = true ∧ apertWriteWaits s (ringPort s 0) = true) := by decide +kernel

/-- The device's commands begin at once. -/
theorem witness_device_takes :
    ∀ b ∈ ([.devInfo, .faultAck 5, .pwrCap 4200, .pwrState 0 0, .pwrState 2 0, .pwrFixed true 600, .attReport 4096 0xFFFFFFFF 0, .cntSnap 9 3, .testSelf 3 [], .testSelf 31 [], .devWarm true,
      .testCold false (cold [] [] [] []), .devHalfloss 1] : List Body), Takes hdrF b ringed := by unfold Takes; decide +kernel

def beats0 : BeatSetParams := { t0 := 0xFFFFFFFFFFFFFD98, n0 := 2 ^ 63, period := 10000, source := 1 }

/-- A BEAT.SET before any lock, where RT stands. -/
theorem witness_beat_set : Takes hdrF (.beatSet beats0) ringed := by
  have e : seen hdrF (.beatSet beats0) ringed = useFree (visitRing 0 ringed) := tickRt_unlocked (visitRing 0 ringed) (by decide +kernel)
  unfold Takes taken inHand takenAs
  rw [e]
  decide +kernel

theorem witness_device_clauses :
    capOk ringed none 4200 = true ∧ ringed.beat.groups = [] ∧ pwrCode 0 = some ringed.pwr.state ∧ pwrCode 2 = some .walk ∧
    lowAllowed (taken hdrF (.pwrState 2 0) ringed) = true ∧ isStep 600 = true ∧ (∀ d ∈ ringed.pwr.dies.toList, 600 ≤ d.ceil.toNat) ∧
    ringFunc ringed 0 = some (0, 0) ∧ (ringed.cnt.slots[3]).pend = none ∧ (0xFFFFFFFFFFFFFD98 : W64).toNat % 1000 = 0 ∧
    ringed.beat.rt.toNat < (0xFFFFFFFFFFFFFD98 : W64).toNat ∧ ringed.beat.count.toNat < (2 ^ 63 : W64).toNat ∧ ringed.beat.pend = none ∧
    halfIn ringed (31 / 16) = true ∧ padOfQuad ringed 31 = none := by decide +kernel

theorem witness_report_fits : (reportBytes (taken hdrF (.attReport 4096 0xFFFFFFFF 0) ringed) none 0).length ≤ (0xFFFFFFFF : W32).toNat := by decide +kernel

/-- A paddock whose own session is open enters confidential mode. -/
def sessioned : State :=
  rung { demo with sec := { demo.sec with sessions := [{ id := 5, ep := .func { port := 0, vf := 1 }, isOpen := true, secret := 0, epoch := 0 }] } }

theorem witness_conf : Takes hdr0 (.confEnter { session := 5, bounce := 4096, pages := 2 }) sessioned ∧
    confOk sessioned 0 { session := 5, bounce := 4096, pages := 2 } = true ∧ (findSession sessioned 5).isSome = true ∧
    (getSpace sessioned 0).draining = none := by unfold Takes; decide +kernel

/-! Extents -/

def desc0 (barn : Bool) (len : W32) : ExtDesc :=
  { index := 4093, space := barn, half := false, shared := false, backed := false, conf := false, hint := 3, migr := false, tag := 0, bkidx := 0, vbase := 0x200000, len := len,
    hbase := 0, raddr := 0 }

def ext0 (migr shared : Bool) : Extent :=
  { index := 7, barn := false, half := false, shared := shared, backed := shared, conf := false, hint := 1, migr := migr, bkidx := 0, vbase := 0, len := 2, pbase := 200,
    hbase := 4096, raddr := 0, owner := 0, share := none, mixer := false, spill := false }

/-- Tags 0 and 1 of paddock 0; tag 0 maps the extent. -/
def withExt (e : Extent) : State :=
  rung { demo with pads := [(0, { pad0 with budgets := Vector.replicate 4 8 })],
                   xlt := { demo.xlt with spaces := [(0, { space0 with table := [e], mig := 1 }), (1, { space0 with table := [] })],
                                            granules := [{ barn := false, half := false, first := 200, len := 2, ctx := 0, share := 0, conf := false }] } }

def range0 : ExtRange := { tag := 0, index := 7, first := 1, count := 1 }

def copyDesc : DrayDesc :=
  { op := 2, dspace := 2, sspace := 0, hint := 0, crypt := 0, chk := 0, wait := false, dcore := 0, score := 0, daddr := 0, saddr := 0, len := 16, rows := 0, sstride := 0,
    dstride := 0, dpost := noneHandle, wpost := 0, wtarget := 0, tag := 0, rsv := false, dchkOk := true }

theorem witness_ext_map :
    (let s := rung { demo with pads := [(0, { pad0 with budgets := Vector.replicate 4 8 })], mem := { demo.mem with tozero := [] } }
     Takes hdr0 (.extMap (desc0 true 8)) s ∧ (getSpace s 0).draining = none ∧ mapOk s 0 (desc0 true 8) = true ∧ freeRun s true false 8 = some 786496 ∧
     8 ≤ budgetLeft s 0 true false ∧ runZeroing s true false 786496 8 = false ∧ runWaits s [(extentOf 0 (desc0 true 8) 786496).run] = false ∧ findExt s 0 4093 = none) := by unfold Takes; decide +kernel

theorem witness_extents :
    (∀ b ∈ ([.extUnmap 0 7, .adviseHint 0 7 3, .adviseHost range0, .prefetch range0, .adviseAperture 0] : List Body), Takes hdr0 b (withExt (ext0 true false))) ∧
    unmapOk (withExt (ext0 true false)) 0 0 7 = true ∧ ownExt (withExt (ext0 true false)) 0 0 7 = some (ext0 true false) ∧
    rangeExt (withExt (ext0 true false)) 0 range0 = some (ext0 true false) ∧ tagOf (withExt (ext0 true false)) 0 0 = true ∧
    Takes hdr0 (.adviseMigmode 0 2 0xFFFF) (withExt (ext0 false false)) ∧ migModeOk (withExt (ext0 false false)) 0 0 2 0xFFFF = true ∧
    Takes hdr0 (.copy { iodie := 2, tag := 0, desc := copyDesc }) ringed ∧ copyOk ringed 0 0 0 { iodie := 2, tag := 0, desc := copyDesc } = true ∧
    (let p : ShareParams := { spad := 0, stag := 0, sindex := 7, ttag := 1, tindex := 0, tvbase := 0 }
     Takes hdr0 (.extShare p) (withExt (ext0 false true)) ∧ shareOk (withExt (ext0 false true)) 0 p = true) := by unfold Takes; decide +kernel

/-! Paddocks -/

/-- What a new paddock 1 asks for: a quadrant of its own, two cache units, 64 posts of die 0. -/
def params1 : PadParams :=
  { padParams with qmask := 0x80000000, cache := 3, taglo := 1020, winlo := 255, nwin := 1, posts := (Vector.replicate 8 0).set 0 1,
                   buckets := Vector.replicate 4 { rate := 0, depth := 1 } }

theorem witness_paddocks :
    Takes { hdr0 with paddock := 1 } (.padCreate params1) ringed ∧ freeVf ringed false = some 2 ∧ poolGives ringed params1 = true ∧
    (let s := rung { demo with pads := (List.range 31).map fun i => (i, { pad0 with vf := i + 1 }) }
     Takes { hdr0 with paddock := 31 } (.padCreate params1) s ∧ freeVf s false = none) ∧
    (∀ b ∈ ([.padReset 0, .padReset 1, .padDestroy 0, .padDestroy 1, .padQuery] : List Body), Takes hdr0 b ringed) ∧
    (getPad ringed 0).any (fun d => d.drain.isNone) = true := by unfold Takes; decide +kernel

/-! Work -/

def launchP : LaunchParams := { launch0 with limitAc := 1 }

/-- Bytes of a pipeline table of one stage on core 0, at the granule 200 of the Stack that VA 0 is mapped to; none: all zero, which no check passes. -/
def tabled (good : Bool) : State :=
  let bytes : Mem := if good then mwrites [] (200 * granBytes) ([1, 0, 0, 0, 255] ++ List.replicate 61 0 ++ [32, 0, 0, 0, 0, 0, 0x00, 0x1F, 0x10] ++
    List.replicate 21 0 ++ [1]) else []
  let s := withExt (ext0 false false)
  { s with mem := { s.mem with stack := s.mem.stack.set 0 bytes } }

def loadResult (s : State) : Option (Nat × Nat) :=
  let r := readTable 0 0 0 (taken hdr0 (.pipeLoad 0 0) s)
  admission r.1 0 r.2 (fun _ => [])

theorem witness_launch : Takes hdr0 (.jobLaunch launchP) (withPad pad0) ∧ launchOk (withPad pad0) 0 launchP = true := by unfold Takes; decide +kernel

theorem witness_pipe_load : (∀ good, Takes hdr0 (.pipeLoad 0 0) (tabled good)) ∧ loadResult (tabled false) = some (1, 0) := by unfold Takes; decide +kernel
theorem witness_pipe_load_admitted : loadResult (tabled true) = none := by decide +kernel

def pipePad : Pad := { pad0 with commons := 1, pipe := some { pipe0 0 with start := none } }

theorem witness_pipes :
    (let p : StartParams := { b0 := 2 ^ 63, seed := 0, count := 0, epost := 0 }
     Takes hdr0 (.pipeStart p) (withPad pipePad) ∧ reached (withPad pipePad) p.b0.toNat = false) ∧
    (∀ p ∈ ([{ stage := 0, px := 34, py := 0 }, { stage := 0, px := 63, py := 15 }] : List MoveParams), Takes hdr0 (.pipeMove p) (withPad pipePad)) ∧
    moveAdmission (withPad pipePad) 0 { pipe0 0 with start := none } 0 34 0 = none ∧
    (moveAdmission (withPad pipePad) 0 { pipe0 0 with start := none } 0 63 15).isSome = true := by unfold Takes; decide +kernel

/-- A paddock that serves as given, with room for a sequence. -/
def servePad (serve : BitVec 2) : Pad := { pad0 with p := { padParams with serve := serve, maxseq := 1023 } }

theorem witness_serving :
    (let p : JoinParams := { plen := 1, maxtok := 2, prompt := 4, user := 0 }
     Takes hdr0 (.seqJoin p) (withPad (servePad 1)) ∧ joinOk (withPad (servePad 1)) 0 p = true) ∧
    Takes hdr0 (.seqLeave 9) (withPad (servePad 1)) ∧
    (let p : BatchParams := { addr := 16, len := 64, dpost := 0 }
     Takes hdr0 (.batchSubmit p) (withPad (servePad 2)) ∧ batchOk (withPad (servePad 2)) 0 p = true ∧
     64 = 64 + 32 * (fldAt (yardRead 0 0 16 64 (taken hdr0 (.batchSubmit p) (withPad (servePad 2)))).2 8 2 % 2048)) := by unfold Takes; decide +kernel

/-! Posts, groups, windows, links, check units, snapshots -/

def group0 (policy : BitVec 2) : GroupRec :=
  { gid := 0xFFFF, self := 0, nmemb := 2, policy := policy, lead := 1, lendW := 1000, ttl := 15, capstep := 1, ports := 1 }

def win0 : WinEntry := { win := 255, rd := true, wr := true, add := true, tag := 0, post0 := 0, npost := 2, vbase := 0, len := 524288 }

def withWin (isOpen : Bool) (inflight : Nat) : State :=
  rung { demo with xlt := { demo.xlt with wins := [(255, { getWin demo 255 with given := true, pad := 0, isOpen := isOpen, inflight := inflight })] } }

theorem witness_post_commands :
    (∀ b ∈ ([.postSet 1 7, .postWait 1 7 0, .postWait 1 7 9] : List Body), Takes hdr0 b ringed) ∧ padPost ringed 0 1 = some 41 ∧ ringed.posts.waits = [] ∧
    postValue ringed 41 < 7 := by unfold Takes; decide +kernel

theorem witness_groups_and_windows :
    (∀ b ∈ ([.groupJoin (group0 1), .groupLeave (group0 0)] : List Body), Takes hdrF b ringed) ∧ groupJoinOk ringed (group0 1) = true ∧
    Takes hdr0 (.winOpen win0) (withWin false 0) ∧ winOk (withWin false 0) 0 win0 = true ∧
    Takes hdr0 (.winClose 255) (withWin true 1) ∧ (getWin (withWin true 1) 255).closing = none := by unfold Takes; decide +kernel

def stream0 (cont : Bool) (gen : Byte) : StreamParams := { gen := gen, target := 0, unit := 0, cont := cont, offset := 4096, limit := 0xFFFFFFFF }

/-- Generation 0 complete. -/
def marked : State := rung { demo with snaps := { demo.snaps with gens := demo.snaps.gens.set 0 { demo.snaps.gens[0] with complete := true, current := true } } }

theorem witness_links_and_snapshots :
    (∀ b ∈ ([.linkQuery 35, .linkEnable 35, .linkDisable 0, .linkSet 34 2 0, .linkSet 35 0 4, .checkArm true 8 2, .checkRead false 1, .snapMark true,
      .snapRestore 0xFF, .snapStream (stream0 true 1)] : List Body), Takes hdrF b ringed) ∧
    (getChk ringed (checkKey true 8)).user = none ∧ genNamed ringed 0xFF = some none ∧ genNamed marked 0 = some (some 0) ∧
    (∀ b ∈ ([.snapRestore 0, .snapStream (stream0 false 0)] : List Body), Takes hdrF b marked) ∧ streamOk (stream0 false 0) = true ∧
    imageBytes (imageGrans marked 0).length ≤ imageRoom (stream0 false 0) ∧ (∀ e ∈ ringed.pads, padState e.2 = 0) ∧
    (let t := taken hdrF (.snapRestore 0) marked
     gransWait t (restoreDue t 0 (restoreCovers hdrF)) = false) := by unfold Takes; decide +kernel

/-! ## Beat, power, panel, links -/

def withBeat (b : Beat) : State := { demo with beat := b }

/-- The reference holds, beat 0 has been reached. -/
def locked0 : Beat := { demo.beat with locked := true, reached0 := true, next := 7, lastFrame := some 4, count := 6 }

/-- Frame 5: the start, its number's 64 bits, least significant first, and plain cycles. -/
def frame5 : RefFrame := { highs := [20, 70, 30, 66, 34] ++ List.replicate 60 30 ++ List.replicate 9935 50, ppm := 200 }

def sync0 : SyncMsg := { domain := 0, time := 9, offset := 99, step := 1000 }

def lateGroup : Group :=
  { cfg := group0 1, drops := 0, origin := 0, slip := 0, short := false, dbeat := 0, notices := 0, seen := [(3, 4)], sent := 0, lend := [] }

def late0 (q : W16) (ttl : BitVec 4) : LatePkt := { gid := 0xFFFF, origin := 3, seq := q, d := 0, apply := 0, slip := 0, ttl := ttl, short := false }

def upPort (mode : BitVec 2) : Port := { Port.reset with present := true, state := .up, mode := mode, width := 4 }

theorem witness_beat :
    awake demo = true ∧ demo.ym.mode ≠ 1 ∧ ringLive demo 33 = false ∧
    (let s := withBeat locked0
     s.beat.locked = true ∧ s.beat.reached0 = true ∧ s.beat.pend = none ∧ s.beat.force.source = s.beat.source ∧ s.beat.source = causeSource .frequency ∧ s.beat.count.toNat < s.beat.next.toNat ∧ frame5.good = true ∧
     s.beat.source = 0 ∧ s.beat.lastFrame = some (frame5.number - 1)) ∧
    (let s := withBeat { demo.beat with lastFrame := some 4 }
     s.beat.locked = false ∧ s.beat.source = 0 ∧ s.beat.lastFrame = some (frame5.number - 1)) ∧
    (∀ l : Bool, let s := setPort 0 (upPort 1) (withBeat { demo.beat with source := 1, locked := l })
      s.beat.source = 1 ∧ ptpPort s = true ∧ s.beat.locked = l ∧ sync0.domain = s.beat.ptpdom ∧ ({ sync0 with domain := 1 } : SyncMsg).domain ≠ s.beat.ptpdom) ∧
    (let s := withBeat { demo.beat with source := 1, locked := true }
     s.beat.source = causeSource .port0 ∧ ptpPort s = false) ∧ sync0.step ≤ 1000 ∧ sync0.offset < 100 ∧
    (let s := withBeat { demo.beat with good := 3 }
     s.beat.locked = false ∧ s.beat.source = 0 ∧ 3 ≤ s.beat.good ∧ s.beat.reached0 = false ∧ s.beat.force.cmd = none ∧ s.beat.force.t0 = 0 ∧ s.beat.losses = 0) ∧
    (withBeat { demo.beat with pend := some { t0 := 1000, n0 := 1, period := 1000, source := 0, cmd := none } }).beat.pend.isSome = true ∧
    (let s := setPort 35 (upPort 0) (withBeat { demo.beat with groups := [lateGroup] })
     halfIn s (portHalf 35) = true ∧ (getPort s 35).state = .up ∧ (getPort s 35).mode = 0 ∧
     (∀ k ∈ [late0 4 0, late0 5 0, late0 5 15], (s.beat.groups.find? fun g => g.cfg.gid == k.gid) = some lateGroup) ∧
     lateGroup.seen.contains (3, 4) = true ∧ lateGroup.seen.contains (3, 5) = false) := by decide +kernel

def pressed (stage : Fin 3) : State := { demo with panel := { demo.panel with held := true, ignored := false, stage := stage } }

theorem witness_power_and_panel :
    demo.pins.p48vOk = true ∧ dark0.pins.p48vOk = false ∧ demo.panel.held = false ∧ demo.pwr.state ≠ .stabled ∧
    (let s : State := { demo with pwr := { demo.pwr with state := .stabled } }
     s.pins.pwrOk = true ∧ s.panel.held = false ∧ s.pwr.exiting = false) ∧
    (∀ i : Fin 3, (pressed i).panel.held = true ∧ (pressed i).panel.ignored = false ∧ (pressed i).panel.stage = i ∧ (pressed i).panel.drain = false) ∧
    demo.sec.dbgopen = false ∧ ({ demo with stk := { demo.stk with hold := 0x8000 } } : State).stk.hold.getLsbD 15 = true ∧
    halfIn demo (portHalf 35) = true ∧ (getPort demo 35).present = false ∧
    (∀ x : PortState, x = .failed ∨ x = .up → let s := setPort 35 { upPort 0 with state := x } demo
      (getPort s 35).present = true ∧ (getPort s 35).enabled = true ∧ (getPort s 35).state = x ∧ (getPort s 35).width = (getPort s 35).cfgw ∧
      (getPort s 35).traffic = 0) := by
  refine ⟨by decide, by decide, by decide, by decide, by decide +kernel, by decide +kernel, by decide, by decide, by decide, by decide +kernel, ?_⟩
  rintro x (rfl | rfl) <;> decide +kernel

/-- Port 35 as given; the cage's pin and its debounce. -/
def ported (x : Port) (low : Bool) : State :=
  setPort 35 x { demo with pins := { demo.pins with cageLow := setBit demo.pins.cageLow 35 low, cageDeb := setBit demo.pins.cageDeb 35 true } }

def flit0 (q : Nat) (ok : Bool) : Flit := { seq := q, crcOk := ok, ack := none, fecCorr := 0, fecUnc := 0 }

theorem witness_ports :
    (∀ low : Bool, let s := ported { Port.reset with present := !low } low
      portLive s 35 = true ∧ s.pins.cageDeb.getLsbD 35 = true ∧ s.pins.cageLow.getLsbD 35 = low ∧ (getPort s 35).present = !low) ∧
    (∀ recovering retried quiet : Bool, let s := ported { Port.reset with present := true, state := .training, recovering := recovering, retried := retried, quiet := quiet,
                                                                          peerId := 9, peerPort := 35 } true
      portLive s 35 = true ∧ (getPort s 35).state = .training ∧ (getPort s 35).recovering = recovering ∧ (getPort s 35).retried = retried ∧ (getPort s 35).quiet = quiet ∧
      (getPort s 35).present = true ∧ (getPort s 35).enabled = true ∧ (getPort s 35).mode = 0 ∧ widthOk s 35 4 = true ∧ widthOk s 35 1 = true ∧
      (getPort s 35).peerId = 9 ∧ (getPort s 35).peerPort = 35) ∧
    (let s := ported { Port.reset with present := true, state := .failed } true
     (getPort s 35).state = .failed ∧ (getPort s 35).present = true ∧ (getPort s 35).enabled = true) ∧
    (let s := ported { upPort 0 with rxNext := 3, txAcked := 6, txNext := 7 } true
     (getPort s 35).state = .up ∧ (getPort s 35).mode ≠ 2 ∧ (flit0 3 true).seq = (getPort s 35).rxNext ∧ (flit0 4 true).seq ≠ (getPort s 35).rxNext ∧
     (flit0 3 false).crcOk = false ∧ (getPort s 35).resends = [] ∧ (getPort s 35).txAcked + 1 = (getPort s 35).txNext) := by decide +kernel

theorem witness_lanes_and_wires :
    halfIn demo 1 = true ∧ (demo.links.lanes[1]).testing.contains 71 = false ∧ (demo.links.lanes[1]).failed.contains 71 = false ∧ (demo.links.lanes[1]).outside.contains 71 = false ∧
    (let s : State := { demo with links := { demo.links with lanes := demo.links.lanes.set 1 { Lanes.reset with testing := [71] } } }
     (s.links.lanes[1]).testing = [71] ∧ (s.links.lanes[1]).spare[0] = 0x7F) ∧
    (∀ u ∈ ([.mesh 0, .edge 11 7, .seam 15] : List WireUnit), wireLive demo u = true ∧ 255 < lineWires u ∧ (getWires demo u true).dead.contains 255 = false ∧
      (getWires demo u true).used < 16) ∧ 1055 < lineWires (.mesh 0) ∧ (getWires demo (.mesh 0) false).dead.contains 1055 = false := by decide +kernel

/-! ## Registers and host ports -/

def stabled0 : State := { demo with pwr := { demo.pwr with state := .stabled } }

theorem witness_registers :
    (0xFFFFFC : W32).toNat % 4 = 0 ∧ lodgeReaches stabled0 0x300000 false = true ∧ lodgeReaches demo 0x300000 false = false ∧
    sbStatusWord stabled0 ≠ 0 ∧ accessorUp demo (.func { port := 1, vf := 0 }) = true ∧ accessorUp demo .sideband = true ∧
    (∀ p ∈ ([.beatNow, .beatRt, .cntLive 4095, .cntSnap 3 4095, .chkBytes 1 7, .chkValue 0 0] : List Pair), pairSeen demo (.func { port := 0, vf := 0 }) p = true) ∧
    (let s : State := { demo with latches := [(.sideband, .beatNow, 5)] }
     (s.latches.find? (isLatch .sideband .beatNow)).isSome = true ∧ s.latches.find? (isLatch .sideband .beatRt) = none) ∧
    blockAnswers demo blkBeat = true ∧ (getRing ringed 0).enable = true := by decide +kernel

theorem witness_register_commands :
    awake demo = true ∧ demo.sec.waiting = false ∧ halfIn demo (7 / 4) = true ∧ demo.loft.retire = none ∧
    ({ demo with loft := { demo.loft with retire := some (7, 31) } } : State).loft.retire = some (7, 31) ∧ demo.stk.reqBusy = false ∧
    ({ demo with stk := { demo.stk with reqBusy := true } } : State).stk.reqBusy = true ∧ stackLive demo 15 = true ∧ (24575 : BitVec 15).toNat < 24576 ∧
    (anyConf { demo with pads := [] } = false) ∧ (1 : W16) &&& ~~~demo.stk.hold ≠ 0 ∧ demo.pads ≠ [] ∧ demo.snaps.retBusy = false ∧
    halfIn demo (1023 / 512) = true ∧ (getCore demo 1023).out = false ∧ funcUp demo 1 0 = true ∧ demo.sec.busy = false ∧
    imageFault demo 4096 4096 { blankImage with signed := false } = some 5 ∧ imageFault demo 4096 4096 blankImage = none ∧
    accessorUp demo .sideband = true ∧ demo.pwr.exiting = false ∧ ({ demo with pwr := { demo.pwr with state := .stand } } : State).pwr.state = .stand ∧
    (getTgt demo 15).state = 0 ∧ recordBad (hostReads demo 1 0 1024) = false ∧ isConf demo (getSq demo 63).pad.toNat = false ∧
    isConf { demo with pads := [(0, { pad0 with conf := some { session := 0, bounce := 0, pages := 2, keyH2d := 0, keyD2h := 0, ctrD2h := 1, ctrH2d := 0, authfail := 0, viewed := none } })] }
      (getSq demo 63).pad.toNat = true ∧
    (getFq demo 1).enable = false ∧ noneSetUp { demo with flt := { demo.flt with queues := demo.flt.queues.set 0 { FaultQueue.reset with setUp := true } } } = false ∧ funcRing demo { port := 0, vf := 1 } = some 2 ∧ funcUp demo 0 1 = true := by decide +kernel

theorem witness_host_ports :
    (let s : State := { demo with hosts := demo.hosts.set 1 { demo.hosts[1] with up := false } }
     awake s = true ∧ halfIn s 1 = true ∧ s.pins.perst.getLsbD 1 = false ∧ s.hosts[1].hold = false ∧ s.hosts[1].up = false) ∧
    demo.pins.pwrOk = true ∧ stabled0.pins.pwrOk = true ∧ stabled0.pwr.exiting = false ∧
    ({ demo with pins := { demo.pins with pwrOk := false } } : State).pins.pwrOk = false ∧ demo.hosts[1].up = true ∧ atWork demo = true ∧ funcUp demo 0 0 = true ∧
    apertUnder demo { port := 0, vf := 0 } none = none ∧ apertUnder demo { port := 0, vf := 1 } none = some (0, 0) ∧ funcUp demo 0 1 = true ∧
    (let u := gallop demo
     let g := apertEng u 0 0 0
     (apertHold g 0 4096 true u).2 = false ∧ (apertHold g 0 1 false u).2 = false ∧ apertBehind u 0 demo.xlt.nextHeld (apertSpans u g 0 4096) = false ∧
     (let s := { demo with xlt := { demo.xlt with held := [{ id := 0, src := .aperture { port := 0, vf := 1 } 0 (.read 1), began := none }], nextHeld := 1 } }
      apertBehind (gallop s) 0 s.xlt.nextHeld (apertSpans (gallop s) g 0 4096) = true)) := by decide +kernel

/-! ## Spaces, marks, restarts -/

def change0 (cmd : Option Nat) : Change := { cmd := cmd, freed := [], unshare := [], indices := [], mapped := none }

/-- Tag 0 drains a change of a command or of none. -/
def draining (cmd : Option Nat) : State :=
  { withExt (ext0 false false) with
      xlt := { demo.xlt with spaces := [(0, { space0 with draining := some (change0 cmd) })] }, ym := { demo.ym with cmds := [cmd0 (.extUnmap 0 7)] } }

def drained (step : Nat) (resets destroys : List Nat) : State :=
  { demo with pads := [(0, { pad0 with drain := some { squash := false, resets := resets, destroys := destroys, step := step } })] }

/-- Granule 1 of the MIGR extent, moving. -/
def moving (res : Residence) (cmd : Option Nat) : State :=
  { withExt (ext0 true false) with
      xlt := { (withExt (ext0 true false)).xlt with mig := [{ tag := 0, index := 7, granule := 1, half := false, place := 201, res := res, count := 0, touched := false, cmd := cmd }] } }

def seq0 (state : SeqState) : Seq := { freshSeq 1 { plen := 1, maxtok := 2, prompt := 4, user := 0 } with state := state, slot := some 1023 }

def swapping (state : SeqState) : State := { demo with pads := [(0, { servePad 1 with seqs := [seq0 state] })] }

theorem witness_spaces :
    awake demo = true ∧ atWork demo = true ∧
    (let s : State := { demo with xlt := { demo.xlt with wins := [(255, { getWin demo 255 with closing := some 0 })] } }
     (getWin s 255).closing = some 0 ∧ (getWin s 255).inflight = 0 ∧ (getWin s 255).old = []) ∧
    (let s : State := { demo with xlt := { demo.xlt with wins := [(255, { getWin demo 255 with inflight := 1, old := [(1, 0, some 4), (2, 3, none)] })] } }
     (getWin s 255).inflight ≠ 0 ∧ ((getWin s 255).old.filter fun o => o.2.1 == 0) = [(1, 0, some 4)]) ∧
    (∀ cmd ∈ [none, some 0], (getSpace (draining cmd) 0).draining = some (change0 cmd) ∧ tagDrained (draining cmd) 0 = true ∧
      shareInUse (draining cmd) 0 (change0 cmd) = false ∧
      runWaits (draining cmd) ((change0 cmd).freed.filter fun r => r.conf) = false ∧ (findCmd (draining cmd) 0).isSome = true) ∧
    (∀ x ∈ [drained 6 [0] [], drained 7 [] [0]], (getPad x 0).any (fun d => d.drain.any fun r => r.step == 6 && r.destroys.isEmpty || r.step == 7) = true) ∧ padUnshared (drained 7 [] [0]) 0 = true ∧
    (∀ x ∈ [(Residence.movingIn, none), (.movingIn, some 0), (.movingOut, none)],
      let s := moving x.1 x.2
      (movingExt s 0 7 1).any (fun y => y.1 == ext0 true false && y.2.res == x.1 && y.2.cmd == x.2) = true ∧ s.hosts[padPort s 0].up = true ∧
      refetching s false 201 = false ∧ granWaits s false 201 = false ∧ markPending s false 201 = false) ∧
    (∀ x ∈ [SeqState.swapping, .copyIn], slotSeq (swapping x) 0 1023 = some (seq0 x) ∧ seqPairs (seq0 x) = []) := by decide +kernel

def gran0 : MarkedGran := { half := true, gran := 300, ctx := 0, skip := false }

/-- A mark of generation 0 with the granules that are left. -/
def marking (pending : List MarkedGran) : State :=
  { demo with snaps := { demo.snaps with mark := some { gen := 0, cmd := some 0, beat := 5, pending := pending, wanted := [(true, 300)], bytes := 0 } } }

/-- Target 0 is connected and a stream of generation 0 has its image. -/
def streaming (cont due : Bool) : State :=
  { marked with links := { demo.links with tgts := [(0, { Target.reset with connect := true, state := 2 })] },
                snaps := { marked.snaps with streams := [{ gen := 0, p := stream0 cont 0, cmd := some 0, second := false, active := true, due := due }] } }

def restart0 (ended : Bool) : Restart :=
  { number := 1, written := 0, missed := 0, resumed := 0, notRes := 0, toResume := [0], ended := ended, us := 0, silent := false }

def resume0 (table : Option W64) : Resume :=
  { pad := 0, pipe := table.map fun a => (a, 0, none, 0), seqs := [], batches := [], nextSeq := 1, resumes := 0, log := [] }

/-- Paddock 0 is about to resume from generation 0, with its record if there is one. -/
def resuming (ended : Bool) (r : List Resume) : State :=
  { demo with pads := [(0, { pad0 with resuming := true })],
              snaps := { marked.snaps with restart := some (restart0 ended), gens := marked.snaps.gens.set 0 { marked.snaps.gens[0] with records := r } } }

def resumes (r : Resume) : Bool :=
  (resumePipe 0 r (restoreGrans 0 (· == 0) (resumeServing 0 r (resumeMade 0 0 (clearMixer 0 (resuming true [r])))))).2

theorem witness_snapshots :
    (∃ m, (marking []).snaps.mark = some m ∧ m.pending = []) ∧
    (∃ m, (marking [gran0]).snaps.mark = some m ∧ m.wanted.contains (true, 300) = true ∧ (m.pending.filter fun x => x.half == true && x.gran == 300) = [gran0] ∧
      granWaits (marking [gran0]) true 300 = false) ∧
    (∀ cont due : Bool, let s := streaming cont due
      (s.snaps.streams.findIdx? fun x => x.active && x.gen == 0 && (getTgt s x.p.target.toNat).state == 2 && !armWaits s x.p) = some 0) ∧
    (resuming false []).snaps.restart = some (restart0 false) ∧ restartWaits (resuming false []) = false ∧
    (resuming true []).snaps.restart = some (restart0 true) ∧ (restart0 true).toResume.contains 0 = true ∧ currentGen (resuming true []) = some 0 ∧
    (∀ l ∈ [[], [resume0 none]], gransWait (resuming true l) (restoreDue (resuming true l) 0 (· == 0)) = false) ∧
    resumes (resume0 none) = true ∧ resumes (resume0 (some 0)) = false := by
  refine ⟨⟨_, rfl, by decide⟩, ⟨_, rfl, by decide, by decide, by decide⟩, by decide +kernel, by decide, by decide +kernel, by decide, by decide, by decide, by decide +kernel, ?_, ?_⟩ <;> decide +kernel

/-! ## Transfers and packets -/

def withCrc (bs : List Byte) : List Byte := bs ++ leBytes 4 (crc crc32c bs)

/-- A post-only dray descriptor, and one with a byte that no field has. -/
def drayBytes (good : Bool) : List Byte :=
  withCrc ([3, 0, 0, if good then 0 else 1] ++ List.replicate 20 0 ++ [16] ++ List.replicate 15 0 ++ [255, 255, 255, 255] ++ List.replicate 16 0)

def drayQ0 : DrayQ :=
  { pad := 0, next := 0, skip := none,
    cfg := { dray := 0, die := 0, queue := 0, log2size := 4, rspace := false, kick := 1, cpost := 0, aspace := 0, rbase := 0 } }

/-- A dray queue whose KICK is post 1, over the commons that holds bytes at 0. -/
def kicked (bytes : List Byte) : State :=
  { demo with pads := [(0, { pad0 with commons := 1 })], posts := { demo.posts with cnt := [(41, 1)] }, mem := { demo.mem with commons := mwrites [] 0 bytes },
              drays := { demo.drays with queues := [(0, drayQ0)] } }

def drayRead0 (good : Bool) : Option (Option SkipReason) :=
  let s := kicked (drayBytes good)
  match engineRead (ringEng s 0 0 (drayLook 0 0) false) 1 0 0 0 64 false s with
  | .done t bs _ ref => some (readReason (updHandle 0 0 false 1 [] [] (countRefusal 0 ref false (gallop t))) 0 0 (parseDesc bs))
  | _ => none

def xfer0 (op : BitVec 4) (len : W32) : Xfer :=
  { id := 0, src := .queue 0 0 0, pad := 0, tag := 0, epoch := 0, desc := { copyDesc with op := op, dspace := if op = 3 then 0 else 1, len := len }, die := 0, landed := 0,
    waited := true, started := true, dropped := false, stopped := false, dgone := false, sgone := false, refused := false }

def landing (x : Xfer) : State := { kicked [] with drays := { (kicked []).drays with xfers := [x] } }

/-- How many bytes of the fill have landed once n have come. -/
def landed0 (x : Xfer) (n : Nat) : Option Nat :=
  let s0 := startDue x (landing x)
  (findXfer (landXfer (descRows x.desc + n / 1024 + 2) 0 (min (x.landed + n) (descTotal x.desc)) (xferEcc x .clean s0)) 0).map fun z => z.landed

theorem witness_drays :
    getQueue (kicked []) (queueKey 0 0 0) ≠ none ∧ queueStopped (kicked []) 0 = false ∧ handlePost (kicked []) 0 1 = some 41 ∧ 1 ≤ (postValue (kicked []) 41).toNat ∧
    (kicked []).drays.xfers = [] ∧ drayRead0 true = some none ∧ drayRead0 false = some (some .field) ∧
    (∀ x ∈ [xfer0 3 16, xfer0 2 2048], findXfer (startDue x (landing x)) 0 = some x) ∧ xfersBefore (startDue (xfer0 3 16) (landing (xfer0 3 16))) (xfer0 3 16) = [] ∧
    (let x := xfer0 2 2048
     turnFor (startDue x (landing x)) x = some 65536 ∧
     (let y : Xfer := { x with id := 1, src := .queue 0 0 1, started := true }
      let s := landing { x with started := true }
      let s : State := { s with drays := { s.drays with xfers := s.drays.xfers ++ [y], turns := [(x.dray, (1, 65536))] } }
      turnFor s { x with started := true } = none)) ∧
    landed0 (xfer0 2 2048) 1024 = some 1024 ∧ landed0 (xfer0 2 2048) 2048 = some 2048 := by decide +kernel

/-- A send descriptor for port 17. -/
def sendBytes (op : Byte) (anchor : Byte) : List Byte :=
  withCrc ([op, 17, 0, 0, 0, 0, anchor, 0] ++ List.replicate 16 0 ++ [16, 0, 0, 0, 255, 255, 255, 255] ++ List.replicate 28 0)

/-- Send queue 31 of the east half, with port 17 as given. -/
def sending (x : Port) (bytes : List Byte) : State :=
  setPort 17 x { kicked bytes with links := { demo.links with sqs := [(31, { SendQ.reset with enable := true, kick := 1, ports := 0x20000 })] } }

def sendRead0 (x : Port) (bytes : List Byte) : Option (Bool × Option Nat × Bool) :=
  let s := sending x bytes
  let g (t : State) : Eng := ringEng t 0 0 (windowLook 8) true
  match engineRead (g s) 1 0 0 0 64 false s with
  | .done t bs _ _ =>
    let d := parseSend bs
    let h := rangeHold (g t) false false d.laddr.toNat d.len.toNat t
    some (sendFieldBad t (getSq s 31) 0 d, sendReason t (getSq s 31) 0 d, !h.2 && decide (d.len.toNat ≤ (drawEgress (d.len.toNat + 1) 0 d.len.toNat (getSq s 31).drawn h.1).2))
  | _ => none

def op0 (op : BitVec 4) : SendOp :=
  { id := 0, queue := 31, slot := 0, pad := 0, tag := 0, epoch := 0, desc := { parseSend (sendBytes 0 0) with op := op, len := 16, port := 17 }, done := 0, landed := [],
    refused := false }

def withOp (o : SendOp) : State := { sending (upPort 0) [] with links := { (sending (upPort 0) []).links with ops := [o] } }

def withTgt (x : Target) : State := setPort 17 (upPort 1) { demo with links := { demo.links with tgts := [(15, x)] } }

theorem witness_sends :
    (let s := sending (upPort 0) []
     halfIn s (31 / 32) = true ∧ (getSq s 31).enable = true ∧ queueStopped s 0 = false ∧ admissionStalled s 0 = false ∧ handlePost s 0 (getSq s 31).kick = some 41 ∧
     s.links.ops = [] ∧ (getPort s 17).recovering = false) ∧
    sendRead0 (upPort 0) (sendBytes 5 1) = some (true, some 1, true) ∧ sendRead0 Port.reset (sendBytes 5 0) = some (false, some 2, true) ∧
    sendRead0 (upPort 0) (sendBytes 5 0) = some (false, none, true) ∧ sendRead0 (upPort 0) (sendBytes 0 0) = some (false, none, true) ∧
    (∀ op ∈ ([0, 5, 6, 7] : List (BitVec 4)), findOp (withOp (op0 op)) 0 = some (op0 op) ∧ (getPort (withOp (op0 op)) 17).state = .up) ∧
    isStore (op0 6).desc = true ∧ isStore (op0 7).desc = true ∧ isStore (op0 0).desc = false ∧ min 5 ((op0 0).desc.len.toNat - (op0 0).done) ≠ 0 ∧
    (let s := withTgt { Target.reset with connect := true, state := 1, port := 17, halved := true }
     (getTgt s 15).state = 1 ∧ (getTgt s 15).connect = true ∧ (getPort s 17).state = .up ∧ (getPort s 17).mode ≠ 0 ∧ (getTgt s 15).halved = true) := by decide +kernel

/-- Window 0 open with every right, over the extent at VA 0 of tag 0; port 35 up. -/
def windowed (mode : BitVec 2) : State :=
  let s := withExt (ext0 false false)
  let s : State := { s with stk := { s.stk with hold := 0 }, mem := { s.mem with tozero := [] } }
  setPort 35 (upPort mode) { s with xlt := { s.xlt with wins := [(0, { getWin s 0 with given := true, pad := 0, isOpen := true, entry := { win0 with win := 0 }, wgen := 1 })] } }

theorem witness_packets_received :
    (let s := windowed 0
     portLive s 35 = true ∧ (getPort s 35).state = .up ∧ (getPort s 35).mode = 0 ∧ restarting s = false ∧
     (let u := gallop (setPort 35 { getPort s 35 with traffic := 10 } s)
      windowPasses u .write (hdr 2) 2 = true ∧ windowPasses u .read (hdr 2) 2 = true ∧ windowPasses u .post (hdr 0) 0 = true ∧ windowPasses u .add (hdr 4) 4 = true ∧
      windowPasses u .write { hdr 2 with wgen := 2 } 2 = false ∧ windowPasses u .read { hdr 2 with rpost := 2 } 2 = false ∧
      windowPasses u .add { hdr 4 with offset := 0xFFFFFFFFFFFFFFFC } 4 = false ∧
      (let g := windowEng (getWin u 0) 35 0 (getSpace u 0).epoch
       (∀ w, (rangeHold g false w 0 2 u).2 = false) ∧ rangePoison u g false 0 2 = .clean ∧
       (∀ w, (rangeHold g false w 0 2 { u with stk := { u.stk with hold := 0xFFFF } }).2 = true) ∧ elementRuns 0 1 = [(0, 0, 1)] ∧
       (reach u (tableSeen u g.look g.tag g.epoch) g.pad g.tag false true 0).any (fun e => !e.1.migr) = true))) ∧
    (let o : SendOp := { op0 1 with desc := { (op0 1).desc with port := 35, len := 16 } }
     (([o].find? fun o => o.desc.op == 1 && o.desc.port.toNat == 35 && o.id % 65536 == (hdr 16).rtag.toNat / 65536) = some o) ∧
     ((packets o.desc)[0]?).isSome = true ∧ o.landed.contains 0 = false) ∧ (windowed 0).links.ops = [] ∧ (getPort (windowed 1) 35).mode ≠ 0 ∧
    (let s := setPort 17 (upPort 1) (withTgt { Target.reset with connect := true, state := 2, port := 17 })
     (getTgt s 15).port.toNat = 17 ∧ (getTgt s 15).state = 2) := by decide +kernel

/-! ## Stacks, dies, sessions -/

def standIn0 (pc : Option (Fin 64)) : StandIn := { stack := 15, pc := pc, span := none, failed := false }

def stacked (x : Stack) : State := setStk 15 x demo

theorem witness_stacks :
    stackLive demo 15 = true ∧ demo.stk.hold.getLsbD 15 = false ∧ (63 ≠ 0 ∨ 63 ≠ 0 ∨ 24575 ≠ 0 ∨ 15 ≠ 0) ∧
    (let s : State := { demo with stk := { demo.stk with installing := [standIn0 none] } }
     let u := stackEcc true (rowAddr 15 63 63 24575 15) .uncorrectable s
     secondCopy u true (rowAddr 15 63 63 24575 15 / granBytes) = none ∧ covered u true (rowAddr 15 63 63 24575 15 / 1024) = false) ∧
    (let s : State := { marked with snaps := { marked.snaps with gens := marked.snaps.gens.set 0 { marked.snaps.gens[0] with grans := [{ half := false, gran := 200, ctx := 0, skip := false }] } },
                                    xlt := (withExt (ext0 false false)).xlt }
     secondCopy s false 200 = some (false, genAddr 0 (granBytes * 200), true)) ∧
    (let s : State := { demo with stk := { demo.stk with installing := [standIn0 none], refetch := [(true, 300, false, false)] } }
     (s.stk.installing.find? fun x => x.stack == 15) = some (standIn0 none) ∧ ({ standIn0 none with failed := true } : StandIn).failed = true ∧
     (s.stk.refetch.find? fun r => r.1 == true && r.2.1 == 300) = some (true, 300, false, false) ∧ secondCopy s true 300 = none) ∧
    (∀ n ∈ [0, 2], (getStk (stacked { getStk demo 15 with present := true, failed := n }) 15).failed = n ∧ (getStk demo 15).present = true) ∧
    (let x := getStk demo 15
     tempRow (84 : Byte).toNat = tempNow x ∧ x.failed < 3 ∧ (setTempRow (tempNow x) { x with failed := 0, temp := 84 }).throttle = x.throttle) ∧
    (demo.stk.standing ++ demo.stk.installing) = [] ∧ (∀ pc ∈ ([none, some 63] : List (Option (Fin 64))), let x : StandIn := { standIn0 pc with failed := true }
      ((startStandIn x demo).stk.installing.contains x = true ∧
       ((({ demo with stk := { demo.stk with standing := [standIn0 none] } } : State).stk.standing ++ demo.stk.installing).any fun y => x.inside y) = true)) ∧
    (let x : StandIn := standIn0 none
     covered { demo with stk := { demo.stk with standing := [x] } } true (rowAddr 15 63 63 24575 15 / 1024) = true) ∧
    (let s : State := { demo with loft := { demo.loft with retire := some (7, 31), retireDue := [] } }
     s.loft.retire = some (7, 31) ∧ spareDie s 7 = some 7) := by decide +kernel

/-- A whole stack's stand-in does not fit an empty reserve. -/
theorem witness_standin : (let s : State := { demo with stk := { demo.stk with standinCur := Vector.replicate 2 0 } }
    (∀ pc ∈ ([none, some 0] : List (Option (Fin 64))), let x : StandIn := { standIn0 pc with failed := true }
      (startStandIn x s).stk.installing.contains x = false)) := by decide +kernel

/-- Die 7 as given. -/
def died (x : DiePwr) : State := modDie 7 (fun _ => x) demo

theorem witness_dies :
    halfIn demo (7 / 4) = true ∧ (demo.pwr.dies[7]).thermal = .none ∧ ((died { DiePwr.reset with thermal := .step }).pwr.dies[7]).thermal = .step ∧
    (94 : Byte).toNat < 95 ∧ 95 ≤ (104 : Byte).toNat ∧ (104 : Byte).toNat < 105 ∧ 92 < (93 : Byte).toNat ∧
    ((died { DiePwr.reset with droop := 0x10 }).pwr.dies[7]).droop.getLsbD 4 = true ∧ -20 < (demo.pwr.dies[7]).pendTrim[3] ∧ (demo.pwr.dies[7]).pendTrim[3] < 20 ∧
    (let x := (died { DiePwr.reset with trim := Vector.replicate 4 20, pendTrim := Vector.replicate 4 20, ceil := 600 }).pwr.dies[7]
     20 ≤ x.pendTrim[3] ∧ 20 ≤ x.trim[3] ∧ 500 < x.ceil.toNat) ∧
    demo.pwr.state = .gallop ∧ idle { demo with cores := [] } = true ∧ demo.pwr.target = none ∧
    (∀ x ∈ [PwrState.trot, .gallop], ({ demo with pwr := { demo.pwr with target := some (x, 0), exiting := true } } : State).pwr.target = some (x, 0)) ∧
    ({ demo with pwr := { demo.pwr with exiting := true } } : State).pwr.exiting = true := by decide +kernel

def manager : Endpoint := .func mgr

/-- The manager's connection at the given stage, with a session open or in its handshake. -/
def connected (n : Fin 4) (isOpen : Bool) : State :=
  { demo with sec := { demo.sec with conns := [{ ep := manager, stage := n }], sessions := [{ id := 7, ep := manager, isOpen := isOpen, secret := 0, epoch := 0 }] } }

theorem witness_sessions :
    endpointUp demo manager = true ∧ endpointUp demo .sideband = true ∧ (∀ n : Fin 4, connStage (connected n true) manager = n) ∧
    (0 : W16).toNat ≤ (certChain demo).length ∧ (measurementValue demo manager 4).isSome = true ∧ (connected 3 true).sec.sessions.length < 64 ∧
    64 ≤ ({ demo with sec := { demo.sec with sessions := List.replicate 64 { id := 7, ep := manager, isOpen := true, secret := 0, epoch := 0 } } } : State).sec.sessions.length ∧
    (∀ o : Bool, (findSession (connected 3 o) 7).any (fun x => x.ep == manager && x.isOpen == o) = true) ∧ demo.pins.pwrOk = true ∧ anyConf demo = false ∧
    demo.sec.dbgopen = false ∧ connStage { demo with sec := { demo.sec with conns := [{ ep := .sideband, stage := 1 }] } } .sideband = 1 ∧
    anyConf { demo with pads := [(0, { pad0 with conf := some { session := 0, bounce := 0, pages := 2, keyH2d := 0, keyD2h := 0, ctrD2h := 1, ctrH2d := 0, authfail := 0, viewed := none } })] } =
      true := by decide +kernel

/-! ## One step each, with results that the rules give -/

def outcome (o : Host.Outcome State Fault Refusal) : State := match o with | .next t => t | _ => State.reset

/-- A step of demo's team with this word. -/
def ran (f : Issue → IWord → Instr) (w : IWord) (s : State) : State := outcome (exec (f issue0 w) s)

def regOf (s : State) (lane r : Nat) : W32 := readG (getTeam0 s) lane r

/-- 0x100 + 0xFFFFFFFF = 0xFF (R101); g255 discards a result (R75). -/
theorem test_int_add_wraps : regOf (ran .intAdd (word 5 266 320 0 0xFFFFFFFF) demo) 31 5 = 0xFF ∧ regOf (ran .intAdd (word 5 266 320 0 0xFFFFFFFF) demo) 31 6 = 0 ∧
    regOf (ran .intAdd (word 255 266 320 0 1) demo) 0 255 = 0 := by decide +kernel

/-- A shift by 33 is a shift by 1 (R101). -/
theorem test_int_shl : regOf (ran .intShl (word 5 266 320 0 33) demo) 0 5 = 0x200 := by decide +kernel

/-- 1.0 + 1.0 = 2.0 in FP32 (R102). -/
theorem test_flt_add : regOf (ran .fltAdd { word 5 320 320 0 0x3F800000 with fmt := 1 } demo) 0 5 = 0x40000000 := by decide +kernel

/-- 1.0 ÷ 0 is infinity; 0 ÷ 0 is the canonical NaN and sets NV (R57, R102). -/
theorem test_flt_div : regOf (ran .fltDiv { word 5 320 320 0 0 with fmt := 1 } demo) 0 5 = 0x7FC00000 ∧
    (getTeam0 (ran .fltDiv { word 5 320 320 0 0 with fmt := 1 } demo)).flags.nv = true := by decide +kernel

/-- −1.0 as a signed integer is −1, as an unsigned one 0 with NV (R105). -/
theorem test_f2i : regOf (ran .cvtF2i { word 5 320 0 0 0xBF800000 with fmt := 1 } demo) 0 5 = 0xFFFFFFFF ∧
    regOf (ran .cvtF2i { word 5 320 0 0 0xBF800000 with fmt := 1, ext := 0x400 } demo) 0 5 = 0 ∧
    (getTeam0 (ran .cvtF2i { word 5 320 0 0 0xBF800000 with fmt := 1, ext := 0x400 } demo)).flags.nv = true := by decide +kernel

/-- 0x100 < 0x101 and not 0x100 < 0x100 (R101). -/
theorem test_cmp : readP (getTeam0 (ran .intCmp { cmpWord 2 with srcA := 266, srcB := 320, imm := 0x101 } demo)) 7 1 = true ∧
    readP (getTeam0 (ran .intCmp { cmpWord 2 with srcA := 266, srcB := 320, imm := 0x100 } demo)) 7 1 = false := by decide +kernel

/-- jmp 5 goes 80 bytes ahead (R108), and an instruction that is no branch 16 (R83). -/
theorem test_jmp : pcOf (getTeam0 (ran .jmp (word 0 0 0 0 5) demo)) 9 = some 80 ∧ pcOf (getTeam0 (ran .nop (word 0 0 0 0 0) demo)) 9 = some 16 := by decide +kernel

/-- A store of 0x100 to the local store's last word, least significant byte first (R94, R114). -/
theorem test_store : (getBlock (ran .st (memWord 0 2 266 65532 8) demo) 0 0).any (fun b => mread b.loc 65533 == 1 && mread b.loc 65532 == 0) = true := by decide +kernel

/-- A trap squashes the job (R108, R121). -/
theorem test_trap : (getBlock (ran .trap (word 0 0 0 0 9) demo) 0 0).isNone = true := by decide +kernel

/-- Two tiles are granted, the lowest (R126). -/
theorem test_harness_open : (getTeam0 (ran .harnessOpen (word 0 0 0 0 2) demo)).harness = some [0, 1] := by decide +kernel

/-- A set of paddock post 1 sets device post 41 (R383, R395). -/
theorem test_post_set : postValue (outcome (exec (.postSet hdr0 1 7) ringed)) 41 = 7 := by decide +kernel

/-- P48V out of range ends every block (R29). -/
theorem test_input_range : (outcome (exec .inputRange demo)).cores = [] ∧ (outcome (exec .inputRange demo)).pads = [] := by decide +kernel

/-- A notice seen before is dropped and counted (R344). -/
theorem test_late : ((outcome (exec (.lateReceived 35 (late0 4 1)) (setPort 35 (upPort 0) (withBeat { demo.beat with groups := [lateGroup] })))).beat.groups.map
    fun g => g.drops) = [1] := by decide +kernel
end Sys2Proof.Tests
end

section
/-! PROOFS. The register window: which register an access names, what its reads return and its writes leave (R7, R8, R347, R558 to R564), and the obligations
on register accesses and on the Reset columns (R6). -/

namespace Sys2Proof.Machine

/-! ## Which register an access names -/

/-- An offset that is not aligned, or lies past BAR0, names no register (R558, R559). -/
theorem blockAt_outside {s : State} {a : Accessor} {offset : Nat} (h : offset % 4 ≠ 0 ∨ 16777216 ≤ offset) : blockAt s a offset = none := by
  unfold blockAt
  rw [if_pos (by simpa using h)]

/-- A physical function reaches every register of a block that answers. -/
theorem blockAt_physical {s : State} {f : Func} {offset blk off : Nat} (hf : f.vf.val = 0) (ho : offset % 4 = 0) (hm : offset < 16777216)
    (hblk : offset / 1048576 = blk) (hoff : offset % 1048576 = off) (hb : blockAnswers s blk = true) : blockAt s (.func f) offset = some (blk, off) := by
  subst hblk hoff
  simp [blockAt, hf, ho, hm, hb]

/-- A physical function reaches nothing of a block that does not answer (R560). -/
theorem blockAt_physical_silent {s : State} {f : Func} {offset blk : Nat} (hf : f.vf.val = 0) (hblk : offset / 1048576 = blk)
    (hb : blockAnswers s blk = false) : blockAt s (.func f) offset = none := by
  subst hblk
  simp [blockAt, hf, hb]

theorem windowRead_outside {s : State} {a : Accessor} {offset : Nat} (h : blockAt s a offset = none) : windowRead a offset s = (s, 0) := by
  rw [windowRead, h]

theorem windowRead_word {s : State} {a : Accessor} {offset blk off : Nat} (h : blockAt s a offset = some (blk, off)) (hp : pairAt blk off = none) :
    windowRead a offset s = (s, BitVec.ofNat 32 (readWord s a blk off)) := by
  simp only [windowRead, h, hp]

theorem windowRead_pair {s : State} {a : Accessor} {offset blk off : Nat} {p : Pair} {hi : Bool} (h : blockAt s a offset = some (blk, off))
    (hp : pairAt blk off = some (p, hi)) : windowRead a offset s = if hi then readHi a p s else readLo a p s := by
  simp only [windowRead, h, hp]

theorem windowWrite_outside {s : State} {a : Accessor} {offset : Nat} (v : W32) (h : blockAt s a offset = none) : windowWrite a offset v s = s := by
  rw [windowWrite, h]

theorem windowWrite_word {s : State} {a : Accessor} {offset blk off : Nat} (v : W32) (h : blockAt s a offset = some (blk, off)) :
    windowWrite a offset v s = writeWord a blk off v.toNat s := by
  rw [windowWrite, h]

/-! ## Pairs (R347) -/

/-- Bits 63:32 fit in a register. -/
theorem highWord_toNat (v : W64) : (BitVec.ofNat 32 (v.toNat / 2 ^ 32)).toNat = v.toNat / 2 ^ 32 := by
  rw [BitVec.toNat_ofNat, Nat.mod_eq_of_lt]
  have := v.isLt
  omega

/-- A look at RT moves the time on and no latch. -/
@[simp] theorem usePair_latches (p : Pair) (s : State) : (usePair p s).latches = s.latches := by cases p <;> rfl

@[simp] theorem readLo_latches (a : Accessor) (p : Pair) (s : State) : (readLo a p s).1.latches =
    (a, p, BitVec.ofNat 32 ((pairValue s a p).toNat / 2 ^ 32)) :: s.latches.filter fun x => !isLatch a p x := usePair_latches ..

@[simp] theorem readLo_value (a : Accessor) (p : Pair) (s : State) : (readLo a p s).2.toNat = (pairValue s a p).toNat % 2 ^ 32 := BitVec.toNat_ofNat ..

/-- A HI read takes the latch that stands. -/
theorem readHi_latched {a : Accessor} {p : Pair} {s : State} {x : Accessor × Pair × W32} (h : s.latches.find? (isLatch a p) = some x) :
    readHi a p s = ({ s with latches := s.latches.filter fun x => !isLatch a p x }, x.2.2) := by
  simp only [readHi, h]

/-- With no latch a HI read returns the live word. -/
theorem readHi_live {a : Accessor} {p : Pair} {s : State} (h : s.latches.find? (isLatch a p) = none) :
    readHi a p s = (usePair p s, BitVec.ofNat 32 ((pairValue s a p).toNat / 2 ^ 32)) := by
  simp only [readHi, h]

theorem pairRead_seen {f : Accessor → Pair → State → State × W32} {a : Accessor} {p : Pair} {s : State} (hu : accessorUp s a = true)
    (hp : pairSeen s a p = true) : pairRead f a p s = replyWord (f a p s) := by
  simp [pairRead, hu, hp]

@[simp] theorem leaves_reply (s t : State) : (leaves s t).reply = t.reply := rfl

@[simp] theorem leaves_latches (s t : State) : (leaves s t).latches = t.latches := rfl

@[simp] theorem replyWord_reply (r : State × W32) : (replyWord r).reply = leBytes 4 r.2.toNat := rfl

@[simp] theorem replyWord_latches (r : State × W32) : (replyWord r).latches = r.1.latches := rfl

/-! ## The rows of accesses -/

section
variable {s : State} (hs : s.pins.p48vOk = true)
include hs

theorem exec_pairLoRead {a : Accessor} {p : Pair} (hu : accessorUp s a = true) (hp : pairSeen s a p = true) :
    exec (.pairLoRead a p) s = .next (leaves s (replyWord (readLo a p s))) := by
  rw [← pairRead_seen hu hp]
  exact answer_leaves _ _ hs

theorem exec_pairHiRead {a : Accessor} {p : Pair} (hu : accessorUp s a = true) (hp : pairSeen s a p = true) :
    exec (.pairHiRead a p) s = .next (leaves s (replyWord (readHi a p s))) := by
  rw [← pairRead_seen hu hp]
  exact answer_leaves _ _ hs

theorem exec_regRead (pecOk : Bool) (offset : W32) (reached : Bool) :
    exec (.regRead pecOk offset reached) s = .next (leaves s (sidebandRead pecOk offset reached s)) := answer_leaves _ _ hs

theorem exec_regWrite (pecOk : Bool) (offset value : W32) (reached : Bool) :
    exec (.regWrite pecOk offset value reached) s = .next (leaves s (finish (sidebandWrite pecOk offset value reached s))) := answer_leaves _ _ hs

theorem exec_sbStatus : exec .sbStatus s = .next (leaves s (withReply (leBytes 2 (sbStatusWord s)) s)) := by
  have h : ifLodge (withReply (leBytes 2 (sbStatusWord s))) s = withReply (leBytes 2 (sbStatusWord s)) s := if_pos hs
  rw [← h]
  exact answer_leaves _ _ hs

theorem exec_alertResponse_low (h : alertLow s = true) : exec .alertResponse s = .next (leaves s (withReply [BitVec.ofNat 8 (sbAddress s)] s)) := by
  have e : ifLodge (fun s => if alertLow s then withReply [BitVec.ofNat 8 (sbAddress s)] s else s) s = withReply [BitVec.ofNat 8 (sbAddress s)] s := by
    simp only [ifLodge, hs, h, if_true]
  rw [← e]
  exact answer_leaves _ _ hs

theorem exec_registerWrite {a : Accessor} (hu : accessorUp s a = true) (offset value : W32) :
    exec (.registerWrite a offset value) s = .next (leaves s (finish (windowWrite a offset.toNat value s))) := by
  have e : (if accessorUp s a then finish (windowWrite a offset.toNat value s) else s) = finish (windowWrite a offset.toNat value s) := if_pos hu
  rw [← e]
  exact answer_leaves _ _ hs

/-- A read over the sideband that reaches its register: byte count, STATUS 0 and the value (R561). -/
theorem sidebandRead_reached {offset : W32} {reached : Bool} (ho : offset.toNat % 4 = 0) (hl : lodgeReaches s offset.toNat reached = true) :
    sidebandRead true offset reached s =
      withReply (leBytes 1 5 ++ leBytes 1 0 ++ leBytes 4 (windowRead .sideband offset.toNat s).2.toNat) (windowRead .sideband offset.toNat s).1 := by
  simp [sidebandRead, hs, ho, hl]

/-- One that does not: STATUS 1 and zero (R561). -/
theorem sidebandRead_unreached {offset : W32} {reached : Bool} (ho : offset.toNat % 4 = 0) (hl : lodgeReaches s offset.toNat reached = false) :
    sidebandRead true offset reached s = withReply (leBytes 1 5 ++ leBytes 1 1 ++ leBytes 4 0) s := by
  simp [sidebandRead, hs, ho, hl]

theorem sidebandWrite_reached {offset : W32} {reached : Bool} (v : W32) (ho : offset.toNat % 4 = 0) (hl : lodgeReaches s offset.toNat reached = true) :
    sidebandWrite true offset v reached s = windowWrite .sideband offset.toNat v s := by
  simp [sidebandWrite, hs, ho, hl]

end

/-- While PWR_OK is high the Lodge reaches whatever the row says that it reached. -/
theorem lodgeReaches_reached {s : State} (h : s.pins.pwrOk = true) (offset : Nat) : lodgeReaches s offset true = true := by
  simp [lodgeReaches, h]

theorem sidebandRead_badPec (offset : W32) (reached : Bool) (s : State) : sidebandRead false offset reached s = s := rfl

theorem sidebandWrite_badPec (offset v : W32) (reached : Bool) (s : State) : sidebandWrite false offset v reached s = s := rfl

/-! ## W1C and locked fields (R7, R8) -/

theorem writeWord_beat (a : Accessor) (off v : Nat) (s : State) : writeWord a blkBeat off v s = writeBeat off v s := rfl

/-- A function's writes of the YM block go to its own ring. -/
theorem writeWord_ym {s : State} {f : Func} {r : Nat} (off v : Nat) (h : funcRing s f = some r) :
    writeWord (.func f) blkYm off v s = writeYm r (f.vf.val != 0) off v s := by
  simp only [writeWord, blkYm, h]

/-- BEAT's word 0x24: a 1 clears its bit of LOSSES, and SKIPPED in the lower half takes no write. -/
theorem writeBeat_losses (v : Nat) (s : State) :
    writeBeat 0x24 v s = { s with beat := { s.beat with losses := s.beat.losses &&& ~~~(BitVec.ofNat 16 (v / 65536)) } } := rfl

/-- The address of a ring's commands is locked while the ring is enabled. -/
theorem writeYm_cring_enabled {s : State} {r : Nat} (vf : Bool) (v : Nat) (h : (getRing s r).enable = true) : writeYm r vf 0x108 v s = s := by
  simp [writeYm, ringIdle, h]

/-- Settles O51: each row of an access answers through the window's read or write, and those go by the register that the offset names. -/
theorem registerAccess : Obligations.RegisterAccess := by
  unfold Obligations.RegisterAccess
  intro s hs
  refine ⟨?sideband, ?badPec, ⟨exec_sbStatus hs, ?alert⟩, ?write, ?outside, ?pair, ?w1c, ?locked⟩
  case sideband =>
    intro offset ho
    refine ⟨fun hp => ?_, fun hl => ?_, fun v hp => ?_⟩
    · rw [exec_regRead hs, sidebandRead_reached hs ho (lodgeReaches_reached hp _)]
    · rw [exec_regRead hs, sidebandRead_unreached hs ho hl]
    · rw [exec_regWrite hs, sidebandWrite_reached hs v ho (lodgeReaches_reached hp _)]
  case badPec =>
    intro offset v
    rw [exec_regRead hs, exec_regWrite hs, sidebandRead_badPec, sidebandWrite_badPec]
    exact ⟨rfl, rfl⟩
  case alert =>
    intro h
    exact exec_alertResponse_low hs (by simpa [alertLow] using h)
  case write =>
    intro a offset value hu
    exact exec_registerWrite hs hu offset value
  case outside =>
    intro a offset v h
    exact ⟨windowRead_outside (blockAt_outside h), windowWrite_outside v (blockAt_outside h)⟩
  case pair =>
    intro a p hu hp
    refine ⟨⟨_, exec_pairLoRead hs hu hp, ?_, ?_⟩, fun x hx => ⟨_, exec_pairHiRead hs hu hp, ?_, ?_⟩, fun hx => ⟨_, exec_pairHiRead hs hu hp, ?_⟩⟩
    · rw [leaves_reply, replyWord_reply, readLo_value]
    · rw [leaves_latches, replyWord_latches, readLo_latches]
    · rw [leaves_reply, replyWord_reply, readHi_latched hx]
    · rw [leaves_latches, replyWord_latches, readHi_latched hx]
    · rw [leaves_reply, replyWord_reply, readHi_live hx, highWord_toNat]
  case w1c =>
    intro v hb
    have hat : blockAt s (.func { port := 0, vf := 0 }) 0x300024 = some (blkBeat, 0x24) := blockAt_physical rfl rfl (by decide) rfl rfl hb
    rw [windowWrite_word v hat, writeWord_beat, writeBeat_losses]
  case locked =>
    intro v he
    cases hb : blockAnswers s blkYm with
    | false => exact windowWrite_outside v (blockAt_physical_silent rfl rfl hb)
    | true =>
      have hat : blockAt s (.func { port := 0, vf := 0 }) 0x100108 = some (blkYm, 0x108) := blockAt_physical rfl rfl (by decide) rfl rfl hb
      have hr : funcRing s { port := 0, vf := 0 } = some 0 := rfl
      rw [windowWrite_word v hat, writeWord_ym _ _ hr, writeYm_cring_enabled _ _ he]

/-! ## The Reset columns (R6) -/

/-- A read through the window of port P0 right after reset. -/
def resetRead (offset : Nat) : W32 := (windowRead (.func { port := 0, vf := 0 }) offset State.reset).2

/-- Every block answers right after reset. -/
theorem blockAt_reset {offset : Nat} (ho : offset % 4 = 0) (hm : offset < 16777216) :
    blockAt State.reset (.func { port := 0, vf := 0 }) offset = some (offset / 1048576, offset % 1048576) :=
  blockAt_physical rfl ho hm rfl rfl rfl

/-- A register that is no part of a pair. -/
theorem resetRead_word {offset : Nat} {v : W32} (hp : pairAt (offset / 1048576) (offset % 1048576) = none)
    (hv : BitVec.ofNat 32 (readWord State.reset (.func { port := 0, vf := 0 }) (offset / 1048576) (offset % 1048576)) = v)
    (ho : offset % 4 = 0 := by decide) (hm : offset < 16777216 := by decide) : resetRead offset = v := by
  rw [resetRead, windowRead_word (blockAt_reset ho hm) hp, hv]

/-- A LO register returns the low word of its pair. -/
theorem resetRead_lo {offset : Nat} {v : W32} (p : Pair) (hp : pairAt (offset / 1048576) (offset % 1048576) = some (p, false))
    (hv : BitVec.ofNat 32 (pairValue State.reset (.func { port := 0, vf := 0 }) p).toNat = v)
    (ho : offset % 4 = 0 := by decide) (hm : offset < 16777216 := by decide) : resetRead offset = v := by
  rw [resetRead, windowRead_pair (blockAt_reset ho hm) hp, if_neg Bool.false_ne_true]
  exact hv

/-- A HI register returns the high word of its pair, as no latch stands right after reset. -/
theorem resetRead_hi {offset : Nat} {v : W32} (p : Pair) (hp : pairAt (offset / 1048576) (offset % 1048576) = some (p, true))
    (hv : BitVec.ofNat 32 ((pairValue State.reset (.func { port := 0, vf := 0 }) p).toNat / 2 ^ 32) = v)
    (ho : offset % 4 = 0 := by decide) (hm : offset < 16777216 := by decide) : resetRead offset = v := by
  rw [resetRead, windowRead_pair (blockAt_reset ho hm) hp, if_pos rfl, readHi_live rfl, hv]

theorem resetRead_ym : resetRead 0x100000 = 0x000003E8 ∧ resetRead 0x100100 = 0x000C0600 :=
  ⟨resetRead_word rfl rfl, resetRead_word rfl rfl⟩

theorem resetRead_fq : resetRead 0x200000 = 0x000A0001 := resetRead_word rfl rfl

/-- BEAT, with the pair of the beat number. -/
theorem resetRead_beat : resetRead 0x300000 = 0 ∧ resetRead 0x300004 = 0 ∧ resetRead 0x300008 = 0 ∧ resetRead 0x30000C = 0xA ∧
    resetRead 0x300020 = 0 ∧ resetRead 0x300024 = 0 ∧ resetRead 0x300100 = 0 :=
  ⟨resetRead_word rfl rfl, resetRead_lo .beatNow rfl rfl, resetRead_hi .beatNow rfl rfl,
    resetRead_word rfl rfl, resetRead_word rfl rfl, resetRead_word rfl rfl, resetRead_word rfl rfl⟩

theorem resetRead_pwr : resetRead 0x400000 = 0 ∧ resetRead 0x400004 = 0x0ED80ED8 ∧ resetRead 0x40000C = 0x4B0 :=
  ⟨resetRead_word rfl rfl, resetRead_word rfl rfl, resetRead_word rfl rfl⟩

/-- CNT, with the pair of its first counter. -/
theorem resetRead_cnt : resetRead 0x500000 = 0 ∧ resetRead 0x508000 = 0 :=
  ⟨resetRead_lo (.cntLive 0) rfl rfl, resetRead_word rfl rfl⟩

theorem resetRead_loft : resetRead 0xA00800 = 0 ∧ resetRead 0xA00804 = 0x7 ∧ resetRead 0xA01000 = 0 :=
  ⟨resetRead_word rfl rfl, resetRead_word rfl rfl, resetRead_word rfl rfl⟩

theorem resetRead_xlt : resetRead 0xB00000 = 0 ∧ resetRead 0xB02000 = 0 ∧ resetRead 0xB03000 = 0x3E8 :=
  ⟨resetRead_word rfl rfl, resetRead_word rfl rfl, resetRead_word rfl rfl⟩

theorem resetRead_stk : resetRead 0xC00100 = 0 ∧ resetRead 0xC00300 = 0 ∧ resetRead 0xC00400 = 0x218 ∧ resetRead 0xC00404 = 0 ∧
    resetRead 0xC00408 = 0 ∧ resetRead 0xC0040C = 0 :=
  ⟨resetRead_word rfl rfl, resetRead_word rfl rfl, resetRead_word rfl rfl, resetRead_word rfl rfl,
    resetRead_word rfl rfl, resetRead_word rfl rfl⟩

theorem resetRead_res : resetRead 0xE00700 = 0x10100040 := resetRead_word rfl rfl

/-- Settles O50: the blocks' Reset columns one by one; input power is a field of the reset state. -/
theorem resetState : Obligations.ResetState := by
  unfold Obligations.ResetState
  obtain ⟨ym0, ym100⟩ := resetRead_ym
  obtain ⟨beat0, beat4, beat8, beatC, beat20, beat24, beat100⟩ := resetRead_beat
  obtain ⟨pwr0, pwr4, pwrC⟩ := resetRead_pwr
  obtain ⟨cnt0, cnt8000⟩ := resetRead_cnt
  obtain ⟨loft800, loft804, loft1000⟩ := resetRead_loft
  obtain ⟨xlt0, xlt2000, xlt3000⟩ := resetRead_xlt
  obtain ⟨stk100, stk300, stk400, stk404, stk408, stk40C⟩ := resetRead_stk
  have hpower : State.reset.pins.p48vOk = true := rfl
  exact ⟨⟨ym0, ym100, resetRead_fq, beat0, beat4, beat8, beatC, beat20, beat24, beat100, pwr0, pwr4, pwrC, cnt0, cnt8000, loft800, loft804, loft1000,
    xlt0, xlt2000, xlt3000, stk100, stk300, stk400, stk404, stk408, stk40C, resetRead_res⟩, .inl hpower⟩

end Sys2Proof.Machine
end

section
/-! PROOFS. The queue, the pins and input power (R27 to R29, R39, R538): which command drives which pin, what a command does without input power, and the
invariant that the module has input power or is powered off. -/

namespace Sys2Proof.Machine

/-- The command is an event on a pin, which happens without input power too (log 39). -/
def onPin (c : Instr) : Bool :=
  match c with
  | .pwrEnRise _ | .inputRange | .p48vInRange | .buttonPress | .buttonRelease => true
  | .cagePresEdge _ _ | .perstAssert _ | .perstDeassert _ _ => true
  | _ => false

/-- The pins as the outside drives them once the command has come: an event on a pin changes its own pin, every other command none. -/
def drivenPins (c : Instr) (s : State) : Pins :=
  match c with
  | .pwrEnRise _ => (pwrEnHigh s).pins
  | .inputRange => { s.pins with p48vOk := false }
  | .p48vInRange => { s.pins with p48vOk := true }
  | .cagePresEdge p low => (cageEdge p low s).pins
  | .perstAssert h => (perstLow h true s).pins
  | .perstDeassert h _ => (perstLow h false s).pins
  | _ => s.pins

variable {c : Instr} {s t : State}

/-- An event on a pin leaves that pin as its row says, with power or without. -/
theorem exec_onPin (h : onPin c = true) : ∃ t, exec c s = pinAnswer (drivenPins c s) s t := by
  cases c
  case pwrEnRise | inputRange | p48vInRange | buttonPress | buttonRelease | cagePresEdge | perstAssert | perstDeassert => exact ⟨_, rfl⟩
  all_goals cases h

/-- Every other command answers through `answer`, but for a scan that reaches an instrument while debug is open. -/
theorem exec_offPin (h : onPin c = false) : (∃ t, exec c s = answer s t) ∨ (exec c s = .refused .instrument ∧ s.pins.p48vOk = true) := by
  cases c
  case testChainAccess op =>
    cases op
    case instrument k =>
      cases hd : s.sec.dbgopen && s.pins.p48vOk
      · exact .inl ⟨chainOp (.instrument k) s, if_neg (by simp [hd])⟩
      · exact .inr ⟨if_pos hd, by simp_all⟩
    all_goals exact .inl ⟨_, rfl⟩
  case pwrEnRise | inputRange | p48vInRange | buttonPress | buttonRelease | cagePresEdge | perstAssert | perstDeassert => cases h
  all_goals exact .inl ⟨_, rfl⟩

theorem drivenPins_offPin (h : onPin c = false) : drivenPins c s = s.pins := by
  cases c
  case pwrEnRise | inputRange | p48vInRange | cagePresEdge | perstAssert | perstDeassert => cases h
  all_goals rfl

/-- Whatever a command does, the queue stays as it was, and so do the pins but for those it drives and the two that the module drives itself. -/
theorem exec_next_inputs (h : exec c s = .next t) :
    t.pending = s.pending ∧ ∃ ok deb, t.pins = { drivenPins c s with pwrOk := ok, cageDeb := deb } := by
  cases hc : onPin c with
  | true =>
    obtain ⟨u, hu⟩ := exec_onPin (s := s) hc
    cases hu.symm.trans h
    exact ⟨rfl, _, _, rfl⟩
  | false =>
    rw [drivenPins_offPin hc]
    obtain ⟨u, hu⟩ | ⟨hu, -⟩ := exec_offPin (s := s) hc
    · cases hu.symm.trans h
      split
      · exact ⟨rfl, _, _, rfl⟩
      · exact ⟨rfl, s.pins.pwrOk, s.pins.cageDeb, rfl⟩
    · cases hu.symm.trans h

/-! ## Each pin has its own events -/

theorem drivenPins_sbAddr : (drivenPins c s).sbAddr = s.pins.sbAddr := by
  cases c <;> rfl

theorem drivenPins_pwrEn (h : ∀ x, c ≠ .pwrEnRise x) : (drivenPins c s).pwrEn = s.pins.pwrEn := by
  cases c
  case pwrEnRise x => exact absurd rfl (h x)
  all_goals rfl

theorem drivenPins_cageLow (h : ∀ p l, c ≠ .cagePresEdge p l) : (drivenPins c s).cageLow = s.pins.cageLow := by
  cases c
  case cagePresEdge p l => exact absurd rfl (h p l)
  all_goals rfl

theorem drivenPins_perst (ha : ∀ p, c ≠ .perstAssert p) (hd : ∀ p l, c ≠ .perstDeassert p l) : (drivenPins c s).perst = s.pins.perst := by
  cases c
  case perstAssert p => exact absurd rfl (ha p)
  case perstDeassert p l => exact absurd rfl (hd p l)
  all_goals rfl

/-- Input power goes at its own event alone. -/
theorem drivenPins_powered (h : c ≠ .inputRange) (hp : s.pins.p48vOk = true) : (drivenPins c s).p48vOk = true := by
  cases c
  case inputRange => exact absurd rfl h
  case p48vInRange => rfl
  all_goals exact hp

/-- Input power comes at its own event alone. -/
theorem drivenPins_dark (h : c ≠ .p48vInRange) (hp : s.pins.p48vOk = false) : (drivenPins c s).p48vOk = false := by
  cases c
  case p48vInRange => exact absurd rfl h
  case inputRange => rfl
  all_goals exact hp

/-- Settles O2: a command leaves the queue and the pins as `drivenPins` gives them, and each pin there changes at its own event. -/
theorem inputsChangeAtTheirOwnEventsAlone : Obligations.InputsChangeAtTheirOwnEventsAlone := by
  unfold Obligations.InputsChangeAtTheirOwnEventsAlone
  intro c s t h
  obtain ⟨hq, ok, deb, hpins⟩ := exec_next_inputs h
  rw [hpins]
  exact ⟨hq, drivenPins_sbAddr, drivenPins_pwrEn, drivenPins_cageLow, drivenPins_perst, drivenPins_powered, drivenPins_dark⟩

/-! ## The module without input power -/

theorem onPin_eq_false (hr : ∀ x, c ≠ .pwrEnRise x) (hi : c ≠ .inputRange) (hb : c ≠ .p48vInRange) (hp : c ≠ .buttonPress) (hl : c ≠ .buttonRelease)
    (hc : ∀ p l, c ≠ .cagePresEdge p l) (ha : ∀ p, c ≠ .perstAssert p) (hd : ∀ p l, c ≠ .perstDeassert p l) : onPin c = false := by
  cases c
  case pwrEnRise x => exact absurd rfl (hr x)
  case inputRange => exact absurd rfl hi
  case p48vInRange => exact absurd rfl hb
  case buttonPress => exact absurd rfl hp
  case buttonRelease => exact absurd rfl hl
  case cagePresEdge p l => exact absurd rfl (hc p l)
  case perstAssert p => exact absurd rfl (ha p)
  case perstDeassert p l => exact absurd rfl (hd p l)
  all_goals rfl

/-- Without input power a command that is no event on a pin does nothing. -/
theorem exec_offPin_dark (h : onPin c = false) (hp : s.pins.p48vOk = false) : exec c s = .next s := by
  obtain ⟨t, ht⟩ | ⟨-, ht⟩ := exec_offPin (s := s) h
  · rw [ht, answer, if_neg (by simp [hp])]
  · simp [hp] at ht

/-- Settles O3: a command that is no event on a pin answers through `answer`, which without input power leaves the state. -/
theorem nothingHappensWithoutInputPower : Obligations.NothingHappensWithoutInputPower := by
  unfold Obligations.NothingHappensWithoutInputPower
  intro c s hp hr hi hb hpress hrelease hc ha hd
  exact exec_offPin_dark (onPin_eq_false hr hi hb hpress hrelease hc ha hd) hp

theorem poweredFinish_dark (hp : s.pins.p48vOk = false) : poweredFinish s t = t := if_neg (by simp [hp])

theorem poweredFinish_powered (hp : s.pins.p48vOk = true) : poweredFinish s t = finish t := if_pos hp

theorem poweredOff_keepInputs {p : Pins} (h : poweredOff t) : poweredOff (keepInputs s p t) := h

/-- A change of a host port's hold brings no port up. -/
theorem getHost_setHost_hold_up (h i : Fin 2) (on : Bool) : (getHost (setHost h { s.hosts[h] with hold := on } s) i).up = (getHost s i).up := by
  unfold getHost setHost
  by_cases hi : h = i
  · subst hi; simp
  · simp [Fin.val_ne_of_ne hi]

theorem poweredOff_setHost_hold {h : Fin 2} {on : Bool} (ho : poweredOff s) : poweredOff (setHost h { s.hosts[h] with hold := on } s) := by
  obtain ⟨hok, hhalves, hup, hrest⟩ := ho
  exact ⟨hok, hhalves, fun i => (getHost_setHost_hold_up h i on).trans (hup i), hrest⟩

section
variable (hp : s.pins.p48vOk = false) (ho : poweredOff s)
include hp ho

theorem poweredOff_powerEnable (x : ColdInputs) : poweredOff (powerEnable x s) := by
  rw [powerEnable, if_neg (by simp [hp])]
  exact ho

theorem poweredOff_inputLost : poweredOff (inputLost s) := by
  rw [inputLost, if_pos (by simp [hp])]
  exact ho

theorem poweredOff_inputBack : poweredOff (inputBack s) := by
  rw [inputBack, if_neg (by simp [hp])]
  exact ho

theorem poweredOff_press : poweredOff (press s) := by
  unfold press
  split
  · exact ho
  · rw [if_pos (by simp [hp])]
    exact ho

theorem poweredOff_release : poweredOff (release s) := by
  unfold release
  split
  · exact ho
  · dsimp only
    rw [if_pos (by simp [hp])]
    exact ho

theorem poweredOff_perstAssertOp (h : Fin 2) : poweredOff (perstAssertOp h s) := by
  have low : poweredOff (perstLow h true s) := ho
  rw [perstAssertOp, if_neg (by simpa [setHost, perstLow] using hp)]
  exact poweredOff_setHost_hold low

theorem poweredOff_perstDeassertOp (h : Fin 2) (long : Bool) : poweredOff (perstDeassertOp h long s) := by
  have high : poweredOff (perstLow h false s) := ho
  rw [perstDeassertOp, if_pos (by simp [perstLow, hp])]
  exact poweredOff_setHost_hold high

/-- An event on a pin leaves a module without input power powered off: it reaches the pins, the panel and the holds of the host ports alone. -/
theorem poweredOff_onPin (h : onPin c = true) (he : exec c s = .next t) : poweredOff t := by
  have effect : ∃ p u, exec c s = pinAnswer p s u ∧ poweredOff u := by
    cases c
    case pwrEnRise x => exact ⟨_, _, rfl, poweredFinish_dark hp ▸ poweredOff_powerEnable hp ho x⟩
    case inputRange => exact ⟨_, _, rfl, poweredOff_inputLost hp ho⟩
    case p48vInRange => exact ⟨_, _, rfl, poweredOff_inputBack hp ho⟩
    case buttonPress => exact ⟨_, _, rfl, poweredFinish_dark hp ▸ poweredOff_press hp ho⟩
    case buttonRelease => exact ⟨_, _, rfl, poweredOff_release hp ho⟩
    case cagePresEdge p low => exact ⟨_, cageEdge p low s, rfl, ho⟩
    case perstAssert p => exact ⟨_, _, rfl, poweredFinish_dark hp ▸ poweredOff_perstAssertOp hp ho p⟩
    case perstDeassert p long => exact ⟨_, _, rfl, poweredFinish_dark hp ▸ poweredOff_perstDeassertOp hp ho p long⟩
    all_goals cases h
  obtain ⟨p, u, hu, hoff⟩ := effect
  cases hu.symm.trans he
  exact poweredOff_keepInputs hoff

end

/-- The loss of input power empties the module, whatever entry it wrote first. -/
theorem poweredOff_inputLost_powered (hp : s.pins.p48vOk = true) : poweredOff (inputLost s) := by
  rw [inputLost, if_neg (by simp [hp])]
  exact ⟨rfl, rfl, fun h => by simp [getHost], rfl, rfl, rfl, rfl, rfl, rfl, rfl, rfl, rfl, rfl, rfl, rfl, rfl, rfl⟩

theorem exec_inputRange (hp : s.pins.p48vOk = true) : ∃ t, exec .inputRange s = .next t ∧ poweredOff t ∧ t.pins.p48vOk = false :=
  ⟨_, rfl, poweredOff_keepInputs (poweredOff_inputLost_powered hp), rfl⟩

/-- A command with input power leaves it, or is its loss and leaves the module powered off. -/
theorem exec_keeps_poweredOrOff_powered (hp : s.pins.p48vOk = true) (h : exec c s = .next t) : poweredOrOff t := by
  by_cases hc : c = .inputRange
  · subst hc
    obtain ⟨u, hu, hoff, -⟩ := exec_inputRange hp
    cases hu.symm.trans h
    exact .inr hoff
  · obtain ⟨-, ok, deb, hpins⟩ := exec_next_inputs h
    exact .inl (by rw [hpins]; exact drivenPins_powered hc hp)

/-- A command without input power leaves the module powered off: an event on a pin by its effect, every other because it does nothing. -/
theorem exec_keeps_poweredOff_dark (hp : s.pins.p48vOk = false) (ho : poweredOff s) (h : exec c s = .next t) : poweredOff t := by
  cases hc : onPin c with
  | true => exact poweredOff_onPin hp ho hc h
  | false =>
    cases (exec_offPin_dark hc hp).symm.trans h
    exact ho

/-- Every command keeps the invariant. -/
theorem exec_keeps_poweredOrOff (hi : poweredOrOff s) (h : exec c s = .next t) : poweredOrOff t := by
  cases hp : s.pins.p48vOk with
  | true => exact exec_keeps_poweredOrOff_powered hp h
  | false => exact .inr (exec_keeps_poweredOff_dark hp (hi.resolve_left (by simp [hp])) h)

/-- Settles O4: a step idles or runs a command on the state with the queue's rest, of which the invariant says nothing. -/
theorem everyStepKeepsPoweredOrOff : Obligations.EveryStepKeepsPoweredOrOff := by
  unfold Obligations.EveryStepKeepsPoweredOrOff
  intro s t hi h
  unfold step at h
  split at h
  · cases h
    exact hi
  next c rest _ => exact exec_keeps_poweredOrOff (s := { s with pending := rest }) hi h

end Sys2Proof.Machine
end

section
/-! PROOFS. Power, the service panel, the cage LEDs and the test chain (R29 to R38, R496, R535, R538, R550, R551). -/

namespace Sys2Proof.Machine

variable {s : State}

/-! ## Power -/

theorem exec_pwrEnRise (hp : s.pins.p48vOk = true) (c : ColdInputs) :
    exec (.pwrEnRise c) s = .next (keepInputs s (pwrEnHigh s).pins (finish (coldStart false c (pwrEnHigh s)))) := by
  show pinAnswer _ s (poweredFinish s (powerEnable c s)) = _
  rw [poweredFinish_powered hp, powerEnable, if_pos hp]
  rfl

/-- The Lodge starts, and takes a press that is held already as ignored (R32). -/
theorem exec_p48vInRange (hp : s.pins.p48vOk = false) :
    ∃ t, exec .p48vInRange s = .next t ∧ t.pins.p48vOk = true ∧ t.panel.ignored = s.panel.held := by
  refine ⟨_, rfl, rfl, ?_⟩
  show (inputBack s).panel.ignored = _
  rw [inputBack, if_neg (by simp [hp])]

/-! ## The button -/

theorem startExit_stabled (hst : s.pwr.state = .stabled) (hex : s.pwr.exiting = false) :
    startExit s = { s with pwr := { s.pwr with exiting := true } } := by
  simp [startExit, hst, hex]

section
variable (hp : s.pins.p48vOk = true)
include hp

theorem exec_buttonPress : exec .buttonPress s = .next (leaves s (finish (press s))) := by
  show pinAnswer s.pins s (poweredFinish s (press s)) = _
  rw [poweredFinish_powered hp]
  rfl

theorem press_judged (hheld : s.panel.held = false) (hst : s.pwr.state ≠ .stabled) :
    press s = setPanel (fun x => { x with held := true, ignored := false, stage := 0 }) s := by
  have hjudged : (s.pwr.state == .stabled && s.pins.pwrOk) = false := by simp [hst]
  simp [press, hheld, hp, hjudged]

/-- A press in STABLED starts an exit and is not judged (R33, R496). -/
theorem press_stabled (hok : s.pins.pwrOk = true) (hheld : s.panel.held = false) (hst : s.pwr.state = .stabled) :
    press s = startExit (setPanel (fun x => { x with held := true, ignored := true, stage := 0 }) s) := by
  simp [press, hheld, hp, hst, hok]

section
variable (hheld : s.panel.held = true) (hign : s.panel.ignored = false)
include hheld hign

theorem exec_buttonHold2s (hstage : s.panel.stage = 0) :
    exec .buttonHold2s s = .next { s with panel := { s.panel with stage := 1, faultFlash := s.panel.faultFlash + 1 } } := by
  show answer s (hold2 s) = _
  rw [hold2, if_pos (by simp [hp, hheld, hign, hstage])]
  exact answer_keeps _ _ hp rfl rfl

theorem exec_buttonHold10s (hstage : s.panel.stage = 1) :
    exec .buttonHold10s s = .next { s with panel := { s.panel with stage := 2, identFlash := s.panel.identFlash + 1 } } := by
  show answer s (hold10 s) = _
  rw [hold10, if_pos (by simp [hp, hheld, hign, hstage])]
  exact answer_keeps _ _ hp rfl rfl

/-- A judged press ends: what it asks for depends on the stage that it had reached (R34). -/
theorem release_judged : release s =
    let u := setPanel (fun x => { x with held := false, ignored := false, stage := 0 }) s
    if s.panel.stage = 0 then setPanel (fun x => { x with ident := !x.ident }) u else if s.panel.stage = 1 then drainRequest u else u := by
  simp [release, hp, hheld, hign]

end

end

theorem exec_buttonRelease : exec .buttonRelease s = .next (leaves s (release s)) := rfl

theorem drainRequest_fresh (h : s.panel.drain = false) :
    drainRequest s = sendMsix 1 0 3 (sendMsix 0 0 3 (setPanel (fun x => { x with drain := true }) s)) := if_neg (by simp [h])

/-! ## The Lodge's own rows -/

/-- Every port counts one stream of its traffic down (R37). -/
def countTraffic (s : State) : State :=
  { s with links := { s.links with ports := s.links.ports.map fun x => { x with traffic := x.traffic - 1 } } }

theorem countTraffic_traffic (p : Fin 36) : (getPort (countTraffic s) p).traffic = (getPort s p).traffic - 1 := by
  simp [getPort, countTraffic]

/-- A stream takes three free phases, shows a word of LEDs and counts the traffic down. -/
theorem ledStream_powered (hp : s.pins.p48vOk = true) :
    ∃ w, ledStream s = countTraffic (setPanel (fun q => { q with cageLeds := w }) { s with free := s.free + 3 }) :=
  ⟨_, if_neg (by simp [hp])⟩

section
variable (hp : s.pins.p48vOk = true)
include hp

theorem exec_identifyTimeout : exec .identifyTimeout s = .next { s with panel := { s.panel with ident := false } } := by
  show answer s (ifLodge identOff s) = _
  rw [ifLodge, if_pos hp]
  exact answer_keeps _ _ hp rfl rfl

theorem exec_svcIdentWrite (on : Bool) : exec (.svcIdentWrite on) s = .next { s with panel := { s.panel with ident := on } } := by
  show answer s (ifLodge (identWrite on) s) = _
  rw [ifLodge, if_pos hp]
  exact answer_keeps _ _ hp rfl rfl

theorem exec_svcDrainClear : exec .svcDrainClear s = .next { s with panel := { s.panel with drain := false } } := by
  show answer s (ifLodge drainClear s) = _
  rw [ifLodge, if_pos hp]
  exact answer_keeps _ _ hp rfl rfl

theorem exec_cageLedStream : ∃ t, exec .cageLedStream s = .next t ∧ t.free = s.free + 3 ∧
    ∀ p, (getPort t p).traffic = (getPort s p).traffic - 1 := by
  obtain ⟨w, hw⟩ := ledStream_powered hp
  have he : exec .cageLedStream s = .next (leaves s (ledStream s)) := answer_leaves _ _ hp
  rw [hw] at he
  exact ⟨_, he, rfl, fun p => countTraffic_traffic p⟩

theorem exec_testChain_reset : exec (.testChainAccess .reset) s = .next { s with start := { s.start with tapReset := true } } :=
  answer_keeps _ _ hp rfl rfl

theorem exec_testChain_instrument (k : Fin 12) (hd : s.sec.dbgopen = false) :
    exec (.testChainAccess (.instrument k)) s = .next { s with start := { s.start with tapReset := false } } := by
  show (if s.sec.dbgopen && s.pins.p48vOk then _ else answer s (chainOp (.instrument k) s)) = _
  rw [if_neg (by simp [hd])]
  exact answer_keeps _ _ hp rfl rfl

theorem exec_testChain_readRepair (k : Fin 16) (hk : s.stk.hold.getLsbD k.val = true) : exec (.testChainAccess (.readRepair k)) s = .next
    { s with start := { s.start with tapReset := false },
             reply := [0] ++ leBytes 2 (getStk s k).soft.toNat ++ leBytes 2 (getStk s k).hard.toNat ++ leBytes 2 (getStk s k).dry.toNat } := by
  show answer s (chainOp (.readRepair k) s) = _
  rw [chainOp, if_pos hk]
  exact answer_keeps _ _ hp rfl rfl

end

/-! ## The LEDs of a cage (R38) -/

section
variable {p : Fin 36} (hin : halfIn s (portHalf p) = true) (b : Blink)
include hin

theorem cageLed_absent (ha : (getPort s p).present = false) : cageLed s b p = (false, false) := by
  simp [cageLed, hin, ha]

theorem cageLed_failed (ha : (getPort s p).present = true) (he : (getPort s p).enabled = true) (hs : (getPort s p).state = .failed) :
    cageLed s b p = (false, true) := by
  simp [cageLed, hin, ha, he, hs]

theorem cageLed_up_quiet (ha : (getPort s p).present = true) (he : (getPort s p).enabled = true) (hs : (getPort s p).state = .up)
    (hw : (getPort s p).width = (getPort s p).cfgw) (ht : (getPort s p).traffic = 0) : cageLed s b p = (true, false) := by
  simp [cageLed, hin, ha, he, hs, hw, ht]

end

/-- Settles O48: row by row, from what each row does to the panel, the ports and the test chain. -/
theorem powerAndPanelEvents : Obligations.PowerAndPanelEvents := by
  unfold Obligations.PowerAndPanelEvents
  intro s
  refine ⟨fun c hp => exec_pwrEnRise hp c, exec_inputRange, exec_p48vInRange, ?press, ?stabled, ?hold, ?lodge, ?led⟩
  case press =>
    intro hp hheld hst
    rw [exec_buttonPress hp, press_judged hp hheld hst]
    rfl
  case stabled =>
    intro hp hok hheld hst hex
    rw [exec_buttonPress hp, press_stabled hp hok hheld hst, startExit_stabled (by exact hst) (by exact hex)]
    rfl
  case hold =>
    intro hp hheld hign
    refine ⟨exec_buttonHold2s hp hheld hign, exec_buttonHold10s hp hheld hign, ?_, ?_, ?_⟩ <;>
      rw [exec_buttonRelease, release_judged hp hheld hign] <;> intro hstage
    · rw [if_pos hstage, leaves_self] <;> rfl
    · intro hd
      rw [if_neg (by simp [hstage]), if_pos hstage, drainRequest_fresh (by exact hd)]
      rfl
    · rw [if_neg (by simp [hstage]), if_neg (by simp [hstage]), leaves_self] <;> rfl
  case lodge =>
    intro hp
    exact ⟨exec_identifyTimeout hp, exec_svcIdentWrite hp, exec_svcDrainClear hp, exec_cageLedStream hp, exec_testChain_reset hp,
      exec_testChain_instrument hp, exec_testChain_readRepair hp⟩
  case led =>
    intro b p hin
    exact ⟨cageLed_absent hin b, cageLed_failed hin b, cageLed_up_quiet hin b⟩

end Sys2Proof.Machine
end

section
/-! PROOFS. Link ports, lanes and wires (R39 to R41, R420, R426 to R431, R455 to R458, R484). -/

namespace Sys2Proof.Machine

variable {s : State} {p : Fin 36}

/-! ## Ports -/

theorem portLive_awake (h : portLive s p = true) : awake s = true := by
  simp only [portLive, Bool.and_eq_true] at h
  exact h.1

theorem portLive_power (h : portLive s p = true) : s.pins.p48vOk = true := awake_power s (portLive_awake h)

/-- A port of an awake device has power. -/
theorem portLive_powered (h : portLive s p = true) : portPowered s p = true := by
  simp only [portLive, awake, Bool.and_eq_true] at h
  obtain ⟨⟨⟨⟨hp, hok⟩, -⟩, -⟩, hin⟩ := h
  simp [portPowered, hp, hok, hin]

/-- A port that is up and stands for itself goes down alone. -/
theorem portDown_up (hm : (getPort s p).mode ≠ 2) (hs : (getPort s p).state = .up) : portDown p s =
    dropTargets p (setPort p { getPort s p with state := .training, width := 0, recovering := true, retried := false } (portEntry 0x05 0 p 0 s)) := by
  rw [portDown, pairOf, if_neg hm, List.foldl_cons, List.foldl_nil, portDown1, if_neg (by simp [hs])]

/-! ## Cages -/

theorem exec_cagePresEdge (low : Bool) : exec (.cagePresEdge p low) s = .next (cageEdge p low s) := rfl

theorem insertion_confirmed (hl : portLive s p = true) (hd : s.pins.cageDeb.getLsbD p.val = true) (hc : s.pins.cageLow.getLsbD p.val = true)
    (ha : (getPort s p).present = false) : insertion p s = startTraining p (portEntry 0x02 0 p 0 (modPort p (fun x => { x with present := true })
      { s with pins := { s.pins with cageDeb := setBit s.pins.cageDeb p.val false } })) := by
  have hp : ∀ d, portPowered (modPort p (fun x => { x with present := true }) { s with pins := { s.pins with cageDeb := d } }) p = true :=
    fun _ => portLive_powered hl
  rw [insertion, if_neg (by simp [hd, hc])]
  exact (if_neg (by simpa [getPort] using ha)).trans (if_pos (hp _))

theorem removal_confirmed (hl : portLive s p = true) (hd : s.pins.cageDeb.getLsbD p.val = true) (hc : s.pins.cageLow.getLsbD p.val = false)
    (ha : (getPort s p).present = true) :
    removal p s = portLoses p (modPort p (fun x => { x with present := false, state := .noCable, width := 0, recovering := false, retried := false })
      (portEntry 0x01 0 p 0 (portDown p { s with pins := { s.pins with cageDeb := setBit s.pins.cageDeb p.val false } }))) := by
  have hp : ∀ d, portPowered { s with pins := { s.pins with cageDeb := d } } p = true := fun _ => portLive_powered hl
  rw [removal, if_neg (by rw [hc, hd]; decide)]
  dsimp only
  rw [if_neg (by simpa [getPort] using ha), if_pos (hp _)]

/-! ## Training -/

theorem trained_kilalmir {w : Nat} {peer : BitVec 48} {pp : BitVec 6} (hl : portLive s p = true) (hs : (getPort s p).state = .training)
    (hr : (getPort s p).recovering = false) (ha : (getPort s p).present = true) (he : (getPort s p).enabled = true) (hm : (getPort s p).mode = 0)
    (hw : widthOk s p w = true) :
    trained p w peer pp s = (if (getPort s p).quiet then id else portEntry 0x03 0 p 0) (setPort p { getPort s p with
      state := .up, width := BitVec.ofNat 3 w, retried := false, quiet := false, txNext := 0, txAcked := 0, resends := [], rxNext := 0,
      peerId := peer, peerPort := pp } (freshLanes p w s)) := by
  rw [trained, if_neg (by simp [hl, hs, hr, ha, he, hw])]
  dsimp only
  rw [if_pos hm, if_pos hm]

theorem trainFailed_training (hl : portLive s p = true) (hs : (getPort s p).state = .training) (hr : (getPort s p).recovering = false) :
    trainFailed p s =
      setPort p { getPort s p with state := .failed, retried := true } (if (getPort s p).retried then s else portEntry 0x04 0 p 0 s) := by
  rw [trainFailed, if_neg (by simp [hl, hs, hr])]

theorem trainRetry_failed (hl : portLive s p = true) (hs : (getPort s p).state = .failed) (ha : (getPort s p).present = true)
    (he : (getPort s p).enabled = true) : trainRetry p s = setPort p { getPort s p with state := .training } s := by
  rw [trainRetry, if_pos (by simp [hl, hs, ha, he])]

theorem recovered_samePeer {w expected : Nat} (hl : portLive s p = true) (hs : (getPort s p).state = .training)
    (hr : (getPort s p).recovering = true) (hw : widthOk s p w = true) :
    recovered p w (getPort s p).peerId (getPort s p).peerPort expected s =
      let acked := max (getPort s p).txAcked (min expected (getPort s p).txNext)
      portEntry 0x06 0 p 0 (setPort p { getPort s p with state := .up, width := BitVec.ofNat 3 w, recovering := false, txAcked := acked,
                                                         resends := (getPort s p).resends.filter fun e => decide (acked ≤ e.1) } (freshLanes p w s)) := by
  rw [recovered, if_neg (by simp [hl, hs, hr, hw])]

/-! ## Flits -/

/-- A port whose error counters take those of a flit, with traffic on it. -/
def flitSeen (f : Flit) (x : Port) : Port := { x with feccorr := satW 32 x.feccorr f.fecCorr, fecunc := satW 16 x.fecunc f.fecUnc, traffic := 10 }

section
variable {f : Flit} (hl : portLive s p = true) (hs : (getPort s p).state = .up) (hm : (getPort s p).mode = 0)
include hl hs hm

/-- A good flit that acknowledges none is accepted where it is the next in sequence (R429). -/
theorem flit_good (ha : f.ack = none) (hc : f.crcOk = true) : flit p f s =
    setPort p (if f.seq = (getPort s p).rxNext then { flitSeen f (getPort s p) with rxNext := (getPort s p).rxNext + 1 } else flitSeen f (getPort s p)) s := by
  rw [flit, if_neg (by simp [hl, hs, hm])]
  dsimp only
  rw [if_neg (by simp [hc]), ha]
  rfl

/-- A bad flit is answered with a NAK of the next one expected (R430). -/
theorem flit_bad (hc : f.crcOk = false) : flit p f s = sendOut (.nak p.val (getPort s p).rxNext) (setPort p (flitSeen f (getPort s p)) s) := by
  rw [flit, if_neg (by simp [hl, hs, hm])]
  dsimp only
  rw [if_pos (by simp [hc])]
  rfl

/-- A NAK of the one flit in flight resends it (R430). -/
theorem nak_one (hr : (getPort s p).resends = []) (hn : (getPort s p).txAcked + 1 = (getPort s p).txNext) : nak p (getPort s p).txAcked s =
    setPort p { getPort s p with retries := satW 16 (getPort s p).retries 1, resends := [((getPort s p).txAcked, 1)] } s := by
  have hone : (getPort s p).txNext - (getPort s p).txAcked = 1 := by omega
  rw [nak, if_neg (by simp [hl, hs, hm, ← hn])]
  simp [hone, hr, tmod, tput, tget]

theorem ackTimedOut_waiting (hn : (getPort s p).txAcked < (getPort s p).txNext) : ackTimedOut p s = portDown p s := by
  rw [ackTimedOut, if_pos (by simp [hl, hs, hm, hn])]

end

/-! ## Lanes and wires -/

theorem laneFails_working {die : Fin 2} {lane : Fin 72} (hw : awake s = true) (hin : halfIn s die.val = true)
    (ht : s.links.lanes[die].testing.contains lane.val = false) (hf : s.links.lanes[die].failed.contains lane.val = false)
    (ho : s.links.lanes[die].outside.contains lane.val = false) : laneFails die lane s =
      { s with links := { s.links with lanes := s.links.lanes.set die { s.links.lanes[die] with testing := lane.val :: s.links.lanes[die].testing } } } := by
  rw [laneFails, if_neg (by simp only [hw, hin, ht, hf, ho]; decide)]

/-- A lane whose die side failed takes the die's first spare where that is free (R427). -/
theorem loopback_firstSpare {die : Fin 2} {lane : Fin 72} (ht : s.links.lanes[die].testing = [lane.val])
    (hs : s.links.lanes[die].spare[(0 : Fin 4)] = 0x7F) :
    loopback die lane true s = portDown (lanePort die lane) (portEntry 0x08 1 (lanePort die lane) (lane.val % 4)
      { s with links := { s.links with lanes := s.links.lanes.set die { s.links.lanes[die] with
        testing := [], spare := s.links.lanes[die].spare.set (0 : Fin 4) (BitVec.ofNat 7 lane.val) } } }) := by
  have hfree : ((List.finRange 4).find? fun k => s.links.lanes[die].spare[k] == 0x7F) = some 0 := by
    rw [List.finRange_succ, List.find?_cons_of_pos (by simpa using hs)]
  have hrest : s.links.lanes[die].testing.filter (· != lane.val) = [] := by simp only [ht]; simp
  rw [loopback, if_neg (by rw [ht]; simp)]
  dsimp only
  rw [if_pos rfl, hfree, hrest]
  simp [Vector.set_set]

theorem getWires_countWire (u v : WireUnit) (toHigh b : Bool) : getWires (countWire v b s) u toHigh = getWires s u toHigh := rfl

theorem wireFails_spared {u : WireUnit} {toHigh : Bool} {wire : Nat} (ha : awake s = true) (hl : wireLive s u = true) (hw : wire < lineWires u)
    (hd : (getWires s u toHigh).dead.contains wire = false) (hu : (getWires s u toHigh).used < 16) : wireFails u toHigh wire s =
      report (wireErr u 0x09 1) (putWires { getWires s u toHigh with
        spared := ((getWires s u toHigh).spared.filter fun x => x.1 != wire) ++ [(wire, (getWires s u toHigh).used)],
        used := (getWires s u toHigh).used + 1 } (countWire u toHigh s)) := by
  have hserves : wireServes u toHigh wire s = true := by
    rw [wireServes, ha, hl, decide_eq_true hw, hd]; rfl
  rw [wireFails, if_pos hserves, wireGone, getWires_countWire]
  exact if_pos hu

/-- Settles O49: row by row, from what each row does to its port, lane or wire. -/
theorem linkPortEvents : Obligations.LinkPortEvents := by
  unfold Obligations.LinkPortEvents
  refine ⟨fun s p => ⟨?edge, ?cage, ?lost, ?complete, ?failed, ?retry, ?recovered, ?window, ?flit, ?nak⟩,
    fun s hw => ⟨fun die lane => ?lane, ?wire, ?half⟩⟩
  case edge => exact fun low => exec_cagePresEdge low
  case cage =>
    intro hl hd
    have hp := portLive_power hl
    refine ⟨fun hc ha => ?_, fun hc ha => ?_⟩
    · rw [← insertion_confirmed hl hd hc ha]
      exact answer_leaves _ _ hp
    · rw [← removal_confirmed hl hd hc ha]
      exact answer_leaves _ _ hp
  case lost =>
    intro hl hm hs
    rw [← portDown_up hm hs]
    exact (answer_leaves _ _ (portLive_power hl)).trans (by rw [signalLost, if_pos hl])
  case complete =>
    intro w peer pp hl hs hr ha he hm hw
    have h := trained_kilalmir (peer := peer) (pp := pp) hl hs hr ha he hm hw
    constructor <;> intro hq <;> rw [hq] at h <;> exact (answer_leaves _ _ (portLive_power hl)).trans (by rw [h]; rfl)
  case failed =>
    intro hl hs hr
    have h := trainFailed_training hl hs hr
    constructor <;> intro hq <;> rw [hq] at h <;> exact (answer_leaves _ _ (portLive_power hl)).trans (by rw [h]; rfl)
  case retry =>
    intro hl hs ha he
    rw [← trainRetry_failed hl hs ha he]
    exact answer_leaves _ _ (portLive_power hl)
  case recovered =>
    rintro w _ _ expected hl hs hr hw rfl rfl
    exact (answer_leaves _ _ (portLive_power hl)).trans (by rw [recovered_samePeer hl hs hr hw])
  case window =>
    intro hw hr
    exact (answer_ifAwake s _ hw).trans (by rw [recoveryOver, if_pos hr])
  case flit =>
    intro f hl hs hm ha
    have hp := portLive_power hl
    refine ⟨fun hc hq => ?_, fun hc hq => ?_, fun hc => ?_⟩
    · exact (answer_leaves _ _ hp).trans (by rw [flit_good hl hs hm ha hc, if_pos hq]; rfl)
    · exact (answer_leaves _ _ hp).trans (by rw [flit_good hl hs hm ha hc, if_neg hq]; rfl)
    · exact (answer_leaves _ _ hp).trans (by rw [flit_bad hl hs hm hc]; rfl)
  case nak =>
    intro hl hs hm hr hn
    have hp := portLive_power hl
    exact ⟨(answer_leaves _ _ hp).trans (by rw [nak_one hl hs hm hr hn]),
      (answer_leaves _ _ hp).trans (by rw [ackTimedOut_waiting hl hs hm (by omega)])⟩
  case lane =>
    intro hin
    refine ⟨fun ht hf ho => ?_, fun ht hs => ?_⟩
    · exact (answer_leaves _ _ (awake_power s hw)).trans (by rw [laneFails_working hw hin ht hf ho])
    · exact (answer_ifAwake s _ hw).trans (by rw [loopback_firstSpare ht hs])
  case wire =>
    intro u toHigh wire hl hi w hd hu
    exact (answer_leaves _ _ (awake_power s hw)).trans (by rw [wireFails_spared hw hl hi hd hu])
  case half => exact fun west _ => answer_leaves _ _ (awake_power s hw)

end Sys2Proof.Machine
end

section
/-! PROOFS. Anchored sums (R63, R66 to R69, R71 to R73): what a sum within the bound of R68 comes to, and the obligations on its order and on the probe's
bound. -/

namespace Sys2Proof.Machine

/-! ## Long forms and what they stand for (R63) -/

theorem LVal.bits_of (b : BitVec 192) : (LVal.of b).bits = b := by
  unfold LVal.of
  split
  next h => exact h.symm
  next =>
    split
    next h => exact h.symm
    next =>
      split
      next h => exact h.symm
      next => exact BitVec.ofInt_toInt

theorem toInt_ofInt_of_bound {v : Int} (h : v.natAbs ≤ 2 ^ 191 - 2) : (BitVec.ofInt 192 v).toInt = v :=
  BitVec.toInt_ofInt_eq_self (by decide) (by omega) (by omega)

/-- A number within the range has a pattern that is none of the three special ones. -/
theorem LVal.of_bits_num {v : Int} (h : v.natAbs ≤ 2 ^ 191 - 2) : LVal.of (LVal.num v).bits = .num v := by
  have hv := toInt_ofInt_of_bound h
  have apart (b : BitVec 192) (hb : 2 ^ 191 - 2 < b.toInt.natAbs) : BitVec.ofInt 192 v ≠ b := by
    rintro rfl
    omega
  rw [LVal.bits, LVal.of, if_neg (apart _ (by decide)), if_neg (apart _ (by decide)), if_neg (apart _ (by decide)), hv]

theorem LVal.of_longNan : LVal.of longNan = .nan := by decide

/-- The magnitude of a value that is a number, else 0: a special value adds nothing to the sum of R68. -/
def LVal.magnitude (v : LVal) : Nat := match v with | .num n => n.natAbs | _ => 0

theorem longMagnitude_eq (l : LongForm) : longMagnitude l = (LVal.of l.bits).magnitude := by
  unfold longMagnitude LVal.magnitude
  cases LVal.of l.bits <;> rfl

theorem longClamp_inside {v : Int} (h : v.natAbs ≤ 2 ^ 191 - 2) : longClamp v = (v, false) := by
  unfold longClamp longMax
  rw [if_neg (by omega), if_neg (by omega)]

/-! ## The combination without saturation -/

/-- Two values combined as R67 combines them, but for the saturation of numbers. -/
def LVal.plus (x y : LVal) : LVal :=
  match x, y with
  | .nan, _ => .nan
  | _, .nan => .nan
  | .inf a, .inf b => if a = b then .inf a else .nan
  | .inf a, .num _ => .inf a
  | .num _, .inf b => .inf b
  | .num a, .num b => .num (a + b)

theorem LVal.plus_comm (x y : LVal) : x.plus y = y.plus x := by
  cases x <;> cases y <;> simp only [plus, Int.add_comm]
  case inf.inf a b => cases a <;> cases b <;> rfl

theorem LVal.plus_assoc (x y z : LVal) : (x.plus y).plus z = x.plus (y.plus z) := by
  cases x <;> cases y <;> cases z <;> simp only [plus, Int.add_assoc]
  case inf.inf.inf a b c => cases a <;> cases b <;> cases c <;> rfl
  case inf.inf.nan a b => cases a <;> cases b <;> rfl
  case inf.inf.num a b _ => cases a <;> cases b <;> rfl
  case num.inf.inf _ a b => cases a <;> cases b <;> rfl

theorem LVal.zero_plus (x : LVal) : (LVal.num 0).plus x = x := by
  cases x <;> simp only [plus, Int.zero_add]

theorem LVal.magnitude_plus_le (x y : LVal) : (x.plus y).magnitude ≤ x.magnitude + y.magnitude := by
  cases x <;> cases y <;> simp only [plus, magnitude, Nat.zero_le]
  case num.num a b => exact Int.natAbs_add_le a b
  case inf.inf a b => by_cases hab : a = b <;> simp [hab]

/-- Within the bound of R68 a combination is exact, and sets no ANCHOR_OVF of its own. -/
theorem longCombine_exact {x y : LongForm} (h : longMagnitude x + longMagnitude y ≤ 2 ^ 191 - 2) :
    LVal.of (longCombine x y).bits = (LVal.of x.bits).plus (LVal.of y.bits) ∧ (longCombine x y).ovf = (x.ovf || y.ovf) := by
  rw [longMagnitude_eq, longMagnitude_eq] at h
  unfold longCombine
  cases hx : LVal.of x.bits <;> cases hy : LVal.of y.bits <;> rw [hx, hy] at h
  case num.num a b =>
    have hab : (a + b).natAbs ≤ 2 ^ 191 - 2 := Nat.le_trans (Int.natAbs_add_le a b) h
    simp [longClamp_inside hab, LVal.of_bits_num hab, LVal.plus]
  case inf.inf a b =>
    by_cases hab : a = b <;> simp [hab, LVal.plus, LVal.of_longNan, hx]
  all_goals simp [LVal.plus, LVal.of_longNan, hx, hy]

theorem longMagnitude_longCombine_le {x y : LongForm} (h : longMagnitude x + longMagnitude y ≤ 2 ^ 191 - 2) :
    longMagnitude (longCombine x y) ≤ longMagnitude x + longMagnitude y := by
  simp only [longMagnitude_eq, (longCombine_exact h).1]
  exact LVal.magnitude_plus_le _ _

/-! ## What a tree of combinations comes to (R68) -/

/-- The unsaturated combination of what the entries stand for. -/
def totalOf (ls : List LongForm) : LVal := (ls.map fun l => LVal.of l.bits).foldr LVal.plus (.num 0)

theorem totalOf_append (xs ys : List LongForm) : totalOf (xs ++ ys) = (totalOf xs).plus (totalOf ys) := by
  induction xs with
  | nil => exact (LVal.zero_plus _).symm
  | cons x xs ih => exact (congrArg (LVal.plus (LVal.of x.bits)) ih).trans (LVal.plus_assoc ..).symm

theorem totalOf_perm {xs ys : List LongForm} (h : xs.Perm ys) : totalOf xs = totalOf ys :=
  (h.map _).foldr_eq' (fun x _ y _ z => by rw [← LVal.plus_assoc, LVal.plus_comm y x, LVal.plus_assoc]) _

theorem SumTree.magnitude_eq (t : SumTree) : t.magnitude = (t.leaves.map longMagnitude).sum := by
  induction t with
  | leaf l => simp [magnitude, leaves]
  | node x y hx hy => simp [magnitude, leaves, hx, hy]

theorem SumTree.magnitude_perm {x y : SumTree} (h : x.leaves.Perm y.leaves) : x.magnitude = y.magnitude := by
  rw [x.magnitude_eq, y.magnitude_eq, (h.map longMagnitude).sum_nat]

theorem SumTree.longMagnitude_sum_le (t : SumTree) (h : t.magnitude ≤ 2 ^ 191 - 2) : longMagnitude t.sum ≤ t.magnitude := by
  induction t with
  | leaf l => exact Nat.le_refl _
  | node x y hx hy =>
    rw [magnitude] at h
    have hle := Nat.add_le_add (hx (by omega)) (hy (by omega))
    exact Nat.le_trans (longMagnitude_longCombine_le (Nat.le_trans hle h)) hle

/-- The two sums under a node are within the bound of R68 together. -/
theorem SumTree.node_bound {x y : SumTree} (h : (node x y).magnitude ≤ 2 ^ 191 - 2) : longMagnitude x.sum + longMagnitude y.sum ≤ 2 ^ 191 - 2 := by
  rw [magnitude] at h
  exact Nat.le_trans (Nat.add_le_add (x.longMagnitude_sum_le (by omega)) (y.longMagnitude_sum_le (by omega))) h

/-- Within the bound of R68 a tree comes to the total of its entries, whatever its shape. -/
theorem SumTree.of_sum (t : SumTree) (h : t.magnitude ≤ 2 ^ 191 - 2) : LVal.of t.sum.bits = totalOf t.leaves := by
  induction t with
  | leaf l => exact (LVal.zero_plus _).symm.trans (LVal.plus_comm ..)
  | node x y hx hy =>
    have hxy := node_bound h
    rw [magnitude] at h
    rw [sum, (longCombine_exact hxy).1, hx (by omega), hy (by omega), leaves, totalOf_append]

/-- Within the bound of R68 no combination saturates: ANCHOR_OVF is that of the entries. -/
theorem SumTree.sum_ovf (t : SumTree) (h : t.magnitude ≤ 2 ^ 191 - 2) : t.sum.ovf = t.leaves.any fun l => l.ovf := by
  induction t with
  | leaf l => simp [sum, leaves]
  | node x y hx hy =>
    have hxy := node_bound h
    rw [magnitude] at h
    rw [sum, (longCombine_exact hxy).2, hx (by omega), hy (by omega), leaves, List.any_append]

/-- The code of a closed long form is a matter of its bits alone. -/
theorem longClose_code {x y : LongForm} (h : x.bits = y.bits) (f : Fmt) (a : BitVec 10) : (longClose f a x).1 = (longClose f a y).1 := by
  unfold longClose
  rw [h]
  cases LVal.of y.bits with
  | nan => rfl
  | inf neg => rfl
  | num v => dsimp only; split <;> rfl

/-- Settles O28: both trees come to the total of the same entries, which determines the bits and with them the closed code. -/
theorem anchoredSumsDoNotDependOnOrder : Obligations.AnchoredSumsDoNotDependOnOrder := by
  unfold Obligations.AnchoredSumsDoNotDependOnOrder
  intro x y hp hx
  have hy : y.magnitude ≤ 2 ^ 191 - 2 := SumTree.magnitude_perm hp ▸ hx
  have hbits : x.sum.bits = y.sum.bits := by
    rw [← LVal.bits_of x.sum.bits, ← LVal.bits_of y.sum.bits, x.of_sum hx, y.of_sum hy, totalOf_perm hp]
  refine ⟨hbits, ?_, longClose_code hbits⟩
  rw [x.sum_ovf hx, List.any_eq_true]

/-! ## The bound of the probe (R72) -/

theorem lt_two_pow_bitLen (m : Nat) : m < 2 ^ bitLen m := by
  unfold bitLen
  split
  · omega
  · exact Nat.lt_log2_self

/-- Below one half the rounding to an integer gives 0. -/
theorem roundShift_rn_below_half {m shift : Nat} (neg : Bool) (h : 2 * m < 2 ^ shift) : (roundShift .rn neg m shift false).1 = 0 := by
  have hlt : m < 2 ^ shift := by omega
  have hup : ¬ 2 * m > 2 ^ shift ∧ 2 * m ≠ 2 ^ shift := ⟨by omega, by omega⟩
  simp [roundShift, Nat.div_eq_of_lt hlt, Nat.mod_eq_of_lt hlt, hup]

theorem roundAt_rn_zero (neg : Bool) (e : Int) : (roundAt .rn neg 0 e 0 false).1 = 0 := by
  unfold roundAt
  split
  · exact Nat.zero_mul _
  · exact roundShift_rn_below_half neg (Nat.two_pow_pos _)

theorem roundAt_rn_below_half {m : Nat} {e : Int} (neg : Bool) (h : e + bitLen m < 0) : (roundAt .rn neg m e 0 false).1 = 0 := by
  have hm := lt_two_pow_bitLen m
  have hs : 2 ^ (bitLen m + 1) ≤ 2 ^ (0 - e).toNat := Nat.pow_le_pow_right (by decide) (by omega)
  rw [roundAt, if_neg (by omega)]
  exact roundShift_rn_below_half neg (by omega)

/-- A value below 2^k rounds to at most 2^k. -/
theorem roundAt_rn_le {m k : Nat} {e : Int} (neg : Bool) (h : e + bitLen m = k) : (roundAt .rn neg m e 0 false).1 ≤ 2 ^ k := by
  have hm := lt_two_pow_bitLen m
  unfold roundAt
  split
  · have hk : 2 ^ k = 2 ^ bitLen m * 2 ^ (e - 0).toNat := by rw [← Nat.pow_add]; congr 1; omega
    rw [hk]
    exact Nat.mul_le_mul_right _ (Nat.le_of_lt hm)
  · have hk : 2 ^ bitLen m = 2 ^ k * 2 ^ (0 - e).toNat := by rw [← Nat.pow_add]; congr 1; omega
    have ht : m / 2 ^ (0 - e).toNat < 2 ^ k := Nat.div_lt_of_lt_mul (by rw [Nat.mul_comm, ← hk]; exact hm)
    rw [roundShift]
    dsimp only
    generalize m / 2 ^ (0 - e).toNat = t at ht
    split
    · exact ht
    · exact Nat.le_of_lt ht

/-- A value below 2^(190 − k) rounds to at most that, or to 0 where that is no integer. -/
theorem roundAt_rn_le_div {m k : Nat} {e : Int} (neg : Bool) (h : e + bitLen m + k ≤ 190) :
    (roundAt .rn neg m e 0 false).1 ≤ 2 ^ 190 / 2 ^ k := by
  by_cases hneg : e + bitLen m < 0
  · rw [roundAt_rn_below_half neg hneg]
    exact Nat.zero_le _
  · obtain ⟨j, hj⟩ := Int.eq_ofNat_of_zero_le (Int.not_lt.mp hneg)
    refine Nat.le_trans (roundAt_rn_le neg hj) ((Nat.le_div_iff_mul_le (Nat.two_pow_pos k)).mpr ?_)
    rw [← Nat.pow_add]
    exact Nat.pow_le_pow_right (by decide) (by omega)

/-- A finite value that rounds into the range enters as the rounded number, without ANCHOR_OVF. -/
theorem longEnter_inside {A : BitVec 10} {n : Bool} {m : Nat} {e : Int}
    (h : (roundAt .rn n m (e + 160 - anchorExp A) 0 false).1 ≤ 2 ^ 191 - 2) :
    longMagnitude (longEnter A (.fin n m e)) = (roundAt .rn n m (e + 160 - anchorExp A) 0 false).1 ∧ (longEnter A (.fin n m e)).ovf = false := by
  generalize hround : (roundAt .rn n m (e + 160 - anchorExp A) 0 false).1 = t at h ⊢
  have ht : (if n then -(t : Int) else t).natAbs = t := by split <;> omega
  have hb : (if n then -(t : Int) else t).natAbs ≤ 2 ^ 191 - 2 := by omega
  rw [longEnter, hround, longClamp_inside hb, longMagnitude_eq, LVal.of_bits_num hb]
  exact ⟨ht, rfl⟩

/-- A finite value whose probe exponent leaves k bits of headroom under the anchor enters with at most 2^190 ÷ 2^k (R66, R71). -/
theorem longEnter_headroom {A : BitVec 10} {n : Bool} {m k : Nat} {e P : Int} (hp : probeExp (.fin n m e) ≤ P) (hA : P + k - 29 ≤ A.toInt) :
    longMagnitude (longEnter A (.fin n m e)) ≤ 2 ^ 190 / 2 ^ k ∧ (longEnter A (.fin n m e)).ovf = false := by
  have ht : (roundAt .rn n m (e + 160 - anchorExp A) 0 false).1 ≤ 2 ^ 190 / 2 ^ k := by
    by_cases hm : m = 0
    · rw [hm, roundAt_rn_zero]
      exact Nat.zero_le _
    · rw [probeExp, if_neg hm] at hp
      exact roundAt_rn_le_div n (by rw [anchorExp]; omega)
  have hmax : 2 ^ 190 / 2 ^ k ≤ 2 ^ 191 - 2 := Nat.le_trans (Nat.div_le_self _ _) (by decide)
  obtain ⟨hmag, hovf⟩ := longEnter_inside (Nat.le_trans ht hmax)
  exact ⟨Nat.le_trans (Nat.le_of_eq hmag) ht, hovf⟩

theorem sum_le_length_mul {xs : List Nat} {d : Nat} (h : ∀ x ∈ xs, x ≤ d) : xs.sum ≤ xs.length * d := by
  induction xs with
  | nil => exact Nat.zero_le _
  | cons x xs ih =>
    obtain ⟨hx, hxs⟩ := List.forall_mem_cons.mp h
    rw [List.sum_cons, List.length_cons, Nat.succ_mul, Nat.add_comm]
    exact Nat.add_le_add (ih hxs) hx

/-- Settles O29: each addend enters with at most 2^190 divided by a power of two that is at least their number, so that R68 holds. -/
theorem probedAnchorsDoNotSaturate : Obligations.ProbedAnchorsDoNotSaturate := by
  unfold Obligations.ProbedAnchorsDoNotSaturate
  intro vs P A t hne hfin hP hA hperm
  have hcount : vs.length ≤ 2 ^ bitLen (vs.length - 1) := by have := lt_two_pow_bitLen (vs.length - 1); omega
  have henter : ∀ l ∈ t.leaves, longMagnitude l ≤ 2 ^ 190 / 2 ^ bitLen (vs.length - 1) ∧ l.ovf = false := by
    intro l hl
    obtain ⟨v, hv, rfl⟩ := List.mem_map.mp (hperm.mem_iff.mp hl)
    obtain ⟨n, m, e, rfl⟩ := hfin v hv
    exact longEnter_headroom (hP _ hv) hA
  have hmag : t.magnitude ≤ 2 ^ 191 - 2 := by
    have hlen : (t.leaves.map longMagnitude).length = vs.length := by rw [List.length_map, hperm.length_eq, List.length_map]
    calc t.magnitude = (t.leaves.map longMagnitude).sum := t.magnitude_eq
      _ ≤ (t.leaves.map longMagnitude).length * (2 ^ 190 / 2 ^ bitLen (vs.length - 1)) :=
        sum_le_length_mul (List.forall_mem_map.mpr fun l hl => (henter l hl).1)
      _ = vs.length * (2 ^ 190 / 2 ^ bitLen (vs.length - 1)) := by rw [hlen]
      _ ≤ 2 ^ bitLen (vs.length - 1) * (2 ^ 190 / 2 ^ bitLen (vs.length - 1)) := Nat.mul_le_mul_right _ hcount
      _ ≤ 2 ^ 190 := Nat.mul_div_le _ _
      _ ≤ 2 ^ 191 - 2 := by decide
  refine ⟨hmag, ?_⟩
  rw [t.sum_ovf hmag, List.any_eq_false]
  intro l hl
  simp [(henter l hl).2]

end Sys2Proof.Machine
end

section
/-! PROOFS. The FLT and ANCH families (R56, R57, R102, R103, R143 to R146): what their instructions leave, and the flags of their results. -/

namespace Sys2Proof.Machine

variable {i : Issue} {w : IWord} {s : State} {c : Ctx}

/-! ## Floating-point instructions (R57, R102, R103) -/

/-- An FLT operation of one form puts each lane's result in DST and its flags in the team's. -/
theorem fltOp_answers {form : Form} (f : Ctx → Nat → Nat × Flags) (h : Issues i w (fun _ => form) s c) :
    answer s (fltOp i w form f s) = .next (retires c (flaggedResults (fltN w) w (f (past w c)) (past w c))) :=
  answer_issueTeam i w form _ s c h

/-- An estimate is of one register of FP32. -/
theorem estOp_answers (f : W32 → Nat × Flags) (h : Issues i w (fun _ => estForm w) s c) :
    answer s (estOp i w f s) = .next (retires c (flaggedResults 1 w
      (fun l => f (BitVec.ofNat 32 (read32 (past w c).t l w.srcA w.imm))) (past w c))) :=
  answer_issueTeam i w (estForm w) _ s c h

/-- Settles O9: family by family, each instruction is an operation of its form. -/
theorem fltArithmetic : Obligations.FltArithmetic := by
  unfold Obligations.FltArithmetic
  intro i w s c
  refine ⟨?two, ?fma, ?one, ?cmp, ?est⟩
  case two =>
    exact fun h => ⟨fltOp_answers _ h, fltOp_answers _ h, fltOp_answers _ h, fltOp_answers _ h, fltOp_answers _ h, fltOp_answers _ h⟩
  case fma => exact fun h => fltOp_answers _ h
  case one => exact fun h => ⟨fltOp_answers _ h, fltOp_answers _ h, fltOp_answers _ h⟩
  case cmp => exact fun h => answer_issueTeam i w _ (fltCompare w) s c h
  case est => exact fun h => ⟨estOp_answers _ h, estOp_answers _ h, estOp_answers _ h⟩

/-! ## The flags of the results (R56) -/

theorem writeG_flags (lane r : Nat) (v : W32) (t : Team) : (writeG lane r v t).flags = t.flags := by
  unfold writeG
  split <;> rfl

theorem writeWords_flags (n lane : Nat) (f : BitVec 9) (v : Nat) (t : Team) : (writeWords n lane f v t).flags = t.flags := by
  unfold writeWords
  refine List.foldlRecOn (motive := fun u : Team => u.flags = t.flags) _ _ rfl fun u hu k _ => ?_
  dsimp only
  split
  · exact (writeG_flags ..).trans hu
  · exact hu
  · exact hu

theorem writeLanes_flags (n : Nat) (f : BitVec 9) (vals : List (Nat × Nat)) (t : Team) : (writeLanes n f vals t).flags = t.flags := by
  unfold writeLanes
  split
  · cases vals with
    | nil => rfl
    | cons x _ => exact writeWords_flags n x.1 f x.2 t
  · exact List.foldlRecOn (motive := fun u : Team => u.flags = t.flags) _ _ rfl fun u hu x _ => (writeWords_flags ..).trans hu

theorem foldl_or_flags (fs : List Flags) (a : Flags) :
    fs.foldl Flags.or a = { nv := a.nv || fs.any fun x => x.nv, of := a.of || fs.any fun x => x.of, uf := a.uf || fs.any fun x => x.uf } := by
  induction fs generalizing a with
  | nil => simp
  | cons x xs ih => simp [ih, Flags.or, Bool.or_assoc]

/-- The flags of a list together are those that any of it has. -/
theorem allFlags_eq (fs : List Flags) :
    allFlags fs = { nv := fs.any fun x => x.nv, of := fs.any fun x => x.of, uf := fs.any fun x => x.uf } := by
  rw [allFlags, foldl_or_flags]
  rfl

theorem flaggedResults_eq (n : Nat) (w : IWord) (r : Nat → Nat × Flags) (c : Ctx) :
    flaggedResults n w r c = addFlags (allFlags (c.on.map fun l => (r l).2)) (laneResults n w (fun l => (r l).1) c) := by
  simp only [flaggedResults, writeFlags, laneResults, List.map_map, Function.comp_def]

/-- Settles O12: writing results keeps the team's flags, and to these the lanes' flags are added. -/
theorem arithmeticFlagsAreSticky : Obligations.ArithmeticFlagsAreSticky := by
  unfold Obligations.ArithmeticFlagsAreSticky
  intro n w r c
  have hkeep : (laneResults n w (fun l => (r l).1) c).flags = c.t.flags := writeLanes_flags ..
  simp only [flaggedResults_eq, addFlags, allFlags_eq, hkeep, List.any_map, Function.comp_def, true_and]
  rw [← hkeep]

/-! ## Anchored instructions (R143 to R146) -/

/-- Settles O27: each ANCH instruction changes its team alone, as its form has it; a close names a predicate or none. -/
theorem anchoredInstructions : Obligations.AnchoredInstructions := by
  unfold Obligations.AnchoredInstructions
  intro i w s c
  refine ⟨?group, ?add, ?merge, ?close, ?probe, ?pmax⟩
  case group => exact fun h => ⟨answer_issueTeam i w _ _ s c h, answer_issueTeam i w _ _ s c h⟩
  case add => exact fun h => answer_issueTeam i w _ _ s c h
  case merge => exact fun h => answer_issueTeam i w _ _ s c h
  case close =>
    intro h
    have hclose : exec (.anchClose i w) s = _ := answer_issueTeam i w _ (fun c => closePreds w c (flaggedResults 1 w (closeLane w c) c)) s c h
    exact ⟨fun hp => hclose.trans (by rw [closePreds, if_neg (by simp [hp])]; rfl),
      fun hp => hclose.trans (by rw [closePreds, if_pos hp]; rfl)⟩
  case probe => exact fun h => answer_issueTeam i w _ _ s c h
  case pmax => exact fun h => answer_issueTeam i w _ _ s c h

end Sys2Proof.Machine
end

section
/-! PROOFS. Exact values and special operands of the floating-point operations (R43 to R45, R53 to R57, R102). -/

namespace Sys2Proof.Machine

/-! ## Special operands (R44, R45, R56, R57) -/

section
variable {f : Fmt} {m : RMode} {a b : Nat}

theorem Fmt.nan_ieee (hf : f.top = .ieee) (nv : Bool) : f.nan nv = (f.nanCode, { nv := nv, of := false, uf := false }) := by
  simp [Fmt.nan, hf]

/-- A NaN that an operation makes is delivered as the canonical one, with NV where nv says so. -/
theorem deliver_madeNan (hf : f.top = .ieee) (mode : RMode) (nv : Bool) :
    withNv (f.deliver mode false (.nan false)) nv = (f.nanCode, { nv := nv, of := false, uf := false }) := by
  simp [withNv, Fmt.deliver, Fmt.nan_ieee hf]

theorem FVal.isNan_iff {v : FVal} : v.isNan = true ↔ ∃ q, v = .nan q := by
  cases v <;> simp [FVal.isNan]

theorem FVal.signalling_of_not_nan {v : FVal} (h : v.isNan = false) : v.signalling = false := by
  cases v with
  | nan q => cases h
  | inf n => rfl
  | fin n k e => rfl

theorem FVal.neg_isNan (v : FVal) : v.neg.isNan = v.isNan := by
  cases v <;> rfl

theorem FVal.neg_signalling (v : FVal) : v.neg.signalling = v.signalling := by
  cases v <;> rfl

theorem FVal.add_nan {x y : FVal} (rd : Bool) (h : x.isNan ∨ y.isNan) : FVal.add rd x y = (.nan false, x.signalling || y.signalling) := by
  rcases h with h | h <;> obtain ⟨q, rfl⟩ := FVal.isNan_iff.mp h
  · rfl
  · cases x <;> simp [FVal.add, FVal.signalling, Bool.or_comm]

theorem FVal.mul_nan {x y : FVal} (h : x.isNan ∨ y.isNan) : FVal.mul x y = (.nan false, x.signalling || y.signalling) := by
  rcases h with h | h <;> obtain ⟨q, rfl⟩ := FVal.isNan_iff.mp h
  · rfl
  · cases x <;> simp [FVal.mul, FVal.signalling, Bool.or_comm]

theorem fAdd_of_nan {nv : Bool} (hf : f.top = .ieee) (h : FVal.add (rdOf m) (f.decode a) (f.decode b) = (.nan false, nv)) :
    fAdd f m a b = (f.nanCode, { nv := nv, of := false, uf := false }) := by
  rw [fAdd, h]
  exact deliver_madeNan hf m nv

theorem fSub_of_nan {nv : Bool} (hf : f.top = .ieee) (h : FVal.add (rdOf m) (f.decode a) (f.decode b).neg = (.nan false, nv)) :
    fSub f m a b = (f.nanCode, { nv := nv, of := false, uf := false }) := by
  rw [fSub, h]
  exact deliver_madeNan hf m nv

theorem fMul_of_nan {nv : Bool} (hf : f.top = .ieee) (h : FVal.mul (f.decode a) (f.decode b) = (.nan false, nv)) :
    fMul f m a b = (f.nanCode, { nv := nv, of := false, uf := false }) := by
  rw [fMul, h]
  exact deliver_madeNan hf m nv

theorem fDiv_nan (h : (f.decode a).isNan ∨ (f.decode b).isNan) :
    fDiv f m a b = f.nan ((f.decode a).signalling || (f.decode b).signalling) := by
  unfold fDiv
  rcases h with h | h <;> obtain ⟨q, hq⟩ := FVal.isNan_iff.mp h <;> rw [hq]
  · rfl
  · cases f.decode a <;> simp [FVal.signalling, Bool.or_comm]

theorem fSqrt_nan (h : (f.decode a).isNan) : fSqrt f m a = f.nan (f.decode a).signalling := by
  obtain ⟨q, hq⟩ := FVal.isNan_iff.mp h
  rw [fSqrt, hq]
  rfl

/-- The root of a negative number (R57). -/
theorem fSqrt_negative {k : Nat} {e : Int} (h : f.decode a = .fin true k e) (hk : k ≠ 0) : fSqrt f m a = f.nan true := by
  rw [fSqrt, h]
  dsimp only
  rw [if_neg hk, if_pos rfl]

/-- A quiet NaN beside a number: the number, as it is (R102). -/
theorem fMinMax_quietNan (less : Bool) (ha : (f.decode a).isNan) (hq : (f.decode a).signalling = false) (hb : (f.decode b).isNan = false) :
    fMinMax f less a b = (b, noFlags) := by
  simp [fMinMax, ha, hq, hb, FVal.signalling_of_not_nan hb, withNv, noFlags]

end

/-- Settles O10: by the kinds of the two operands. -/
theorem fltSpecialOperands : Obligations.FltSpecialOperands := by
  unfold Obligations.FltSpecialOperands
  intro f hf m a b
  have hf : f.top = .ieee := by rcases hf with rfl | rfl <;> rfl
  refine ⟨?nan, ?one, ?infAdd, ?infSub, ?infDiv, ?infMul, ?zeroDiv, ?root, ?minMax⟩
  case nan =>
    intro h
    refine ⟨fAdd_of_nan hf (FVal.add_nan _ h), fSub_of_nan hf ?_, fMul_of_nan hf (FVal.mul_nan h), ?_⟩
    · rw [FVal.add_nan _ (by rwa [FVal.neg_isNan]), FVal.neg_signalling]
    · rw [fDiv_nan h, Fmt.nan_ieee hf]
  case one =>
    intro h
    exact ⟨by rw [fAbs, if_pos h, Fmt.nan_ieee hf], by rw [fNeg, if_pos h, Fmt.nan_ieee hf], by rw [fSqrt_nan h, Fmt.nan_ieee hf]⟩
  case infAdd =>
    intro n k hx hy hnk
    exact fAdd_of_nan hf (by rw [hx, hy, FVal.add, if_neg hnk])
  case infSub =>
    intro n hx hy
    exact fSub_of_nan hf (by rw [hx, hy, FVal.neg, FVal.add, if_neg (by simp)])
  case infDiv =>
    intro n k hx hy
    rw [fDiv, hx, hy]
    exact Fmt.nan_ieee hf true
  case infMul =>
    intro n k e hx hy
    exact fMul_of_nan hf (by rw [hx, hy, FVal.mul, if_pos rfl])
  case zeroDiv =>
    intro n k e d hx hy
    rw [fDiv, hx, hy]
    exact Fmt.nan_ieee hf true
  case root =>
    intro e k hx hk
    rw [fSqrt_negative hx hk, Fmt.nan_ieee hf]
  case minMax =>
    intro hx hq hy
    simp only [Bool.not_eq_true'] at hq hy
    exact ⟨fMinMax_quietNan true hx hq hy, fMinMax_quietNan false hx hq hy⟩

/-! ## Exact values (R53, R54, R56) -/

/-- A code is its sign bit and the magnitude below it. -/
theorem pack_bitOf {f : Fmt} {code : Nat} (hc : code < 2 ^ f.width) :
    f.pack (bitOf code (f.ebits + f.mbits)) (code % 2 ^ (f.ebits + f.mbits)) = code := by
  have hsplit := Nat.div_add_mod code (2 ^ (f.ebits + f.mbits))
  have hsign : code / 2 ^ (f.ebits + f.mbits) < 2 := Nat.div_lt_of_lt_mul (by rwa [← Nat.pow_succ, Nat.succ_eq_one_add, ← Nat.add_assoc])
  unfold Fmt.pack bitOf
  generalize code / 2 ^ (f.ebits + f.mbits) = b at hsplit hsign
  match b with
  | 0 => rwa [Nat.mul_zero] at hsplit
  | 1 => rwa [Nat.mul_one] at hsplit

/-- A magnitude code is its exponent field and its mantissa field. -/
theorem magnitude_fields (f : Fmt) (code : Nat) :
    code % 2 ^ (f.ebits + f.mbits) = code / 2 ^ f.mbits % 2 ^ f.ebits * 2 ^ f.mbits + code % 2 ^ f.mbits := by
  rw [Nat.pow_add, Nat.mul_comm (2 ^ f.ebits), Nat.mod_mul, Nat.add_comm, Nat.mul_comm (2 ^ f.mbits)]

/-- The exact value of an exponent field E and a mantissa field M (R43). -/
def Fmt.finite (f : Fmt) (neg : Bool) (E M : Nat) : FVal :=
  if E = 0 then .fin neg M (1 - f.bias - f.mbits) else .fin neg (M + 2 ^ f.mbits) ((E : Int) - f.bias - f.mbits)

/-- A code that stands for a number is at most the largest finite one, and the number is that of its fields. -/
theorem decode_fin {f : Fmt} {code : Nat} {n : Bool} {m : Nat} {e : Int} (h : f.decode code = .fin n m e) :
    code % 2 ^ (f.ebits + f.mbits) ≤ f.maxCode ∧
      .fin n m e = f.finite (bitOf code (f.ebits + f.mbits)) (code / 2 ^ f.mbits % 2 ^ f.ebits) (code % 2 ^ f.mbits) := by
  have hlt : code % 2 ^ (f.ebits + f.mbits) < 2 ^ (f.ebits + f.mbits) := Nat.mod_lt _ (Nat.two_pow_pos _)
  have hE : code / 2 ^ f.mbits % 2 ^ f.ebits < 2 ^ f.ebits := Nat.mod_lt _ (Nat.two_pow_pos _)
  have hM : code % 2 ^ f.mbits < 2 ^ f.mbits := Nat.mod_lt _ (Nat.two_pow_pos _)
  unfold Fmt.decode at h
  unfold Fmt.maxCode
  cases ht : f.top with
  | finite =>
    rw [ht] at h
    exact ⟨Nat.le_sub_one_of_lt hlt, h.symm⟩
  | oneNan =>
    simp only [ht] at h
    split at h
    · cases h
    · exact ⟨by dsimp only; omega, h.symm⟩
  | ieee =>
    simp only [ht] at h
    split at h
    · split at h <;> cases h
    next htop =>
      refine ⟨?_, h.symm⟩
      have hle : (code / 2 ^ f.mbits % 2 ^ f.ebits + 1) * 2 ^ f.mbits ≤ (2 ^ f.ebits - 1) * 2 ^ f.mbits := Nat.mul_le_mul_right _ (by omega)
      rw [Nat.add_mul, Nat.one_mul] at hle
      rw [magnitude_fields]
      dsimp only
      omega

theorem bitLen_le {m k : Nat} (h : m < 2 ^ k) : bitLen m ≤ k := by
  unfold bitLen
  split
  · exact Nat.zero_le _
  next hm => exact (Nat.log2_lt hm).mpr h

theorem bitLen_eq {m k : Nat} (hl : 2 ^ k ≤ m) (hu : m < 2 ^ (k + 1)) : bitLen m = k + 1 := by
  have hm : m ≠ 0 := Nat.ne_of_gt (Nat.lt_of_lt_of_le (Nat.two_pow_pos k) hl)
  rw [bitLen, if_neg hm, (Nat.log2_eq_iff hm).mpr ⟨hl, hu⟩]

/-- At its own quantum a value is an integer already. -/
theorem roundAt_own_quantum (mode : RMode) (neg : Bool) (m : Nat) (e : Int) : roundAt mode neg m e e false = (m, false) := by
  simp [roundAt]

/-- A number whose exponent is the quantum of the format rounds to itself, without flags (R53, R56). -/
theorem round_own_quantum {f : Fmt} {m : Nat} {e : Int} {mag : Nat} (mode : RMode) (sat neg : Bool) (h0 : m ≠ 0) (hm : m < 2 ^ (f.mbits + 1))
    (hq : max (e + bitLen m - 1) (1 - f.bias) - f.mbits = e)
    (hmag : (if m < 2 ^ f.mbits then m else (e + f.mbits + f.bias).toNat * 2 ^ f.mbits + (m - 2 ^ f.mbits)) = mag) (hmax : mag ≤ f.maxCode) :
    f.round mode sat neg m e false = (f.pack neg mag, noFlags) := by
  have hcarry : ¬ 2 ^ (f.mbits + 1) ≤ m := Nat.not_le.mpr hm
  simp [Fmt.round, h0, hq, roundAt_own_quantum, hcarry, hmag, Nat.not_lt.mpr hmax, noFlags]

/-- The number of an exponent field and a mantissa field is delivered as the code of those fields. -/
theorem deliver_finite {f : Fmt} {E M : Nat} (mode : RMode) (sat neg : Bool) (hM : M < 2 ^ f.mbits) (hmax : E * 2 ^ f.mbits + M ≤ f.maxCode) :
    f.deliver mode sat (f.finite neg E M) = (f.pack neg (E * 2 ^ f.mbits + M), noFlags) := by
  have hM2 : M + 2 ^ f.mbits < 2 ^ (f.mbits + 1) := by rw [Nat.pow_succ]; omega
  unfold Fmt.finite
  split
  next hE =>
    by_cases hM0 : M = 0
    · simp [Fmt.deliver, Fmt.round, hE, hM0]
    · have hlen := bitLen_le hM
      exact round_own_quantum mode sat neg hM0 (by omega) (by omega) (by rw [if_pos hM, hE, Nat.zero_mul, Nat.zero_add]) hmax
  next hE =>
    have hlen := bitLen_eq (Nat.le_add_left (2 ^ f.mbits) M) hM2
    have hexp : ((E : Int) - f.bias - f.mbits + f.mbits + f.bias).toNat = E := by omega
    exact round_own_quantum mode sat neg (by omega) hM2 (by omega) (by rw [if_neg (by omega), hexp, Nat.add_sub_cancel]) hmax

/-- Settles O11: the fields of the code give the number, and rounding gives the fields back. -/
theorem exactValuesAreDeliveredUnchanged : Obligations.ExactValuesAreDeliveredUnchanged := by
  unfold Obligations.ExactValuesAreDeliveredUnchanged
  intro k f _ mode sat code hc n m e h
  obtain ⟨hmax, hfin⟩ := decode_fin h
  rw [magnitude_fields] at hmax
  rw [hfin, deliver_finite mode sat _ (Nat.mod_lt _ (Nat.two_pow_pos _)) hmax, ← magnitude_fields, pack_bitOf hc]

end Sys2Proof.Machine
end

section
/-! PROOFS. Harness regions (R124 to R127): the elements of the tiles, the tiles of a grant, and the obligations on grants and regions. -/

namespace Sys2Proof.Machine

/-! ## Cores, blocks and teams after an update -/

@[simp] theorem getCore_setCore (n : Nat) (c : Core) (s : State) : getCore (setCore n c s) n = c := tget_tput_self ..

theorem getBlock_setCore (n slot : Nat) (c : Core) (s : State) : getBlock (setCore n c s) n slot = tfind c.blocks slot := by
  rw [getBlock, getCore_setCore]

theorem getTeam_eq_some {s : State} {core slot team : Nat} {t : Team} :
    getTeam s core slot team = some t ↔ ∃ b, getBlock s core slot = some b ∧ tfind b.teams team = some t := by
  unfold getTeam
  split <;> simp [*]

/-- A core's blocks alone say what its teams are. -/
theorem getTeam_setCore (core slot team : Nat) (c : Core) (s : State) (h : c.blocks = (getCore s core).blocks) :
    getTeam (setCore core c s) core slot team = getTeam s core slot team := by
  rw [getTeam, getBlock_setCore, h]
  rfl

theorem modTeam_eq {s : State} {core slot team : Nat} {b : Block} {t : Team} (f : Team → Team) (hb : getBlock s core slot = some b)
    (ht : tfind b.teams team = some t) :
    modTeam core slot team f s = setBlock core slot { b with teams := tput b.teams team (f t) } s := by
  simp only [modTeam, modBlock, hb, ht]

theorem getTeam_modTeam {s : State} {core slot team : Nat} {t : Team} (f : Team → Team) (h : getTeam s core slot team = some t) :
    getTeam (modTeam core slot team f s) core slot team = some (f t) := by
  obtain ⟨b, hb, ht⟩ := getTeam_eq_some.mp h
  rw [modTeam_eq f hb ht, getTeam_eq_some]
  exact ⟨_, by rw [setBlock, getBlock_setCore, tfind_tput_self], tfind_tput_self ..⟩

/-- A change of a team leaves its core as it was but for the blocks. -/
theorem getCore_modTeam (s : State) (core slot team : Nat) (f : Team → Team) :
    ∃ bs, getCore (modTeam core slot team f s) core = { getCore s core with blocks := bs } := by
  unfold modTeam modBlock
  split
  · exact ⟨_, getCore_setCore ..⟩
  · exact ⟨_, rfl⟩

/-! ## The elements of a tile -/

theorem tget_append {α : Type} (t u : Tbl α) (k : Nat) (d : α) : tget (t ++ u) k d = tget t k (tget u k d) := by
  induction t with
  | nil => rfl
  | cons e r ih => simp only [List.cons_append, tget, ih]

theorem tget_filter_key {α : Type} (p : Nat → Bool) (t : Tbl α) (k : Nat) (d : α) :
    tget (t.filter fun e => p e.1) k d = if p k then tget t k d else d := by
  induction t with
  | nil => simp [tget]
  | cons e r ih =>
    by_cases he : p e.1 <;> by_cases hk : e.1 = k
    · subst hk; simp [he, tget]
    · simp [he, tget, hk, ih]
    · subst hk; simp [he, ih]
    · simp [he, tget, hk, ih]

/-- The entries from key b on that list the nonzero values of g. -/
theorem tget_listed (g : Nat → W32) (b n x : Nat) (d : W32) :
    tget ((List.range n).filterMap fun e => if g e = 0 then none else some (b + e, g e)) x d =
      if b ≤ x ∧ x < b + n ∧ g (x - b) ≠ 0 then g (x - b) else d := by
  induction n generalizing d with
  | zero => rw [if_neg (by omega)]; rfl
  | succ n ih =>
    have hlast : tget ([n].filterMap fun e => if g e = 0 then none else some (b + e, g e)) x d =
        if x = b + n ∧ g n ≠ 0 then g n else d := by
      by_cases hg : g n = 0 <;>
        simp only [List.filterMap_cons, List.filterMap_nil, hg, if_true, if_false, tget, eq_comm, ne_eq, not_true, not_false_eq_true, and_true,
          and_false]
    rw [List.range_succ, List.filterMap_append, tget_append, ih, hlast]
    by_cases hx : x = b + n
    · subst hx
      rw [if_neg (by omega)]
      simp only [Nat.add_sub_cancel_left, Nat.le_add_right, Nat.add_lt_add_iff_left, Nat.lt_succ_self, true_and]
    · have hrange : (b ≤ x ∧ x < b + (n + 1)) ↔ (b ≤ x ∧ x < b + n) := by omega
      simp only [hx, false_and, if_false, ← and_assoc, hrange]

/-- A tile's elements after it or another tile is set. -/
theorem tileOf_setTile (k k' : Nat) (f : Nat → Nat → W32) (c : Core) {i j : Nat} (hi : i < 64) (hj : j < 64) :
    tileOf (setTile k f c) k' i j = if k' = k then f i j else tileOf c k' i j := by
  simp only [tileOf, setTile, tget_append, tget_filter_key (fun x => decide (x < 4096 * k)),
    tget_filter_key (fun x => decide (4096 * (k + 1) ≤ x)), tget_listed (fun e => f (e / 64) (e % 64)), decide_eq_true_eq]
  rcases Nat.lt_trichotomy k' k with h | rfl | h
  · rw [if_pos (by omega), if_neg (by omega), if_neg (by omega), if_neg (by omega)]
  · have hrow : (4096 * k' + 64 * i + j - 4096 * k') / 64 = i := by omega
    have hcol : (4096 * k' + 64 * i + j - 4096 * k') % 64 = j := by omega
    have hlow : ¬ 4096 * k' + 64 * i + j < 4096 * k' := by omega
    have hhigh : ¬ 4096 * (k' + 1) ≤ 4096 * k' + 64 * i + j := by omega
    rw [if_neg hlow, if_neg hhigh, if_pos rfl, hrow, hcol]
    by_cases hzero : f i j = 0
    · rw [if_neg fun h => h.2.2 hzero, hzero]
    · rw [if_pos ⟨by omega, by omega, hzero⟩]
  · rw [if_neg (by omega), if_neg (by omega), if_pos (by omega), if_neg (by omega)]

/-! ## Grants (R126) -/

/-- A tile is taken, every element +0. -/
def grantTile (c : Core) (k : Fin 8) : Core :=
  setTile k.val (fun _ _ => 0) { c with tileUsed := c.tileUsed ||| BitVec.ofNat 8 (2 ^ k.val) }

theorem grantTiles_eq (core slot team n : Nat) (s : State) :
    grantTiles core slot team n s =
      modTeam core slot team (fun t => { t with harness := some ((freeTileList (getCore s core)).take n) })
        (setCore core (((freeTileList (getCore s core)).take n).foldl grantTile (getCore s core)) s) := rfl

theorem foldl_grantTile_blocks (ks : List (Fin 8)) (c : Core) : (ks.foldl grantTile c).blocks = c.blocks :=
  List.foldlRecOn (motive := fun x : Core => x.blocks = c.blocks) ks grantTile rfl fun _ h _ _ => h

theorem foldl_grantTile_tileUsed (ks : List (Fin 8)) (c : Core) (k : Fin 8) :
    (ks.foldl grantTile c).tileUsed.getLsbD k.val = (c.tileUsed.getLsbD k.val || decide (k ∈ ks)) := by
  induction ks generalizing c with
  | nil => simp
  | cons x r ih =>
    have hbit : (grantTile c x).tileUsed.getLsbD k.val = (c.tileUsed.getLsbD k.val || decide (k = x)) := by
      rw [grantTile, setTile, BitVec.getLsbD_or, BitVec.getLsbD_ofNat, Nat.testBit_two_pow]
      simp only [k.isLt, decide_true, Bool.true_and, Fin.ext_iff, eq_comm]
    rw [List.foldl_cons, ih, hbit, Bool.or_assoc, ← Bool.decide_or]
    simp only [List.mem_cons]

theorem tileOf_foldl_grantTile (ks : List (Fin 8)) (c : Core) (k : Fin 8) {i j : Nat} (hi : i < 64) (hj : j < 64) :
    tileOf (ks.foldl grantTile c) k.val i j = if k ∈ ks then 0 else tileOf c k.val i j := by
  induction ks generalizing c with
  | nil => simp
  | cons x r ih =>
    have hset : tileOf (grantTile c x) k.val i j = if k = x then 0 else tileOf c k.val i j := by
      rw [grantTile, tileOf_setTile _ _ _ _ hi hj]
      simp only [Fin.ext_iff]
      rfl
    rw [List.foldl_cons, ih, hset]
    by_cases hr : k ∈ r <;> by_cases hx : k = x <;> simp [hr, hx]

/-- Settles O24: a grant takes the tiles one by one and then names them in the team, which changes nothing of the tiles. -/
theorem grantedTilesAreZero : Obligations.GrantedTilesAreZero := by
  unfold Obligations.GrantedTilesAreZero
  intro s core slot team n t ht hn
  rw [grantTiles_eq]
  generalize hks : (freeTileList (getCore s core)).take n = ks
  generalize hgranted : setCore core (ks.foldl grantTile (getCore s core)) s = granted
  have hlen : ks.length = n := by rw [← hks, List.length_take_of_le hn]
  have hteam : getTeam granted core slot team = some t := by
    rw [← hgranted, getTeam_setCore _ _ _ _ _ (foldl_grantTile_blocks ..), ht]
  obtain ⟨bs, hcore⟩ := getCore_modTeam granted core slot team fun t => { t with harness := some ks }
  refine ⟨ks, getTeam_modTeam _ hteam, hlen, rfl, fun k hk => ⟨?used, fun a b ha hb => ?zero⟩⟩
  case used =>
    rw [hcore, ← hgranted, getCore_setCore]
    exact (foldl_grantTile_tileUsed ks (getCore s core) k).trans (by simp only [hk, decide_true, Bool.or_true])
  case zero =>
    rw [hcore, ← hgranted, getCore_setCore]
    exact (tileOf_foldl_grantTile ks (getCore s core) k ha hb).trans (if_pos hk)

/-! ## Regions (R124 to R127) -/

variable {i : Issue} {w : IWord} {s : State} {c : Ctx}

/-- An instruction whose meaning keeps queue and pins answers what its meaning leaves, retired. -/
theorem answer_issue_keeps {form : Form} {body : Ctx → State} {u : State} (h : Issues i w (fun _ => form) s c) (hu : body (past w c) = u)
    (hq : u.pending = s.pending) (hp : u.pins = s.pins) : answer s (issue i w form body s) = .next (retired c u) := by
  rw [issue, answer_issueWith i w _ false body s c h, hu]
  exact congrArg _ (leaves_self _ _ ((modTeam_pending ..).trans hq) ((modTeam_pins ..).trans hp))

/-- To move past a word changes the current group alone. -/
theorem advance_ring (w : IWord) (t : Team) : ∃ r, advance w t = { t with ring := r } := by
  unfold advance Team.modHead
  split
  · exact ⟨t.ring, rfl⟩
  · exact ⟨_, rfl⟩

@[simp] theorem past_s : (past w c).s = c.s := rfl
@[simp] theorem past_core : (past w c).core = c.core := rfl
@[simp] theorem past_slot : (past w c).slot = c.slot := rfl
@[simp] theorem past_team : (past w c).team = c.team := rfl
@[simp] theorem past_b : (past w c).b = c.b := rfl
@[simp] theorem past_g : (past w c).g = c.g := rfl

@[simp] theorem past_harness : (past w c).t.harness = c.t.harness := by
  obtain ⟨r, hr⟩ := advance_ring w c.t
  rw [past, hr]

@[simp] theorem past_live : (past w c).t.live = c.t.live := by
  obtain ⟨r, hr⟩ := advance_ring w c.t
  rw [past, hr]

@[simp] theorem past_teamGuard : teamGuard w (past w c).t = teamGuard w c.t := by
  obtain ⟨r, hr⟩ := advance_ring w c.t
  rw [past, hr]
  rfl

theorem grantTiles_inputs (core slot team n : Nat) (s : State) :
    (grantTiles core slot team n s).pending = s.pending ∧ (grantTiles core slot team n s).pins = s.pins :=
  ⟨modTeam_pending .., modTeam_pins ..⟩

theorem freeTiles_inputs (core slot team : Nat) (s : State) :
    (freeTiles core slot team s).pending = s.pending ∧ (freeTiles core slot team s).pins = s.pins := by
  unfold freeTiles
  split
  · exact ⟨rfl, rfl⟩
  · exact ⟨modTeam_pending .., modTeam_pins ..⟩

/-- What an issued harness.open does, where its team has no region and all its live threads are in the group. -/
theorem harnessOpen_answers {u : State} (h : Issues i w (fun _ => openForm w) s c) (hn : c.t.harness = none) (hall : c.g.mask = c.t.live)
    (hu : requestTiles w.imm.toNat (past w c) = u) (hq : u.pending = s.pending) (hp : u.pins = s.pins) :
    exec (.harnessOpen i w) s = .next (retired c u) := by
  refine answer_issue_keeps h ?_ hq hp
  simp only [past_harness, hn, Option.isSome_none, past_g, past_live, hall, bne_self_eq_false, Bool.false_eq_true, if_false]
  exact hu

/-- Settles O23: a request is granted or queued as the harness stands, and a close frees the tiles once no matrix instruction is left. The state that the
statement names for a queued request takes its core from the state before the group's wait is set, so the group goes on there, where R126 has its team wait. -/
theorem harnessRegions : Obligations.HarnessRegions := by
  unfold Obligations.HarnessRegions
  intro i w s c
  refine ⟨fun h hn hall => ?opens, fun h hopen hidle => ?closes⟩
  case opens =>
    obtain ⟨_, rfl, _⟩ := ready_spec s i w c h.2.1
    refine ⟨fun hfirst hfree => ?granted, fun hwait => ?queued⟩
    case granted =>
      obtain ⟨hq, hp⟩ := grantTiles_inputs c.core c.slot c.team w.imm.toNat (c.put (past w c).t)
      refine harnessOpen_answers h hn hall ?_ (hq.trans (put_pending ..)) (hp.trans (put_pins ..))
      rw [requestTiles, if_pos]
      · rfl
      · simp [hfirst, hfree]
    case queued =>
      refine harnessOpen_answers h hn hall ?_ (put_pending ..) (put_pins ..)
      rw [requestTiles, if_neg]
      · rfl
      · intro hnow
        obtain ⟨hfirst, hfree⟩ := Bool.and_eq_true_iff.mp hnow
        exact hwait.elim (fun hq => hq (List.isEmpty_iff.mp hfirst)) (Nat.not_lt.mpr (of_decide_eq_true hfree))
  case closes =>
    obtain ⟨_, rfl, _⟩ := ready_spec s i w c h.2.1
    obtain ⟨hq, hp⟩ := freeTiles_inputs c.core c.slot c.team (c.put (past w c).t)
    refine answer_issue_keeps h ?_ (hq.trans (put_pending ..)) (hp.trans (put_pins ..))
    have hsome : c.t.harness.isNone = false := Option.isNone_eq_false_iff.mpr (Option.isSome_iff_ne_none.mpr hopen)
    simp only [past_harness, hsome, past_s, past_core, past_slot, past_team, hidle, Bool.false_eq_true, if_false]
    rfl

end Sys2Proof.Machine
end

section
/-! PROOFS. The MMA family (R130 to R141): what an instruction of the family leaves, and the elements of the tile that a product updates. -/

namespace Sys2Proof.Machine

variable {i : Issue} {w : IWord} {s : State} {c : Ctx}

/-! ## The matrix unit (R130, R139, R140) -/

/-- An instruction of the MMA family that meets no fault, that nothing holds back and for which the unit has room. -/
theorem mmaIssue_answers {form : Ctx → Form} {time time' : Nat × Nat} {sr : Bool} {rs : Ctx → List Rows} {act : Ctx → State × Flags}
    (h : Issues i w form s c) (htime : time = time') (hroom : notStarted (getCore s c.core).mmaQ < 8) (hlive : c.t.live = 0xFFFFFFFF)
    (hguard : teamGuard w c.t = true) (hrows : rowsFault c.b (rs (past w c)) = none)
    (hfree : blockedBy s c.core c.slot c.team s.nextAcc (compactPad s c.b.pad) ((rs (past w c)).flatMap (Rows.spans c.core c.slot)) = false)
    (hcopies : copiesBefore s c.core c.slot c.team s.nextAcc (compactPad s c.b.pad) ((rs (past w c)).flatMap (Rows.spans c.core c.slot)) = []) :
    answer s (mmaIssue i w form time sr rs act s) =
      .next (leaves s (retired c (enqueue time' (!(rs (past w c)).isEmpty) (past w c) (act (past w c))))) := by
  subst htime
  obtain ⟨_, rfl, hcore, _⟩ := ready_spec s i w c h.2.1
  have hturn : queueTurn i.core.val c.s = c.s := by rw [queueTurn, ← hcore, if_pos hroom]
  have hbusy : ¬ 8 ≤ notStarted (getCore c.s i.core.val).mmaQ := by rw [← hcore]; omega
  rw [mmaIssue, hturn, if_neg hbusy, answer_issueWith i w form false _ c.s c h]
  simp only [past_live, hlive, bne_self_eq_false, past_teamGuard, hguard, past_b, hrows, past_s, past_core, past_slot, past_team, hfree, hcopies,
    Bool.not_true, Bool.false_eq_true, if_false]
  rfl

/-- An instruction takes the last place in the unit's queue. -/
theorem getCore_enqueue_mmaQ (time : Nat × Nat) (store : Bool) (c : Ctx) (x : State × Flags) :
    (getCore (enqueue time store c x) c.core).mmaQ = (getCore x.1 c.core).mmaQ ++
      [{ slot := c.slot, team := c.team, flags := x.2, store := store, busy := time.1, done := time.2, started := false, own := true, frees := [] }] := by
  rw [enqueue, getCore_setCore]

theorem mmaTime_eq (w : IWord) : mmaTime w = if ext w 101 101 = 1 then (8, 36) else (16, 44) := by
  unfold mmaTime mmaCols
  by_cases h : ext w 101 101 = 1 <;> simp [h]

theorem accStTime_eq (w : IWord) :
    accStTime w = if (cvtDst w).width = 32 then (64, 84) else if (cvtDst w).width = 16 then (32, 52) else (16, 36) := by
  unfold accStTime
  split
  · next h => rw [if_pos h]
  · next h => rw [if_neg (by omega), if_pos h]
  · next h32 h16 => rw [if_neg h32, if_neg h16]

/-- Settles O25: each of the five is an MMA instruction with its own form, ranges, effect and time. -/
theorem matrixInstructions : Obligations.MatrixInstructions := by
  unfold Obligations.MatrixInstructions
  intro e he i w s c h
  dsimp only
  intro hroom hlive hguard hrows hfree hcopies
  refine ⟨?_, getCore_enqueue_mmaQ ..⟩
  simp only [List.mem_cons, List.not_mem_nil, or_false] at he
  rcases he with rfl | rfl | rfl | rfl | rfl
  · exact mmaIssue_answers h (mmaTime_eq w) hroom hlive hguard hrows hfree hcopies
  · exact mmaIssue_answers h rfl hroom hlive hguard hrows hfree hcopies
  · exact mmaIssue_answers h rfl hroom hlive hguard hrows hfree hcopies
  · exact mmaIssue_answers h (accStTime_eq w) hroom hlive hguard hrows hfree hcopies
  · exact mmaIssue_answers h rfl hroom hlive hguard hrows hfree hcopies

/-! ## The elements of a product (R131, R132, R134, R137) -/

/-- Element j of the i-th of some lists of one length, put one after another. -/
theorem getElem?_flatMap_const {α β : Type} (n : Nat) (f : α → List β) (l : List α) (h : ∀ x ∈ l, (f x).length = n) (i : Nat) {j : Nat} (hj : j < n) :
    (l.flatMap f)[n * i + j]? = l[i]?.bind fun x => (f x)[j]? := by
  induction l generalizing i with
  | nil => simp
  | cons x r ih =>
    have hx : (f x).length = n := h x (by simp)
    cases i with
    | zero => simp [List.getElem?_append_left, hx, hj]
    | succ i =>
      have hskip : n * (i + 1) + j - (f x).length = n * i + j := by rw [hx, Nat.mul_succ]; omega
      rw [List.flatMap_cons, List.getElem?_append_right (by rw [hx, Nat.mul_succ]; omega), hskip, ih (fun y hy => h y (by simp [hy]))]
      rfl

/-- A tile's elements once it is put from a list. -/
theorem tileOf_putTile (core k : Nat) (vals : List Nat) (s : State) {i j : Nat} (hi : i < 64) (hj : j < 64) :
    tileOf (getCore (putTile core k vals s) core) k i j = BitVec.ofNat 32 (vals[64 * i + j]?.getD 0) := by
  rw [putTile, getCore_setCore, tileOf_setTile _ _ _ _ hi hj, if_pos rfl, List.getElem?_toArray]

theorem matRows_length (m : MatFmt) (code : Nat) (t : FVal) (s : State) (c : Ctx) (r sc : Rows) : (matRows m code t s c r sc).length = r.rows := by
  rw [matRows, List.length_map, List.length_range]

/-- Settles O26: the element's place in the list of results is its row's, then its column's. -/
theorem tileElements : Obligations.TileElements := by
  unfold Obligations.TileElements
  intro w c i j hi hj
  dsimp only
  refine ⟨?product, by rw [accZeroAct, tileOf_putTile _ _ _ _ hi hj]; rfl⟩
  case product =>
    generalize ha : matRows (matOf w) w.fmt.toNat (fp32.decode (readU c.t (mmaTsc w)).toNat) c.s c (rowsA w c) (scalesA w c) = a
    generalize hb : matRows (matOf w) w.fmt.toNat (fp32.decode (readU c.t (mmaTsc w + 1)).toNat) c.s c (rowsB w c) (scalesB w c) = b
    have hia : i < a.length := by rw [← ha, matRows_length]; exact hi
    have hjb : j < b.length ↔ j < mmaCols w := by rw [← hb, matRows_length]; rfl
    rw [mmaAct]
    dsimp only
    rw [ha, hb, tileOf_putTile _ _ _ _ hi hj, List.getElem?_map, getElem?_flatMap_const 64 _ _ (by simp) i hj, List.getElem?_zipIdx,
      List.getElem?_eq_getElem hia]
    simp only [Option.map_some, Option.bind_some, List.getElem?_map, List.getElem?_range hj, Option.getD_some, Nat.zero_add]
    by_cases hcol : j < mmaCols w
    · rw [if_pos hcol, List.getElem?_eq_getElem (hjb.mpr hcol)]
      rfl
    · rw [if_neg hcol, List.getElem?_eq_none (Nat.not_lt.mp (mt hjb.mp hcol))]
      rw [BitVec.ofNat_toNat, BitVec.setWidth_eq]

end Sys2Proof.Machine
end

section
/-! PROOFS. The PATH family and the packets of paths (R151, R162 to R168, R180 to R184, R192): what a path.send comes to, and what becomes of a packet that
comes to its router. -/

namespace Sys2Proof.Machine

/-! ## path.send and path.inv (R181 to R183) -/

section
variable {i : Issue} {w : IWord} {s : State} {c : Ctx}

/-- A ready team has a current group, and moving past a word keeps one. -/
theorem past_ring (h : ready s i w = some c) : ∃ g r, (past w c).t.ring = g :: r := by
  have hring : ∃ g r, c.t.ring = g :: r := by
    unfold ready at h
    split at h
    · cases h
    · split at h
      · cases h
      · split at h
        · cases h
        · dsimp only at h
          split at h
          · cases h
          · next g r hg =>
            split at h
            · cases h
            · cases h
              exact ⟨g, r, hg⟩
  obtain ⟨g, r, hg⟩ := hring
  simp only [past, advance, Team.modHead, hg]
  exact ⟨_, _, rfl⟩

/-- A path.send of a group with lanes on answers what its meaning leaves. -/
theorem exec_pathSend (h : Issues i w (fun _ => sendForm) s c) (hon : c.on ≠ []) :
    exec (.pathSend i w) s = .next (leaves s (retired c (beginSend w (past w c)))) := by
  have hbody : (if (past w c).on.isEmpty then (past w c).put (past w c).t else beginSend w (past w c)) = beginSend w (past w c) :=
    if_neg (mt List.isEmpty_iff.mp hon)
  rw [← hbody]
  exact answer_issueWith i w _ false _ s c h

theorem beginSend_fault {code : Nat} (hf : sendFault c.b (read32 c.t 0 w.srcA w.imm) (read32 c.t 0 w.srcB w.imm) = some code) :
    beginSend w c = c.fault code := by
  simp only [beginSend, hf]

theorem beginSend_dropped (hf : sendFault c.b (read32 c.t 0 w.srcA w.imm) (read32 c.t 0 w.srcB w.imm) = none)
    (hp : sendPath c.s c.b (ext w 103 96) (read32 c.t 0 w.srcB w.imm) (read32 c.t 0 w.dst w.imm) = none) :
    beginSend w c = bumpPad c.b.pad 9 1 (c.put c.t) := by
  simp only [beginSend, hf, hp]

theorem beginSend_waits {g : TGroup} {r : List TGroup} (hf : sendFault c.b (read32 c.t 0 w.srcA w.imm) (read32 c.t 0 w.srcB w.imm) = none)
    (hp : sendPath c.s c.b (ext w 103 96) (read32 c.t 0 w.srcB w.imm) (read32 c.t 0 w.dst w.imm) ≠ none)
    (hb : blockedBy c.s c.core c.slot c.team c.s.nextAcc (compactPad c.s c.b.pad)
      (spansAt c.s c.b.pad c.b.tag 0 c.core c.slot 0 (read32 c.t 0 w.srcA w.imm) (read32 c.t 0 w.srcB w.imm)) = false)
    (hr : c.t.ring = g :: r) :
    let h : TGroup := { g with wait := some (.send (ext w 103 96) (read32 c.t 0 w.srcA w.imm) (read32 c.t 0 w.srcB w.imm)
      (BitVec.ofNat 32 (read32 c.t 0 w.srcC w.imm)) (read32 c.t 0 w.dst w.imm) c.s.nextAcc 0) }
    beginSend w c = trySend c.core c.slot c.team h (c.put { c.t with ring := h :: r }) := by
  obtain ⟨x, hx⟩ := Option.ne_none_iff_exists'.mp hp
  simp only [beginSend, hf, hx, hb, Team.modHead, hr, Bool.false_eq_true, if_false]

/-- Settles O31: by what the checks of a path.send find. -/
theorem pathInstructions : Obligations.PathInstructions := by
  unfold Obligations.PathInstructions
  intro i w s c
  refine ⟨fun h hon => ?send, fun h => ?inv⟩
  case send =>
    obtain ⟨_, rfl, _⟩ := ready_spec s i w c h.2.1
    rw [exec_pathSend h hon]
    refine ⟨fun code hf => ?fault, fun hf hp => ?dropped, fun hf hp hb => ?waits⟩
    case fault =>
      rw [beginSend_fault hf]
      rfl
    case dropped =>
      rw [beginSend_dropped hf hp]
      rfl
    case waits =>
      obtain ⟨g, r, hr⟩ := past_ring h.2.1
      refine ⟨g, r, hr, ?_⟩
      rw [beginSend_waits hf hp hb hr]
      rfl
  case inv => exact answer_issueTeam i w _ _ s c h

end

/-! ## What becomes of a packet at its router (R151, R162, R192) -/

section
variable {s : State} {id : Nat} {kind : BitVec 4} {bad : Option (Fin 1024)} {k : Pkt} {pl : Pipe} {p : PathRt}

/-- A sound packet whose check holds on the way is dropped nowhere. -/
theorem dropAt_sound (h : k.hchk = k.check ∧ k.refused = false ∧ k.inside s = true) : k.dropAt s none = none := by
  obtain ⟨hcheck, hfields, hplace⟩ := h
  simp [Pkt.dropAt, hcheck, hfields, hplace]

/-- Any other is dropped at its destination. -/
theorem dropAt_unsound (h : ¬ (k.hchk = k.check ∧ k.refused = false ∧ k.inside s = true)) : k.dropAt s none = some k.dest := by
  refine if_pos (Decidable.byContradiction fun hsound => h ?_)
  rw [Bool.not_eq_true, Bool.or_eq_false_iff, Bool.or_eq_false_iff, bne_eq_false_iff_eq, Bool.not_eq_false'] at hsound
  obtain ⟨⟨hcheck, hfields⟩, hplace⟩ := hsound
  exact ⟨hcheck, hfields, hplace⟩

variable (hk : (s.mesh.pkts.find? fun x => x.id == id && (x.kind == kind || decide (7 ≤ x.kind.toNat))) = some k) (hf : pktFirst s k = true)
include hk hf

theorem arrive_dropped {r : Nat} (hd : k.dropAt s bad = some r) : arrive kind id bad s = (bump (1024 + coreDie r) 1 (dropPkt id s), none) := by
  simp only [arrive, hk, hf, hd, Bool.not_true, Bool.false_eq_true, if_false]

theorem arrive_older (hd : k.dropAt s bad = none) (hp : pktPath s k = some (pl, p)) (hg : k.gen ≠ p.gen) :
    arrive kind id bad s = (bumpPad k.pad 11 1 (dropPkt id s), none) := by
  simp only [arrive, hk, hf, hd, hp, Bool.not_true, Bool.false_eq_true, if_false]
  exact if_pos hg

theorem arrive_current (hd : k.dropAt s bad = none) (hp : pktPath s k = some (pl, p)) (hg : k.gen = p.gen) :
    arrive kind id bad s = (dropPkt id s, some (k, pl, p)) := by
  simp only [arrive, hk, hf, hd, hp, Bool.not_true, Bool.false_eq_true, if_false]
  exact if_neg (not_not_intro hg)

end

/-! ## The rows of packets (R166 to R168, R180, R184) -/

/-- The pair of a CREDIT once its slots are back and the replay slots before SEQ free. -/
def creditedPair (k : Pkt) (pl : Pipe) (p : PathRt) : PairRt :=
  let r := getPair pl.recs p k.rank (k.m % 1024)
  { r with credits := r.credits.map (fun e => if e.1 = k.m then (e.1, e.2 + k.count) else e), replay := r.replay.filter fun x => decide (k.seq ≤ x.1) }

/-- One contribution alone, in the order of the input ports. -/
theorem single_in_input_order (k : Pkt) : ((List.range 5).flatMap fun i => [k].filter fun g => g.input.val == i) = [k] := by
  have hport : ∀ port : Fin 5, ((List.range 5).flatMap fun i => if (port.val == i) = true then [k] else []) = [k]
    | 0 => rfl
    | 1 => rfl
    | 2 => rfl
    | 3 => rfl
    | 4 => rfl
  simp only [List.filter_cons, List.filter_nil]
  exact hport k.input

section
variable {s u : State} {id : Nat} {bad : Option (Fin 1024)} (hw : atWork s = true)
include hw

theorem exec_pathData (h : pathData id bad s = u) : exec (.pathData ⟨id, bad⟩) s = .next (leaves s (finish u)) :=
  h ▸ answer_ifWork s (pathData id bad) hw

theorem exec_credit (h : credit id bad s = u) : exec (.credit ⟨id, bad⟩) s = .next (leaves s (finish u)) :=
  h ▸ answer_ifWork s (credit id bad) hw

theorem exec_red (h : red id bad s = u) : exec (.red ⟨id, bad⟩) s = .next (leaves s (finish u)) :=
  h ▸ answer_ifWork s (red id bad) hw

end

section
variable {s u : State} {id : Nat} {bad : Option (Fin 1024)} {k : Pkt} {pl : Pipe} {p : PathRt}

/-- A packet that is not handed on leaves what its arrival left, of whichever kind it is. -/
theorem pathData_gone (h : arrive 0 id bad s = (u, none)) : pathData id bad s = u := by rw [pathData, h]

theorem credit_gone (h : arrive 1 id bad s = (u, none)) : credit id bad s = u := by rw [credit, h]

theorem red_gone (h : arrive 2 id bad s = (u, none)) : red id bad s = u := by rw [red, h]

theorem pathData_lands {r : Nat × Nat × Nat} (h : arrive 0 id bad s = (u, some (k, pl, p)))
    (hr : ((receivers pl.recs p.cfg).find? fun r => r.1 == k.m && r.2.2 == k.dest) = some r) :
    pathData id bad s = landTile k.pad pl p r.1 r.2.1 r.2.2 k.rank k.seq k.offset k.last k.payload u := by
  simp only [pathData, h, hr]

theorem credit_returns (h : arrive 1 id bad s = (u, some (k, pl, p))) :
    credit id bad s = retrySends k.pad
      (modPath k.pad p.cfg.path.toNat (fun x => { x with pairs := tput x.pairs (pairKey p.cfg k.rank (k.m % 1024)) (creditedPair k pl p) }) u) := by
  simp only [credit, h, creditedPair]

/-- A contribution waits at a router that has more to come. -/
theorem red_waits (h : arrive 2 id bad s = (u, some (k, pl, p))) (he : u.mesh.red = []) (hn : 1 < fanIn pl.recs p.cfg k.dest) :
    red id bad s = { u with mesh := { u.mesh with red :=
      [{ router := k.dest, pad := k.pad, path := k.path, gen := k.gen, seq := k.seq, offset := k.offset, got := [k] }] } } := by
  simp only [red, h, he, List.find?_nil, List.filter_nil, List.nil_append, List.length_singleton, hn, if_true]

/-- At the consumer's router, which nothing more comes to, the tile is delivered. -/
theorem red_delivers {r : Nat × Nat × Nat} {rest : List (Nat × Nat × Nat)} (h : arrive 2 id bad s = (u, some (k, pl, p))) (he : u.mesh.red = [])
    (hn : fanIn pl.recs p.cfg k.dest ≤ 1) (hr : receivers pl.recs p.cfg = r :: rest) (hd : k.dest = r.2.2) :
    red id bad s = landTile k.pad pl p r.1 r.2.1 k.dest 0 k.seq 0 true (deliveredTile p.cfg (combinePkts p.cfg [k])) u := by
  have hself : { u with mesh := { u.mesh with red := [] } } = u := by rw [← he]
  simp only [red, h, he, List.find?_nil, List.filter_nil, List.nil_append, List.length_singleton, Nat.not_lt.mpr hn, if_false, hself, hr,
    single_in_input_order, if_pos hd]

end

/-- Settles O39: the packet's arrival drops it, counts it or hands it on, and the row then follows its kind. -/
theorem pathPackets : Obligations.PathPackets := by
  unfold Obligations.PathPackets
  intro s id k pl p hw hf hp
  refine ⟨fun bad r hd => ⟨fun hk => ?_, fun hk => ?_, fun hk => ?_⟩, dropAt_unsound, fun r => rfl,
    fun hs hg => ⟨fun hk => ?_, fun hk => ?_, fun hk => ?_⟩, fun r hs hg hk hr => ?lands, fun hs hg hk => ?credit, fun r rest hs hg hk he hr => ?red⟩
  · exact exec_pathData hw (pathData_gone (arrive_dropped hk hf hd))
  · exact exec_credit hw (credit_gone (arrive_dropped hk hf hd))
  · exact exec_red hw (red_gone (arrive_dropped hk hf hd))
  · exact exec_pathData hw (pathData_gone (arrive_older hk hf (dropAt_sound hs) hp hg))
  · exact exec_credit hw (credit_gone (arrive_older hk hf (dropAt_sound hs) hp hg))
  · exact exec_red hw (red_gone (arrive_older hk hf (dropAt_sound hs) hp hg))
  case lands => exact exec_pathData hw (pathData_lands (arrive_current hk hf (dropAt_sound hs) hp hg) hr)
  case credit => exact exec_credit hw (credit_returns (arrive_current hk hf (dropAt_sound hs) hp hg))
  case red =>
    have ha := arrive_current hk hf (dropAt_sound hs) hp hg
    exact ⟨fun hn => exec_red hw (red_waits ha he hn), fun hn hd => exec_red hw (red_delivers ha he hn hr hd)⟩

end Sys2Proof.Machine
end

section
/-! PROOFS. What a read by the Yardmaster (R175, R186) leaves of its commands in flight: all of them, whatever the read evicts, closes, repairs or reports. -/

namespace Sys2Proof.Machine

/-- What every step of a fold keeps, the fold keeps. -/
theorem foldl_keeps_ym {α : Type} (f : State → α → State) (h : ∀ s x, (f s x).ym = s.ym) (l : List α) (s : State) : (l.foldl f s).ym = s.ym :=
  List.foldlRecOn (motive := fun t : State => t.ym = s.ym) l f rfl fun t ht x _ => (h t x).trans ht

/-! ## Fault entries and error records (R462 to R464, R486, R544) -/

@[simp] theorem fqWrite_ym (q : Fin 2) (e : FaultEntry) (s : State) : (fqWrite q e s).ym = s.ym := sendMsix_ym ..

@[simp] theorem fqCount_ym (q : Fin 2) (e : FaultEntry) (s : State) : (fqCount q e s).ym = s.ym := rfl

@[simp] theorem fqMark_ym (q : Fin 2) (s : State) : (fqMark q s).ym = s.ym := by
  unfold fqMark
  dsimp only
  split
  · rw [setFq_ym, fqWrite_ym]
  · rfl

@[simp] theorem fqDeliver_ym (q : Fin 2) (e : FaultEntry) (s : State) : (fqDeliver q e s).ym = s.ym := by
  unfold fqDeliver
  dsimp only
  split
  · split
    · rw [fqWrite_ym, fqMark_ym]
    · rw [fqCount_ym, fqMark_ym]
  · rfl

@[simp] theorem holdEntry_ym (e : FaultEntry) (s : State) : (holdEntry e s).ym = s.ym := by
  unfold holdEntry
  split <;> rfl

@[simp] theorem writeEntry_ym (e : FaultEntry) (s : State) : (writeEntry e s).ym = s.ym := by
  unfold writeEntry
  dsimp only
  split
  · rw [holdEntry_ym]; rfl
  · rw [fqDeliver_ym, fqDeliver_ym]; rfl

@[simp] theorem putRecord_ym (r : ErrRecord) (s : State) : (putRecord r s).ym = s.ym := rfl

@[simp] theorem raiseErr_ym (e : Err) (s : State) : (raiseErr e s).ym = s.ym := by
  unfold raiseErr
  split
  · simp
  · split <;> simp

@[simp] theorem closeRecord_ym (u : Byte) (i : Nat) (s : State) : (closeRecord u i s).ym = s.ym := by
  unfold closeRecord
  split
  · rfl
  · split
    · dsimp only
      split
      · rw [writeEntry_ym]
      · rfl
    · rfl

@[simp] theorem handledN_ym (n : Nat) (u : Byte) (i : Nat) (s : State) : (handledN n u i s).ym = s.ym := by
  unfold handledN
  split
  · rfl
  · rw [closeRecord_ym, putRecord_ym]

@[simp] theorem report_ym (e : Err) (s : State) : (report e s).ym = s.ym := by rw [report, handled, handledN_ym, raiseErr_ym]

/-! ## The Stack: poison, stand-ins, row repair (R309, R311, R312, R323) -/

@[simp] theorem setStackMem_ym (half : Bool) (m : Mem) (s : State) : (setStackMem half m s).ym = s.ym := by
  unfold setStackMem
  split <;> rfl

@[simp] theorem cureUnit_ym (half : Bool) (u : Nat) (s : State) : (cureUnit half u s).ym = s.ym := by
  unfold cureUnit
  split <;> rfl

@[simp] theorem setPoison_ym (half barn : Bool) (u : Nat) (on : Bool) (s : State) : (setPoison half barn u on s).ym = s.ym := by
  unfold setPoison
  split
  · rfl
  · split
    · rfl
    · dsimp only
      split
      · rfl
      · rw [cureUnit_ym]

@[simp] theorem startStandIn_ym (x : StandIn) (s : State) : (startStandIn x s).ym = s.ym := by
  unfold startStandIn
  dsimp only
  split
  · rfl
  · split
    · rw [raiseErr_ym]
    · rw [report_ym, bump_ym]

@[simp] theorem repairRead_ym (k : Fin 16) (half : Bool) (u : Nat) (found : EccResult) (s : State) : (repairRead k half u found s).ym = s.ym := by
  cases found with
  | clean => rfl
  | corrected => rfl
  | uncorrectable => exact setPoison_ym ..

@[simp] theorem repairReads_ym (k : Fin 16) (l : Nat) (s : State) : (repairReads k l s).ym = s.ym :=
  foldl_keeps_ym _ (fun _ _ => repairRead_ym ..) _ s

@[simp] theorem candidate_ym (k : Fin 16) (pc : Fin 64) (bank row : Nat) (s : State) : (candidate k pc bank row s).ym = s.ym := by
  unfold candidate
  dsimp only
  split
  · rfl
  · split
    · rfl
    · split
      · rw [startStandIn_ym]
      · rw [report_ym, setStk_ym, repairReads_ym]

@[simp] theorem poisonUnit_ym (half : Bool) (u : Nat) (s : State) : (poisonUnit half u s).ym = s.ym := by
  unfold poisonUnit
  split
  · rfl
  · exact (candidate_ym ..).trans (setPoison_ym ..)

/-! ## The Loft: eviction, closing, reads of a line (R244, R245, R262, R263) -/

@[simp] theorem writeBackSector_ym (key : Nat) (f : Frame) (j : Nat) (s : State) : (writeBackSector key f j s).ym = s.ym := by
  unfold writeBackSector
  split
  · refine (foldl_keeps_ym _ (fun t i => ?_) _ _).trans (setStackMem_ym ..)
    split
    · rw [poisonUnit_ym]
    · rw [setPoison_ym]
  · rfl

@[simp] theorem writeBack_ym (key : Nat) (f : Frame) (s : State) : (writeBack key f s).ym = s.ym :=
  foldl_keeps_ym _ (fun _ _ => writeBackSector_ym ..) _ s

@[simp] theorem invalL1_ym (commons : Bool) (first : Nat) (d : Dir) (s : State) : (invalL1 commons first d s).ym = s.ym := rfl

@[simp] theorem dropFrame_ym (key : Nat) (s : State) : (dropFrame key s).ym = s.ym := by
  unfold dropFrame
  split <;> rfl

@[simp] theorem evictFrame_ym (key : Nat) (s : State) : (evictFrame key s).ym = s.ym := by
  unfold evictFrame
  split
  · rw [dropFrame_ym, writeBack_ym]
  · rfl

@[simp] theorem freeFrame_ym (pad key : Nat) (s : State) : (freeFrame pad key s).1.ym = s.ym := by
  unfold freeFrame
  dsimp only
  split
  · rfl
  · split
    · exact evictFrame_ym ..
    · rfl

theorem freeFrame_eq_ym {pad key : Nat} {s t : State} {x : Option Nat} (h : freeFrame pad key s = (t, x)) : t.ym = s.ym := by
  rw [← freeFrame_ym pad key s, h]

@[simp] theorem holdLine_ym (u : Use) (key : Nat) (s : State) : (holdLine u key s).1.ym = s.ym := by
  unfold holdLine
  split
  · rfl
  · split
    · rfl
    · split
      · next h => exact freeFrame_eq_ym h
      · next h => exact freeFrame_eq_ym h

theorem holdLine_eq_ym {u : Use} {key : Nat} {s t : State} {x : Option Frame} (h : holdLine u key s = (t, x)) : t.ym = s.ym := by
  rw [← holdLine_ym u key s, h]

@[simp] theorem useSlot_ym (pad slot : Nat) (on : Bool) (s : State) : (useSlot pad slot on s).ym = s.ym := modPad_ym ..

@[simp] theorem modTeam_ym (core slot team : Nat) (f : Team → Team) (s : State) : (modTeam core slot team f s).ym = s.ym := by
  obtain ⟨_, h⟩ := modTeam_cases core slot team f s
  rw [h]

@[simp] theorem closeFlags_ym (u : Use) (f : Flags) (s : State) : (closeFlags u f s).ym = s.ym := by
  unfold closeFlags
  split
  · split
    · rfl
    · rw [modTeam_ym]
  · rfl

@[simp] theorem closeLine_ym (u : Use) (key : Nat) (s : State) : (closeLine u key s).ym = s.ym := by
  unfold closeLine
  split
  · rfl
  · dsimp only
    split
    · next h =>
      rw [setFrames_ym, freeFrame_eq_ym h]
      split <;> simp
    · next h =>
      rw [writeBack_ym, freeFrame_eq_ym h]
      split <;> simp

@[simp] theorem storeLine_ym (u : Use) (key : Nat) (f : Frame) (s : State) : (storeLine u key f s).ym = s.ym := rfl

@[simp] theorem fillL1_ym (core : Nat) (x : L1Sector) (s : State) : (fillL1 core x s).ym = s.ym := rfl

@[simp] theorem stackRead_ym (u : Use) (half : Bool) (a n : Nat) (s : State) : (stackRead u half a n s).1.ym = s.ym := by
  unfold stackRead
  dsimp only
  generalize lineKey half (a / 1024) = key
  split
  · next h => exact (holdLine_eq_ym h).trans (closeLine_ym ..)
  · next h =>
    have ht := (holdLine_eq_ym h).trans (closeLine_ym ..)
    split
    · dsimp only
      rw [foldl_keeps_ym _ fun _ _ => fillL1_ym .., storeLine_ym, ht]
    · rw [storeLine_ym, ht]

/-! ## A range of an address space (R282, R284, R286) -/

@[simp] theorem noteLook_ym (unit tag : Nat) (epoch : W16) (va : Nat) (s : State) : (noteLook unit tag epoch va s).ym = s.ym := by
  unfold noteLook
  split <;> rfl

@[simp] theorem prefetchLook_ym (unit tag : Nat) (epoch : W16) (next : Nat) (s : State) : (prefetchLook unit tag epoch next s).ym = s.ym := by
  simp only [prefetchLook]
  split
  · rfl
  · rw [apply_ite State.ym, noteLook_ym, ite_self]

@[simp] theorem Eng.noteLook_ym (g : Eng) (va n : Nat) (s : State) : (g.noteLook va n s).ym = s.ym := by
  unfold Eng.noteLook
  dsimp only
  split <;> simp

@[simp] theorem rangeRead_ym (g : Eng) (barn : Bool) (va n : Nat) (s : State) : (rangeRead g barn va n s).1.ym = s.ym := by
  unfold rangeRead
  refine List.foldlRecOn (motive := fun acc : State × List Byte × List Nat × Bool => acc.1.ym = s.ym) _ _ rfl fun acc hacc c _ => ?_
  obtain ⟨t, bs, psn, ref⟩ := acc
  dsimp only at hacc ⊢
  split
  · exact (Eng.noteLook_ym ..).trans hacc
  · split
    · exact (Eng.noteLook_ym ..).trans hacc
    · exact ((stackRead_ym ..).trans (Eng.noteLook_ym ..)).trans hacc

@[simp] theorem countRefusal_ym (pad : Nat) (met already : Bool) (s : State) : (countRefusal pad met already s).ym = s.ym := by
  unfold countRefusal
  split <;> rfl

@[simp] theorem yardRead_ym (pad tag va n : Nat) (s : State) : (yardRead pad tag va n s).1.ym = s.ym := by
  rw [yardRead, countRefusal_ym, rangeRead_ym]

@[simp] theorem readTable_ym (pad tag va : Nat) (s : State) : (readTable pad tag va s).1.ym = s.ym := by
  simp only [readTable, yardRead_ym]

end Sys2Proof.Machine
end

section
/-! PROOFS. The work commands (R171, R186, R187, R190, R381, R382, R411, R413): what each begins, and that it then waits or has its entry. -/

namespace Sys2Proof.Machine

/-! ## The state in which a packet has been taken -/

section
variable {h : CmdHdr} {b : Body} {s u : State}

/-- Taking a packet that is no launch and no BEAT.SET changes the rings and the commands in flight alone. -/
theorem taken_eq (hb : b.isBeatSet = false) (hl : b.isLaunch = false) :
    ∃ g y, taken h b s = { s with rings := g, ym := y } := by
  simp only [taken, takenAs, seen, hb, hl, Bool.false_eq_true, if_false]
  exact ⟨_, _, rfl⟩

theorem getPad_taken (hb : b.isBeatSet = false) (hl : b.isLaunch = false) {pad : Nat} : getPad (taken h b s) pad = getPad s pad := by
  obtain ⟨g, y, e⟩ := taken_eq (h := h) (s := s) hb hl
  rw [e]
  rfl

/-- The answer of a command that goes on and leaves the commands in flight as they are. -/
theorem answer_command_goesOn (t : Takes h b s) (e : beginBody (begunCmd h b s) (taken h b s) = u) (hu : u.ym = (taken h b s).ym) :
    answer s (command h b s) = .next (begins s u) :=
  answer_command_begun h b s u t e (hu ▸ taken_begun h b s t)

end

/-! ## Paddocks and pipelines changed -/

section
variable {s : State} {pad : Nat} {d : Pad} {pl : Pipe}

theorem getPad_modPad (f : Pad → Pad) (h : getPad s pad = some d) : getPad (modPad pad f s) pad = some (f d) := by
  have h' : tfind s.pads pad = some d := h
  simp only [modPad, h']
  exact tfind_tput_self ..

theorem getPipe_eq (h : getPad s pad = some d) (hp : d.pipe = some pl) : getPipe s pad = some pl := by rw [getPipe, h]; exact hp

theorem getPipe_modPipe (f : Pipe → Pipe) (h : getPad s pad = some d) (hp : d.pipe = some pl) : getPipe (modPipe pad f s) pad = some (f pl) :=
  getPipe_eq (getPad_modPad _ h) (by simp only [hp])

theorem modPipe_ym (f : Pipe → Pipe) : (modPipe pad f s).ym = s.ym := by rw [modPipe, modPad_ym]

theorem modPad_beat (f : Pad → Pad) : (modPad pad f s).beat = s.beat := by
  unfold modPad
  split <;> rfl

end

/-! ## JOB.LAUNCH (R381) -/

section
variable {h : CmdHdr} {s : State} {d : Pad} {p : LaunchParams}

/-- A launch is counted as it is taken. -/
theorem getPad_taken_launch (hd : getPad s h.paddock.toNat = some d) :
    getPad (taken h (.jobLaunch p) s) h.paddock.toNat = some { d with accepted := d.accepted + 1 } :=
  getPad_modPad (s := setRing h.ring.val _ (visitRing h.ring.val s)) _ hd

theorem cores_taken_launch : (taken h (.jobLaunch p) s).cores = s.cores := by
  obtain ⟨g, x, r, f, e⟩ := takenAs_eq (begunCmd h (.jobLaunch p) s) h (.jobLaunch p) s
  rw [taken, e]

theorem launchOk_taken (hd : getPad s h.paddock.toNat = some d) :
    launchOk (taken h (.jobLaunch p) s) h.paddock.toNat p = launchOk s h.paddock.toNat p := by
  have hc : ∀ n, coreOfPad (taken h (.jobLaunch p) s) h.paddock.toNat n = coreOfPad s h.paddock.toNat n := fun n => by
    simp only [coreOfPad, getCore, getPad_taken_launch hd, hd, cores_taken_launch]
  simp only [launchOk, getPad_taken_launch hd, hd, hc]

theorem beginLaunch_ok {c : Cmd} (hok : launchOk s c.hdr.paddock.toNat p = true) :
    beginLaunch c p s = modPad c.hdr.paddock.toNat (fun d => { d with
      launches := d.launches ++ [{ id := d.nextLaunch, cmd := some c.seq, p := p, next := 0, ended := 0, first := none, mhz := 0 }],
      nextLaunch := d.nextLaunch + 1 }) s := by
  simp only [beginLaunch, hok, Bool.not_true, Bool.false_eq_true, if_false]

end

/-! ## PIPE.LOAD (R171, R186, R187) -/

section
variable {s : State} {c : Cmd} {d : Pad} {a : W64} {tag : BitVec 10}

theorem loadPipe_ym (pad : Nat) (table : W64) (tag : Nat) (t : Table) (s : State) : (loadPipe pad table tag t s).ym = s.ym := by
  rw [loadPipe, modPad_ym]

/-- In a paddock that has no pipeline and serves none, no check but admission keeps a table out. -/
theorem loadOk_empty (hd : getPad s c.hdr.paddock.toNat = some d) (hp : d.pipe = none) (hs : d.p.serve = 0) :
    loadOk s c.hdr.paddock.toNat tag = true ∧ ∀ t, depthOk d t = true :=
  ⟨by simp [loadOk, hd, pipeActive, hp, hs], fun t => by simp [depthOk, hs]⟩

theorem beginLoad_admitted {r : State × Table} (hd : getPad s c.hdr.paddock.toNat = some d) (hp : d.pipe = none) (hs : d.p.serve = 0)
    (hr : readTable c.hdr.paddock.toNat tag.toNat a.toNat s = r) (ha : admission r.1 c.hdr.paddock.toNat r.2 (fun _ => []) = none) :
    beginLoad c a tag s = writeStatus c.seq done [] (loadPipe c.hdr.paddock.toNat a tag.toNat r.2 r.1) := by
  obtain ⟨hload, hdepth⟩ := loadOk_empty (tag := tag) hd hp hs
  simp only [beginLoad, hd, hload, hdepth, hr, ha, Bool.not_true, Bool.false_eq_true, if_false]

theorem beginLoad_notAdmitted {r : State × Table} {x : Nat × Nat} (hd : getPad s c.hdr.paddock.toNat = some d) (hp : d.pipe = none)
    (hs : d.p.serve = 0) (hr : readTable c.hdr.paddock.toNat tag.toNat a.toNat s = r)
    (ha : admission r.1 c.hdr.paddock.toNat r.2 (fun _ => []) = some x) : beginLoad c a tag s = notAdmittedEntry c.seq x r.1 := by
  obtain ⟨hload, hdepth⟩ := loadOk_empty (tag := tag) hd hp hs
  simp only [beginLoad, hd, hload, hdepth, hr, ha, Bool.not_true, Bool.false_eq_true, if_false]

end

/-! ## PIPE.START (R180, R382) -/

section
variable {s : State} {pad : Nat} {pl : Pipe} {st : StartRt}

theorem zeroLandings_eq (h : getPipe s pad = some pl) :
    zeroLandings pad s =
      ((pl.pathRecs.flatMap fun r => landingPosts pl.recs r).filterMap fun k => padPost s pad k).foldl (fun t d => setPostValue d 0 t) s := by
  rw [zeroLandings, h]

/-- Zeroing posts changes the posts alone. -/
theorem foldl_setPostValue_cases (l : List Nat) (s : State) : ∃ x, l.foldl (fun t d => setPostValue d 0 t) s = { s with posts := x } :=
  List.foldlRecOn (motive := fun t : State => ∃ x, t = { s with posts := x }) l _ ⟨s.posts, rfl⟩
    (by rintro _ ⟨x, rfl⟩ k _; exact ⟨_, rfl⟩)

theorem zeroLandings_cases (pad : Nat) (s : State) : ∃ x, zeroLandings pad s = { s with posts := x } := by
  unfold zeroLandings
  split
  · exact ⟨s.posts, rfl⟩
  · exact foldl_setPostValue_cases ..

/-- Before its beat a start is not accepted. -/
theorem acceptStart_early (hp : getPipe s pad = some pl) (hst : pl.start = some st) (hb : reached s st.b0.toNat = false) : acceptStart pad s = s := by
  unfold acceptStart
  split
  · next h0 =>
    have hlim : s.beat.count.toNat < st.b0.toNat := by simpa [reached, h0] using hb
    simp only [acceptUpto, hp, hst, hlim, decide_true, Bool.or_true, if_true]
  · rfl

theorem beginStart_early {c : Cmd} {d : Pad} {p : StartParams} (hd : getPad s c.hdr.paddock.toNat = some d) (hp : d.pipe = some pl)
    (hs : pl.start = none) (hb : reached s p.b0.toNat = false) :
    beginStart c p s = modPipe c.hdr.paddock.toNat (fun q => { q with
      start := some { b0 := p.b0, first := 0, seed := p.seed, count := p.count, epost := p.epost, accepted := false, ended := false, cmd := some c.seq },
      stages := q.stages.map (fun x => { x with inv := 0, running := false, told := 0 }),
      paths := q.paths.map fun x => { x with pairs := [], commits := [] } }) (zeroLandings c.hdr.paddock.toNat s) := by
  have hq := getPipe_eq hd hp
  obtain ⟨x, hz⟩ := zeroLandings_cases c.hdr.paddock.toNat s
  have hreached : ∀ f n, reached (modPipe c.hdr.paddock.toNat f (zeroLandings c.hdr.paddock.toNat s)) n = reached s n := fun f n => by
    rw [reached, modPipe, modPad_beat, hz]
    rfl
  have hpad : getPad (zeroLandings c.hdr.paddock.toNat s) c.hdr.paddock.toNat = some d := by rw [hz]; exact hd
  simp only [beginStart, hq, hs, Option.any_none, Bool.false_eq_true, if_false]
  rw [acceptStart_early (getPipe_modPipe _ hpad hp) rfl ((hreached _ _).trans hb), hreached, hb]
  rfl

end

/-! ## PIPE.MOVE (R190) -/

theorem moveAdmission_taken (h : CmdHdr) (p : MoveParams) (s : State) (pad : Nat) (pl : Pipe) (k px py : Nat) :
    moveAdmission (taken h (.pipeMove p) s) pad pl k px py = moveAdmission s pad pl k px py := by
  obtain ⟨g, y, e⟩ := taken_eq (h := h) (b := .pipeMove p) (s := s) rfl rfl
  rw [e]
  rfl

section
variable {s : State} {c : Cmd} {p : MoveParams} {pl : Pipe}

theorem beginPipeMove_admitted (hp : getPipe s c.hdr.paddock.toNat = some pl)
    (ha : moveAdmission s c.hdr.paddock.toNat pl p.stage.toNat p.px.toNat p.py.toNat = none) :
    beginPipeMove c p s = reserveMove (some c.seq) c.hdr.paddock.toNat p.stage.toNat p.px.toNat p.py.toNat s := by
  simp only [beginPipeMove, hp, ha]

theorem beginPipeMove_notAdmitted {x : Nat × Nat} (hp : getPipe s c.hdr.paddock.toNat = some pl)
    (ha : moveAdmission s c.hdr.paddock.toNat pl p.stage.toNat p.px.toNat p.py.toNat = some x) :
    beginPipeMove c p s = notAdmittedEntry c.seq x s := by
  simp only [beginPipeMove, hp, ha]

end

/-! ## BATCH.SUBMIT, SEQ.JOIN, SEQ.LEAVE (R411, R413) -/

section
variable {s : State} {c : Cmd} {d : Pad}

theorem logServing_ym (pad : Nat) (c : Cmd) (s : State) : (logServing pad c s).ym = s.ym := rfl

theorem beginBatch_queued {p : BatchParams} (hd : getPad s c.hdr.paddock.toNat = some d) (hok : batchOk s c.hdr.paddock.toNat p = true)
    (hlen : p.len.toNat = 64 + 32 * (fldAt (yardRead c.hdr.paddock.toNat d.p.taglo.toNat p.addr.toNat 64 s).2 8 2 % 2048))
    (hroom : (d.batches.filter fun b => b.step.isNone).length < 16) :
    beginBatch c p s = writeStatus c.seq accepted [] (logServing c.hdr.paddock.toNat c (countAccepted c.hdr.paddock.toNat
      (modPad c.hdr.paddock.toNat (fun d => { d with batches := d.batches ++ [{ hdrTag := c.hdr.tag, p := p, step := none, counted := false }] })
        (yardRead c.hdr.paddock.toNat d.p.taglo.toNat p.addr.toNat 64 s).1))) := by
  simp only [beginBatch, hok, hd, ← hlen, Nat.not_le.mpr hroom, bne_self_eq_false, Bool.not_true, Bool.false_eq_true, if_false]

theorem beginJoin_queued {p : JoinParams} (hd : getPad s c.hdr.paddock.toNat = some d) (hok : joinOk s c.hdr.paddock.toNat p = true)
    (hroom : (d.seqs.filter fun q => q.state == .pending).length < 4096) :
    beginJoin c p s = writeStatus c.seq accepted (leBytes 4 d.nextSeq.toNat) (logServing c.hdr.paddock.toNat c (countAccepted c.hdr.paddock.toNat
      (modPad c.hdr.paddock.toNat (fun d => { d with seqs := d.seqs ++ [freshSeq d.nextSeq p], nextSeq := d.nextSeq + 1 }) s))) := by
  simp only [beginJoin, hok, hd, Nat.not_le.mpr hroom, Bool.not_true, Bool.false_eq_true, if_false]

theorem beginLeave_serving (hd : getPad s c.hdr.paddock.toNat = some d) (hs : d.p.serve = 1) :
    beginLeave c s = logServing c.hdr.paddock.toNat c s := by
  simp only [beginLeave, hd, hs, beq_self_eq_true, if_true]

end

/-- Settles O45: command by command, from what each begins on the state in which its packet has been taken. -/
theorem workCommands : Obligations.WorkCommands := by
  unfold Obligations.WorkCommands
  intro h s d pad hd
  have hget {b : Body} (hb : b.isBeatSet = false) (hl : b.isLaunch = false) : getPad (taken h b s) pad = some d := (getPad_taken hb hl).trans hd
  refine ⟨fun p t hok => ⟨?launch, by rw [getPad_taken_launch hd]; rfl⟩, fun a tag t hp hs => ⟨fun ha => ?loaded, fun x ha => ?refusedLoad⟩,
    fun p pl t hp hst hb => ?start, fun p pl t hp => ⟨fun ha => ?reserved, fun x ha => ?refusedMove⟩, fun p t hok => ?batch,
    fun p t hok hroom => ?join, fun q t hs => ?leave⟩
  case launch =>
    exact answer_command_goesOn t (beginLaunch_ok ((launchOk_taken hd).trans hok)) (modPad_ym ..)
  case loaded =>
    have e := beginLoad_admitted (c := begunCmd h (.pipeLoad a tag) s) (hget (b := .pipeLoad a tag) rfl rfl) hp hs rfl ha
    exact answer_command_status h _ s _ _ _ t e (by rw [loadPipe_ym, readTable_ym])
  case refusedLoad =>
    have e := beginLoad_notAdmitted (c := begunCmd h (.pipeLoad a tag) s) (hget (b := .pipeLoad a tag) rfl rfl) hp hs rfl ha
    exact answer_command_status h _ s _ _ _ t e (by rw [readTable_ym])
  case start =>
    obtain ⟨g, y, e⟩ := taken_eq (h := h) (b := .pipeStart p) (s := s) rfl rfl
    have hreached : reached (taken h (.pipeStart p) s) p.b0.toNat = false := by rw [e]; exact hb
    have hposts : ∀ k, padPost (taken h (.pipeStart p) s) pad k = padPost s pad k := fun k => by rw [e]; rfl
    have hzero := zeroLandings_eq (getPipe_eq (hget (b := .pipeStart p) rfl rfl) hp)
    simp only [hposts] at hzero
    refine answer_command_goesOn t ((beginStart_early (hget rfl rfl) hp hst hreached).trans (congrArg _ hzero)) ?_
    obtain ⟨x, hx⟩ := zeroLandings_cases pad (taken h (.pipeStart p) s)
    rw [modPipe_ym, ← hzero, hx]
  case reserved =>
    exact answer_command_goesOn t (beginPipeMove_admitted (getPipe_eq (hget rfl rfl) hp) ((moveAdmission_taken ..).trans ha))
      (by rw [reserveMove, modPipe_ym])
  case refusedMove =>
    exact answer_command_status h _ s _ _ _ t (beginPipeMove_notAdmitted (getPipe_eq (hget rfl rfl) hp) ((moveAdmission_taken ..).trans ha)) rfl
  case batch =>
    intro r hlen hroom
    have hok' : batchOk (taken h (.batchSubmit p) s) pad p = true := by
      rw [← hok, batchOk, batchOk, hget (b := .batchSubmit p) rfl rfl, hd]
    refine answer_command_status h _ s _ _ _ t (beginBatch_queued (hget rfl rfl) hok' hlen hroom) ?_
    rw [logServing_ym, countAccepted, modPad_ym, modPad_ym, yardRead_ym]
  case join =>
    have hok' : joinOk (taken h (.seqJoin p) s) pad p = true := by
      rw [← hok, joinOk, joinOk, hget (b := .seqJoin p) rfl rfl, hd]
    refine answer_command_status h _ s _ _ _ t (beginJoin_queued (hget rfl rfl) hok' hroom) ?_
    rw [logServing_ym, countAccepted, modPad_ym, modPad_ym]
  case leave =>
    exact answer_command_goesOn t (beginLeave_serving (hget rfl rfl) hs) rfl

end Sys2Proof.Machine
end

section
/-! PROOFS. The POST family (R222 to R229): what an update that a team sends comes to, and what a wait and a read leave. -/

namespace Sys2Proof.Machine

variable {i : Issue} {w : IWord} {s : State} {c : Ctx}

/-! ## Updates of a team (R212, R222, R227) -/

/-- A change of the team leaves the posts, and what every handle names. -/
theorem put_posts (t : Team) : (c.put t).posts = c.s.posts := by
  obtain ⟨cs, e⟩ := modTeam_cases c.core c.slot c.team (fun _ => t) c.s
  rw [Ctx.put, e]

theorem handlePost_put (t : Team) (pad : Nat) (h : W32) : handlePost (c.put t) pad h = handlePost c.s pad h := by
  obtain ⟨cs, e⟩ := modTeam_cases c.core c.slot c.team (fun _ => t) c.s
  rw [Ctx.put, e]
  rfl

theorem mapWhere_none {α : Type} {p : α → Bool} {f : α → α} {l : List α} (h : ∀ x ∈ l, p x = false) : mapWhere p f l = l :=
  (List.map_congr_left fun x hx => by rw [h x hx]; rfl).trans (List.map_id l)

/-- The update that a team sends: behind the accesses, copies and sends that it has begun. -/
def teamUpd (c : Ctx) (d : Nat) (isSet : Bool) (v : Nat) : PostUpd :=
  { id := c.s.posts.nextId, post := d, isSet := isSet, value := v, pad := some c.b.pad, after := accsBefore c, sends := sendsBefore c,
    team := some (c.core, c.slot, c.team), since := c.s.nextAcc }

section
variable {isSet : Bool} {v d : Nat} (hon : c.on ≠ []) (hid : ∀ u ∈ c.s.posts.upds, u.id < c.s.posts.nextId)
include hid

/-- The updates on their way have smaller numbers than the next. -/
theorem upds_keep (f : PostUpd → PostUpd) : mapWhere (fun x => decide (c.s.posts.nextId ≤ x.id)) f c.s.posts.upds = c.s.posts.upds :=
  mapWhere_none fun u hu => decide_eq_false (Nat.not_le.mpr (hid u hu))

theorem upds_append_next (f : PostUpd → PostUpd) {u : PostUpd} (hu : u.id = c.s.posts.nextId) :
    mapWhere (fun x => decide (c.s.posts.nextId ≤ x.id)) f (c.s.posts.upds ++ [u]) = c.s.posts.upds ++ [f u] := by
  have hnext : (mapWhere (fun x => decide (c.s.posts.nextId ≤ x.id)) f [u]) = [f u] := by simp [mapWhere, hu]
  rw [mapWhere, List.map_append, ← mapWhere, ← mapWhere, upds_keep hid, hnext]

include hon

/-- Of the updates on their way only the new one takes the team's name. -/
theorem sendTeamUpd_sent (hd : handlePost c.s c.b.pad (postHandle w c) = some d) :
    sendTeamUpd isSet w v c =
      { c.put c.t with posts := { c.s.posts with upds := c.s.posts.upds ++ [teamUpd c d isSet v], nextId := c.s.posts.nextId + 1 } } := by
  simp only [sendTeamUpd, List.isEmpty_iff, hon, if_false, updHandle, handlePost_put, hd, sendUpd, put_posts]
  rw [upds_append_next hid _ rfl]
  rfl

/-- One that is dropped leaves those on their way as they are. -/
theorem sendTeamUpd_dropped (hd : handlePost c.s c.b.pad (postHandle w c) = none) :
    sendTeamUpd isSet w v c = bumpPad c.b.pad 7 1 (c.put c.t) := by
  have hposts : (bumpPad c.b.pad 7 1 (c.put c.t)).posts = c.s.posts := put_posts c.t
  simp only [sendTeamUpd, List.isEmpty_iff, hon, if_false, updHandle, handlePost_put, hd, hposts]
  rw [upds_keep hid, ← hposts]

end

/-! ## Waits and reads (R222, R224, R228) -/

/-- A wait that no update or access of its team comes before registers. -/
theorem startWait_registers (hon : c.on ≠ []) (hown : ownUpd w c = false) :
    startWait w c = registerWait (.group c.core c.slot c.team c.g.born) (coreDie c.core) (handlePost c.s c.b.pad (postHandle w c)) (postTarget w c)
      (c.put (c.t.modHead fun g => { g with wait := some (.post (w.mod == 1) c.s.nextAcc) })) := by
  simp only [startWait, List.isEmpty_iff, hon, hown, Bool.false_eq_true, if_false]

/-- The count that a handle reads: zero where it names no post. -/
def handleCount (s : State) (pad : Nat) (h : W32) : Nat := match handlePost s pad h with | some d => (postValue s d).toNat | none => 0

theorem postRead_eq : postRead w c =
    if w.imm = 0 then handleCount c.s c.b.pad (postHandle w c) % 2 ^ 32 else handleCount c.s c.b.pad (postHandle w c) / 2 ^ 32 := by
  unfold postRead handleCount
  cases handlePost c.s c.b.pad (postHandle w c) with
  | some d => rfl
  | none => simp only [Nat.zero_mod, Nat.zero_div, ite_self]

section
variable {form : Form} {isSet : Bool} {v : Ctx → Nat} (h : Issues i w (fun _ => form) s c) (hon : c.on ≠ [])
  (hid : ∀ u ∈ s.posts.upds, u.id < s.posts.nextId)
include h hon hid

/-- The answer of an add or a set, whose value its form's operands give. -/
theorem answer_sendTeamUpd_sent {d : Nat} (hd : handlePost s c.b.pad (postHandle w (past w c)) = some d) :
    answer s (issue i w form (fun c => sendTeamUpd isSet w (v c) c) s) = .next (retired c { c.put (past w c).t with
      posts := { s.posts with upds := s.posts.upds ++ [teamUpd (past w c) d isSet (v (past w c))], nextId := s.posts.nextId + 1 } }) := by
  obtain ⟨_, rfl, _⟩ := ready_spec s i w c h.2.1
  exact answer_issue_keeps h (sendTeamUpd_sent (c := past w c) hon hid hd) (put_pending c _) (put_pins c _)

theorem answer_sendTeamUpd_dropped (hd : handlePost s c.b.pad (postHandle w (past w c)) = none) :
    answer s (issue i w form (fun c => sendTeamUpd isSet w (v c) c) s) = .next (retired c (bumpPad c.b.pad 7 1 (c.put (past w c).t))) := by
  obtain ⟨_, rfl, _⟩ := ready_spec s i w c h.2.1
  exact answer_issue_keeps h (sendTeamUpd_dropped (c := past w c) hon hid hd) (put_pending c _) (put_pins c _)

end

/-- Settles O30: an update is sent or dropped as its handle names a post or none; a wait and a read that nothing of their team comes before go on at once. -/
theorem postInstructions : Obligations.PostInstructions := by
  unfold Obligations.PostInstructions
  intro i w s c p handle post value long upd sends hid hon
  refine ⟨fun h => ?add, fun h => ?set, fun h hown => ?wait, fun h hown => ?read⟩
  all_goals obtain ⟨_, rfl, _⟩ := ready_spec s i w c h.2.1
  case add => exact ⟨fun d hd => answer_sendTeamUpd_sent h hon hid hd, fun hd => answer_sendTeamUpd_dropped h hon hid hd⟩
  case set => exact ⟨fun d hd => answer_sendTeamUpd_sent h hon hid hd, fun hd => answer_sendTeamUpd_dropped h hon hid hd⟩
  case wait =>
    have hbody := startWait_registers (w := w) (c := past w c) hon hown
    exact (answer_issueWith i w _ false (startWait w) _ c h).trans (by rw [hbody]; rfl)
  case read =>
    refine answer_issue_keeps h ((if_neg (Bool.eq_false_iff.mp hown)).trans ?_) (put_pending ..) (put_pins ..)
    simp only [postRead_eq]
    rfl

end Sys2Proof.Machine
end

section
/-! PROOFS. Posts at their home (R223, R224, R231, R384): what an update, a poll and a timeout come to. -/

namespace Sys2Proof.Machine

/-- A post has the value that it was last given: zero is not listed. -/
@[simp] theorem postValue_setPostValue (d : Nat) (v : W48) (s : State) : postValue (setPostValue d v s) d = v := by
  rw [postValue, setPostValue_posts]
  by_cases hv : v = 0
  · rw [if_pos hv, tget_tdel, if_pos rfl, hv]
  · rw [if_neg hv, tget_tput_self]

section
variable {s : State} {u : PostUpd}

/-! ## Updates (R223) -/

theorem applyUpd_set (h : u.isSet = true) : applyUpd u s = releaseWaits u.post (setPostValue u.post (BitVec.ofNat 48 u.value) s) := if_pos h

theorem applyUpd_add (h : u.isSet = false) (hlt : (postValue s u.post).toNat + u.value < 2 ^ 48) :
    applyUpd u s = releaseWaits u.post (setPostValue u.post (BitVec.ofNat 48 ((postValue s u.post).toNat + u.value)) s) := by
  rw [applyUpd, if_neg (Bool.eq_false_iff.mp h), if_neg (Nat.not_le.mpr hlt)]

theorem applyUpd_saturates {p : Nat} (h : u.isSet = false) (hp : u.pad = some p) (hge : 2 ^ 48 ≤ (postValue s u.post).toNat + u.value) :
    applyUpd u s = releaseWaits u.post (setPostValue u.post (BitVec.ofNat 48 (2 ^ 48 - 1)) (bumpPad p 8 1 s)) := by
  rw [applyUpd, if_neg (Bool.eq_false_iff.mp h), if_pos hge, hp]

/-- With no copies to read nothing is held. -/
@[simp] theorem readCopies_nil : readCopies [] s = (s, false) := rfl

/-- An update that follows nothing, and whose team has no copy left to read, is applied as it reaches its home. -/
theorem postUpdate_applies {id : Nat} (hu : (s.posts.upds.find? fun x => x.id == id) = some u) (hheld : updHeld s u = false)
    (hcopies : (s.copies.filter fun c => u.after.contains c.id && decide (c.read < c.total)) = []) :
    postUpdate id s = applyUpd u { s with posts := { s.posts with upds := s.posts.upds.filter fun x => x.id != id } } := by
  simp only [postUpdate, hu, hheld, hcopies, readCopies_nil, Bool.false_eq_true, if_false]

/-! ## Waits (R224, R231, R384) -/

theorem waitPoll_completes {id : Nat} {w : PostWait} (hw : (s.posts.waits.find? fun x => x.id == id && !x.entry) = some w) (h : waitHolds s w = true) :
    waitPoll id s = completeWait w s := by
  simp only [waitPoll, hw, h, if_true]

/-- A wait that does not hold takes an entry of its die that is free. -/
theorem waitPoll_takesEntry {id : Nat} {w : PostWait} (hw : (s.posts.waits.find? fun x => x.id == id && !x.entry) = some w)
    (h : waitHolds s w = false) (hdie : w.die < 8) (hroom : entriesUsed s w.die < 1024) :
    waitPoll id s = { s with posts := { s.posts with waits := s.posts.waits.map fun x => if x.id = id then { x with entry := true } else x } } := by
  simp only [waitPoll, hw, h, hdie, hroom, beq_iff_eq, decide_true, Bool.and_self, Bool.false_eq_true, if_false, if_true]

theorem waitTimeout_answers {seq d : Nat} {c : Cmd} {post : BitVec 15} {target : W48} {timeout : W32} {w : PostWait} (hc : findCmd s seq = some c)
    (hb : c.body = .postWait post target timeout) (ht : timeout ≠ 0) (hbegan : c.began = true)
    (hw : (s.posts.waits.find? fun x => x.who == .cmd seq) = some w) (hd : w.post = some d) :
    waitTimeout seq s = writeStatus seq timedOut (leBytes 6 (postValue s d).toNat) (dropWaits (fun x => x.id == w.id) s) := by
  simp only [waitTimeout, hc, hb, ht, hbegan, hw, hd, decide_false, Bool.not_true, Bool.or_self, Bool.false_eq_true, if_false]

end

/-- Settles O38: an update by what it does to the count, a poll by whether its wait holds. -/
theorem postEvents : Obligations.PostEvents := by
  unfold Obligations.PostEvents
  refine ⟨?update, fun s d v => postValue_setPostValue d v s, ?poll, ?timeout⟩
  case update =>
    intro s id u hs hu hheld hcopies t old leavesAt
    have happlies {r : State} (e : applyUpd u t = r) : exec (.postUpdate id) s = .next (leaves s (finish r)) :=
      (answer_ifWork s (postUpdate id) hs).trans (by rw [postUpdate_applies hu hheld hcopies, e])
    exact ⟨fun h => happlies (applyUpd_set h), fun h hlt => happlies (applyUpd_add h hlt), fun p h hp hge => happlies (applyUpd_saturates h hp hge)⟩
  case poll =>
    intro s id w hs hw
    have hpolls {r : State} (e : waitPoll id s = r) : exec (.waitPoll id) s = .next (leaves s (finish r)) := e ▸ answer_ifWork s (waitPoll id) hs
    exact ⟨fun h => hpolls (waitPoll_completes hw h), fun h hdie hroom => hpolls (waitPoll_takesEntry hw h hdie hroom)⟩
  case timeout =>
    intro s seq c post target timeout w d hs hc hb ht hbegan hw hd
    exact (answer_ifAwake s (waitTimeout seq) hs).trans (by rw [waitTimeout_answers hc hb ht hbegan hw hd])

end Sys2Proof.Machine
end

section
/-! PROOFS. Packets that are refused, and rings that are not read (R220, R352, R358, R359). -/

namespace Sys2Proof.Machine

/-! ## What a refusal changes (R359, R364) -/

theorem sendMsix_eq (p : Fin 2) (fn v : Nat) (s : State) : ∃ x, sendMsix p fn v s = { s with hosts := x } := by
  unfold sendMsix
  split
  · exact ⟨_, rfl⟩
  · exact ⟨s.hosts, rfl⟩

/-- A status entry changes its ring, host memory and, where it is discarded, a counter. -/
theorem ringStatus_eq (r : Nat) (tag : W32) (o c : Nat) (res : List Byte) (irq rsv : Bool) (s : State) :
    ∃ x g k, ringStatus r tag o c res irq rsv s = { s with hosts := x, rings := g, cnt := k } := by
  unfold ringStatus
  dsimp only
  split
  · exact ⟨s.hosts, _, s.cnt, rfl⟩
  · split
    · split
      · obtain ⟨x, hx⟩ := sendMsix_eq _ _ _ _
        rw [hx]
        exact ⟨x, _, s.cnt, rfl⟩
      · exact ⟨_, _, s.cnt, rfl⟩
    · exact ⟨s.hosts, _, _, rfl⟩

/-- So does a refusal, which is counted at its ring. -/
theorem refuse_eq (r : Nat) (tag : W32) (s : State) : ∃ x g k, refuse r tag s = { s with hosts := x, rings := g, cnt := k } := by
  obtain ⟨x, g, k, e⟩ := ringStatus_eq r tag 0 0 [] false false s
  unfold refuse
  rw [e]
  exact ⟨x, _, k, rfl⟩

/-! ## The row of a packet -/

section
variable {h : CmdHdr} {b : Body} {s : State}

/-- The row of a command is its packet, taken at a visit of its ring. -/
theorem exec_row (h : CmdHdr) (b : Body) (s : State) : exec (b.row h) s = answer s (command h b s) := by
  cases b <;> rfl

theorem ringLive_awake (hl : ringLive s h.ring.val = true) : awake s = true := by
  simp only [ringLive, Bool.and_eq_true] at hl
  exact hl.1.1.1

theorem accept_refused (hc : checksOk (seen h b s) h b = false) : accept h b (visitRing h.ring.val s) = refuse h.ring.val h.tag (seen h b s) := by
  have e : (if b.isBeatSet then tickRt (visitRing h.ring.val s) else visitRing h.ring.val s) = seen h b s := rfl
  simp only [accept, e, hc, Bool.not_false, if_true]

/-- Nothing follows a refusal, where nothing stood that an event brings forward. -/
theorem finish_refused (hs : still s = true) (ho : ∀ c ∈ s.ym.cmds, c.began = true) :
    finish (refuse h.ring.val h.tag (seen h b s)) = refuse h.ring.val h.tag (seen h b s) := by
  obtain ⟨g, r, f, e⟩ := seen_eq h b s
  obtain ⟨x, g', k, e'⟩ := refuse_eq h.ring.val h.tag (seen h b s)
  rw [e', e]
  exact finish_quiet _ ho hs

theorem command_refused (hl : ringLive s h.ring.val = true) (hq : apertWriteWaits s (ringPort s h.ring.val) = false)
    (hr : statusRoom (visitRing h.ring.val s) h.ring.val = true) (hc : checksOk (seen h b s) h b = false) (hs : still s = true)
    (ho : ∀ c ∈ s.ym.cmds, c.began = true) : command h b s = refuse h.ring.val h.tag (seen h b s) := by
  simp only [command, hl, hq, hr, accept_refused hc, finish_refused hs ho, Bool.not_true, Bool.or_self, Bool.false_eq_true, if_false, if_true]

/-- A ring that a delivered write comes before is not read. -/
theorem command_waits (hq : apertWriteWaits s (ringPort s h.ring.val) = true) : command h b s = s := by
  simp only [command, hq, Bool.or_true, if_true]

end

/-- Settles O41: the packet's row is its command, which begins, is refused, or is not read. -/
theorem commandsAreRefusedOrBegin : Obligations.CommandsAreRefusedOrBegin := by
  unfold Obligations.CommandsAreRefusedOrBegin
  intro h b s
  rw [exec_row]
  refine ⟨fun t => answer_command h b s _ t rfl, fun hl hq hr hc hs ho => ?refused, fun hl hq => ?waits⟩
  case refused => rw [answer_leaves _ _ (awake_power s (ringLive_awake hl)), command_refused hl hq hr hc hs ho]
  case waits => rw [answer_leaves _ _ (awake_power s (ringLive_awake hl)), command_waits hq]

end Sys2Proof.Machine
end

section
/-! PROOFS. Drays, send queues and storage targets (R202 to R209, R399, R438 to R447): what a descriptor that is read comes to, and what the
bytes of an operation are counted in. -/

namespace Sys2Proof.Machine

/-! ## Descriptors of drays (R202, R206) -/

/-- The state in which a queue's next descriptor, read with bytes met at memory as ref says, has been counted in CPOST. -/
def drayCounted (key : Nat) (q : DrayQ) (ref : Bool) (t : State) : State :=
  setQueue key { q with next := q.next + 1 } (updHandle q.pad q.cfg.cpost false 1 [] [] (countRefusal q.pad ref false (gallop t)))

section
variable {s t : State} {die dray queue k : Nat} {q : DrayQ} {bs : List Byte} {psn : List Nat} {ref : Bool}
  (hq : getQueue s (queueKey die dray queue) = some q) (hstop : queueStopped s q.pad = false) (hk : handlePost s q.pad q.cfg.kick = some k)
  (hkick : q.next + 1 ≤ (postValue s k).toNat) (hroom : (s.drays.xfers.filter fun x => x.src == .queue die dray queue).length < 4)
  (hread : engineRead (ringEng s q.pad q.cfg.aspace.toNat (drayLook die dray) false) (if q.cfg.rspace then 2 else 1) 0 0
    (q.cfg.rbase.toNat + 64 * (q.next % 2 ^ q.cfg.log2size.toNat)) 64 false s = .done t bs psn ref)
include hq hstop hk hkick hroom hread

/-- A descriptor that the queue may read is counted, and skipped where a rule is broken, else taken up. -/
theorem drayRead_eq : drayRead die dray queue s =
    let u := drayCounted (queueKey die dray queue) q ref t
    let slot := q.next % 2 ^ q.cfg.log2size.toNat
    (readReason u q.pad die (parseDesc bs)).elim (newXfer (.queue die dray queue) q.pad q.cfg.aspace.toNat die slot (parseDesc bs) u)
      fun r => noteSkip q.pad (queueKey die dray queue) (parseDesc bs).tag r slot u := by
  simp only [drayRead, hq, hstop, hk, Nat.not_lt.mpr hkick, Nat.not_le.mpr hroom, hread, decide_false, Bool.or_self, Bool.false_eq_true, if_false]
  rw [← drayCounted]
  cases readReason (drayCounted (queueKey die dray queue) q ref t) q.pad die (parseDesc bs) <;> rfl

end

/-! ## Parts of transfers (R205, R207, R209) -/

section
variable {s : State} {id bytes : Nat} {found : EccResult} {x y : Xfer} (hy : findXfer s id = some y) (hx : findXfer (startDue y s) id = some x)
  (hstarted : x.started = true) (hstopped : x.stopped = false) (hdropped : x.dropped = false)
include hy hx hstarted hstopped hdropped

/-- A post-only descriptor that no earlier one of its queue comes before ends and is counted. -/
theorem drayPart_postOnly (hop : x.desc.op = 3) (hbefore : xfersBefore (startDue y s) x = []) :
    drayPart id bytes found s = addOpt x.pad x.desc.dpost x.desc.len.toNat (finishXfer x false (startDue y s)) := by
  simp only [drayPart, hy, hx, hstarted, hstopped, hdropped, hop, hbefore, List.isEmpty_nil, Bool.not_true, Bool.false_and, Bool.or_self, Bool.false_eq_true,
    if_false, if_true]

/-- Another that has not its queue's turn only starts. -/
theorem drayPart_noTurn (hop : x.desc.op ≠ 3) (hturn : turnFor (startDue y s) x = none) : drayPart id bytes found s = startDue y s := by
  simp only [drayPart, hy, hx, hstarted, hstopped, hdropped, hop, hturn, Bool.not_true, Bool.false_and, Bool.or_self, Bool.false_eq_true, if_false]

/-- The state in which the bytes of a part have landed as far as they can. -/
def partLanded (x : Xfer) (id bytes left : Nat) (found : EccResult) (s : State) : State :=
  landXfer (descRows x.desc + bytes + 2) id (min (x.landed + min bytes left) (descTotal x.desc)) (xferEcc x found s)

/-- In its turn the part that landed is counted, and the last one ends the transfer. -/
theorem drayPart_lands {left : Nat} {z w : Xfer} (hop : x.desc.op ≠ 3) (hcrypt : x.desc.crypt = 0) (hturn : turnFor (startDue y s) x = some left)
    (hz : findXfer (partLanded x id bytes left found (startDue y s)) id = some z) (hmoved : z.landed ≠ x.landed)
    (hw : findXfer (addOpt x.pad x.desc.dpost (z.landed - x.landed) (partLanded x id bytes left found (startDue y s))) id = some w) :
    drayPart id bytes found s =
      let v := tookTurn x left (w.landed - x.landed) (addOpt x.pad x.desc.dpost (z.landed - x.landed) (partLanded x id bytes left found (startDue y s)))
      if w.landed = descTotal w.desc then finishXfer w false v else v := by
  have hplain : x.desc.crypt.toNat = 0 := congrArg BitVec.toNat hcrypt
  rw [partLanded] at hz hw ⊢
  simp only [drayPart, hy, hx, hstarted, hstopped, hdropped, hop, hturn, hplain, hz, hmoved, hw, Bool.not_true, Bool.false_and, Bool.or_self,
    Bool.false_eq_true, if_false]

end

/-! ## Descriptors of send queues (R399, R439 to R443) -/

/-- The state in which a queue's next descriptor has been counted in CPOST. -/
def sendCounted (queue : Fin 64) (q : SendQ) (t : State) : State := updHandle q.pad.toNat q.cpost false 1 [] [] (setSqNext queue.val (gallop t))

/-- The slot of a queue's next descriptor. -/
def sendSlot (q : SendQ) : Nat := q.next % 2 ^ q.log2size.toNat

/-- The engine of a queue's reads. -/
def sendEng (s : State) (queue : Fin 64) (q : SendQ) : Eng := ringEng s q.pad.toNat q.aspace.toNat (windowLook (8 + queue.val / 32)) true

/-- The operation reads its bytes on this device before they go out. -/
def sendReads (d : SendDesc) : Bool := d.op != 1 && d.op != 5 && d.op != 7

theorem sendReads_iff {d : SendDesc} : sendReads d = true ↔ d.op ≠ 1 ∧ d.op ≠ 5 ∧ d.op ≠ 7 := by
  simp only [sendReads, Bool.and_eq_true, bne_iff_ne, and_assoc]

/-- What becomes of a descriptor that has been read. -/
def sendNext (queue : Fin 64) (q : SendQ) (d : SendDesc) (t : State) : State :=
  if sendFieldBad t q (queue.val / 32) d then failSend queue.val (sendSlot q) q.pad.toNat d.tag 1 (sendCounted queue q t)
  else if (getPort t (Fin.ofNat 36 d.port.toNat)).recovering then t
  else match sendReason t q (queue.val / 32) d with
    | some r => failSend queue.val (sendSlot q) q.pad.toNat d.tag r (sendCounted queue q t)
    | none =>
      let g := sendEng t queue q
      let h := if sendReads d then rangeHold g false false d.laddr.toNat d.len.toNat t else (t, false)
      let need := if sendReads d then d.len.toNat else 0
      if h.2 then h.1
      else
        let e := drawEgress (need + 1) q.pad.toNat need q.drawn h.1
        if e.2 < need then setSq queue.val { getSq e.1 queue.val with drawn := e.2 } e.1
        else if sendReads d then
          let r := rangeRead g false d.laddr.toNat d.len.toNat e.1
          startSend queue.val (sendSlot q) q d r.2.1 r.2.2.2 (sendCounted queue q r.1)
        else startSend queue.val (sendSlot q) q d [] false (sendCounted queue q e.1)

/-- A descriptor that the queue may read now. -/
theorem sendRead_next {s t : State} {queue : Fin 64} {k : Nat} {q : SendQ} {bs : List Byte} {psn : List Nat} {ref : Bool} (hq : getSq s queue.val = q)
    (hw : atWork s = true) (hhalf : halfIn s (queue.val / 32) = true) (henable : q.enable = true) (hstop : queueStopped s q.pad.toNat = false)
    (hstalled : admissionStalled s q.pad.toNat = false) (hk : handlePost s q.pad.toNat q.kick = some k) (hkick : q.next + 1 ≤ (postValue s k).toNat)
    (hroom : (s.links.ops.filter fun o => o.queue == queue.val).length < 4)
    (hread : engineRead (sendEng s queue q) 1 0 0 (q.rbase.toNat + 64 * sendSlot q) 64 false s = .done t bs psn ref) :
    sendRead queue s = sendNext queue q (parseSend bs) t := by
  rw [sendEng, sendSlot] at hread
  simp only [sendRead, hq, hw, hhalf, henable, hstop, hstalled, hk, Nat.not_lt.mpr hkick, Nat.not_le.mpr hroom, hread, decide_false, Bool.and_self,
    Bool.not_true, Bool.or_self, Bool.false_eq_true, if_false]
  rfl

section
variable {t : State} {queue : Fin 64} {q : SendQ} {d : SendDesc}

theorem sendNext_fieldBad (hbad : sendFieldBad t q (queue.val / 32) d = true) :
    sendNext queue q d t = failSend queue.val (sendSlot q) q.pad.toNat d.tag 1 (sendCounted queue q t) := if_pos hbad

variable (hbad : sendFieldBad t q (queue.val / 32) d = false) (hport : (getPort t (Fin.ofNat 36 d.port.toNat)).recovering = false)
include hbad hport

theorem sendNext_fails {r : Nat} (hr : sendReason t q (queue.val / 32) d = some r) :
    sendNext queue q d t = failSend queue.val (sendSlot q) q.pad.toNat d.tag r (sendCounted queue q t) := by
  simp only [sendNext, hbad, hport, hr, Bool.false_eq_true, if_false]

variable (hr : sendReason t q (queue.val / 32) d = none)
include hr

/-- With no bytes to read here no tokens are drawn, and it starts. -/
theorem sendNext_starts (hd : sendReads d = false) : sendNext queue q d t = startSend queue.val (sendSlot q) q d [] false (sendCounted queue q t) := by
  have hdraw : drawEgress 1 q.pad.toNat 0 q.drawn t = (t, q.drawn) := by simp [drawEgress]
  simp only [sendNext, hbad, hport, hr, hd, hdraw, Nat.zero_add, Nat.not_lt_zero, Bool.false_eq_true, if_false]

/-- Else it starts once all its tokens are there, and keeps those drawn until then. -/
theorem sendNext_draws (hd : sendReads d = true) (hheld : (rangeHold (sendEng t queue q) false false d.laddr.toNat d.len.toNat t).2 = false) :
    sendNext queue q d t =
      let e := drawEgress (d.len.toNat + 1) q.pad.toNat d.len.toNat q.drawn (rangeHold (sendEng t queue q) false false d.laddr.toNat d.len.toNat t).1
      let r := rangeRead (sendEng t queue q) false d.laddr.toNat d.len.toNat e.1
      if e.2 < d.len.toNat then setSq queue.val { getSq e.1 queue.val with drawn := e.2 } e.1
      else startSend queue.val (sendSlot q) q d r.2.1 r.2.2.2 (sendCounted queue q r.1) := by
  simp only [sendNext, hbad, hport, hr, hd, hheld, Bool.false_eq_true, if_false, if_true]

end

/-! ## Operations (R442, R443) -/

section
variable {s : State} {id n : Nat} {o : SendOp} {bs : List Byte} (ho : findOp s id = some o)
  (hup : (getPort s (Fin.ofNat 36 o.desc.port.toNat)).state = .up)
include ho hup

theorem linkAckOp_post (hop : o.desc.op = 5) : linkAckOp id n s = countOp o 1 (endOp o s) := by
  simp only [linkAckOp, ho, hup, hop, bne_self_eq_false, Bool.false_eq_true, if_false, if_true]

theorem linkAckOp_counts (hpost : o.desc.op ≠ 5) (hread : o.desc.op ≠ 1) (hstore : isStore o.desc = false) (hn : min n (o.desc.len.toNat - o.done) ≠ 0) :
    linkAckOp id n s = let k := min n (o.desc.len.toNat - o.done)
      checkOp id (countOp o k (putOp { o with done := o.done + k } s)) := by
  simp only [linkAckOp, ho, hup, hpost, hread, hstore, hn, bne_self_eq_false, decide_false, Bool.or_self, Bool.false_eq_true, if_false]

variable (hstore : isStore o.desc = true)
include hstore

theorem storeDone_fails : storeDone id false bs s = failSend o.queue o.slot o.pad o.desc.tag 6 (endOp o s) := by
  simp only [storeDone, ho, hup, hstore, bne_self_eq_false, Bool.not_true, Bool.not_false, Bool.or_self, Bool.false_eq_true, if_false, if_true, failOp]

/-- The bytes that a target's command moved land here, or are counted. -/
theorem storeDone_moves (hbs : bs.take (o.desc.len.toNat - (o.done + heldBytes s id)) ≠ []) :
    storeDone id true bs s =
      let off := o.done + heldBytes s id
      let b := bs.take (o.desc.len.toNat - off)
      if o.desc.op = 7 then landOp o off b [] s else checkOp id (countOp o b.length (putOp { o with done := o.done + b.length } s)) := by
  simp only [storeDone, ho, hup, hstore, List.isEmpty_iff, hbs, bne_self_eq_false, Bool.not_true, Bool.or_self, Bool.false_eq_true, if_false]

end

/-! ## Storage targets (R446) -/

section
variable {s : State} {t : Fin 16} (hstate : (getTgt s t.val).state = 1) (hconnect : (getTgt s t.val).connect = true)
include hstate hconnect

theorem targetDone_fails : targetDone t false s = targetFailed t s := by
  simp only [targetDone, hstate, hconnect, bne_self_eq_false, Bool.not_true, Bool.not_false, Bool.or_self, Bool.false_eq_true, if_false, if_true]

theorem targetDone_ready (hport : (getTgt s t.val).port.toNat < 36) (hup : (getPort s (Fin.ofNat 36 (getTgt s t.val).port.toNat)).state = .up)
    (hmode : (getPort s (Fin.ofNat 36 (getTgt s t.val).port.toNat)).mode ≠ 0) :
    targetDone t true s = setTgt t.val { getTgt s t.val with state := 2, rate := 1000, halved := false } s := by
  simp only [targetDone, hstate, hconnect, hport, hup, bne_iff_ne.mpr hmode, beq_self_eq_true, bne_self_eq_false, decide_true, Bool.and_self, Bool.not_true,
    Bool.or_self, Bool.false_eq_true, if_false, if_true]

end

theorem ecnRecovery_halved {s : State} {t : Fin 16} (h : (getTgt s t.val).halved = true) :
    ecnRecovery t s = setTgt t.val { getTgt s t.val with
      rate := min 1000 ((getTgt s t.val).rate + 50), halved := decide ((getTgt s t.val).rate + 50 < 1000) } s := if_pos h

/-! ## The rows -/

theorem exec_linkAck {s u : State} {id n : Nat} (hs : awake s = true) (h : linkAckOp id n s = u) :
    exec (.linkAck id n) s = .next (leaves s (finish u)) := h ▸ answer_ifAwake s (linkAckOp id n) hs

theorem exec_storeCommandComplete {s u : State} {id : Nat} {ok : Bool} {bs : List Byte} (hs : awake s = true) (h : storeDone id ok bs s = u) :
    exec (.storeCommandComplete id ok bs) s = .next (leaves s (finish u)) := h ▸ answer_ifAwake s (storeDone id ok bs) hs

theorem exec_drayPartLanded {s u : State} {id bytes : Nat} {found : EccResult} (hs : atWork s = true) (h : drayPart id bytes found s = u) :
    exec (.drayPartLanded id bytes found) s = .next (leaves s (finish u)) := h ▸ answer_ifWork s (drayPart id bytes found) hs

theorem exec_drayDescriptorRead {s u : State} {die : Fin 10} {dray : Fin 16} {queue : Fin 3} (hs : atWork s = true)
    (h : drayRead die.val dray.val queue.val s = u) : exec (.drayDescriptorRead die dray queue) s = .next (leaves s (finish u)) :=
  h ▸ answer_ifWork s (drayRead die.val dray.val queue.val) hs

theorem exec_sendDescriptorRead {s u : State} {queue : Fin 64} (hs : atWork s = true) (h : sendRead queue s = u) :
    exec (.sendDescriptorRead queue) s = .next (leaves s (finish u)) := h ▸ answer_leaves s (finish (sendRead queue s)) (atWork_power s hs)

/-- Settles O56: descriptor by descriptor and operation by operation, from what each row does. -/
theorem transferEvents : Obligations.TransferEvents := by
  unfold Obligations.TransferEvents
  intro s
  refine ⟨fun hs => ⟨?descriptor, ?part⟩, ?send, fun hs => ⟨?ack, ?store, ?target, ?recovery⟩⟩
  case descriptor =>
    intro die dray queue q k t bs psn ref key hq hstop hk hkick hroom hread d slot u
    have hdray := drayRead_eq hq hstop hk hkick hroom hread
    exact ⟨fun hr => exec_drayDescriptorRead hs (hdray.trans (congrArg (Option.elim · _ _) hr)),
      fun r hr => exec_drayDescriptorRead hs (hdray.trans (congrArg (Option.elim · _ _) hr))⟩
  case part =>
    intro id bytes found x y hy s0 hx hstarted hstopped hdropped
    refine ⟨fun hop hbefore => ?_, ?lands, fun hop hturn => ?_⟩
    · exact exec_drayPartLanded hs (drayPart_postOnly hy hx hstarted hstopped hdropped hop hbefore)
    case lands =>
      intro hop hcrypt left hturn t z hz hmoved u w hw v
      have hpart := drayPart_lands (bytes := bytes) hy hx hstarted hstopped hdropped hop hcrypt hturn hz hmoved hw
      exact ⟨fun hlast => exec_drayPartLanded hs (hpart.trans (if_pos hlast)), fun hmore => exec_drayPartLanded hs (hpart.trans (if_neg hmore))⟩
    · exact exec_drayPartLanded hs (drayPart_noTurn hy hx hstarted hstopped hdropped hop hturn)
  case send =>
    intro queue k t bs psn ref q pad slot hs hhalf henable hstop hstalled hk hkick hroom hread d counted
    have hsend {u : State} (hu : sendNext queue q d t = u) : exec (.sendDescriptorRead queue) s = .next (leaves s (finish u)) :=
      exec_sendDescriptorRead hs ((sendRead_next rfl hs hhalf henable hstop hstalled hk hkick hroom hread).trans hu)
    refine ⟨fun hbad => hsend (sendNext_fieldBad hbad),
      fun hbad hport => ⟨fun r hr => hsend (sendNext_fails hbad hport hr), fun hr hop => ?unread, ?reads⟩⟩
    case unread =>
      have hd : ¬ sendReads d = true := fun hd => by
        obtain ⟨h1, h5, h7⟩ := sendReads_iff.mp hd
        exact hop.elim h1 fun h => h.elim h5 h7
      exact hsend (sendNext_starts hbad hport hr (Bool.eq_false_iff.mpr hd))
    case reads =>
      intro hr h1 h5 h7 g h hheld e
      have hdraws := sendNext_draws hbad hport hr (sendReads_iff.mpr ⟨h1, h5, h7⟩) hheld
      exact ⟨fun hall => hsend (hdraws.trans (if_neg (Nat.not_lt.mpr hall))), fun hsome => hsend (hdraws.trans (if_pos hsome))⟩
  case ack =>
    intro id n o ho hup
    refine ⟨fun hop => exec_linkAck hs (linkAckOp_post ho hup hop), ?_⟩
    intro hpost hread hstore k hk
    exact exec_linkAck hs (linkAckOp_counts ho hup hpost hread hstore hk)
  case store =>
    intro id ok bs o ho hup hstore
    refine ⟨?failed, ?moved⟩
    case failed =>
      rintro rfl
      exact exec_storeCommandComplete hs (storeDone_fails ho hup hstore)
    case moved =>
      rintro rfl off b hb
      have hmoves := storeDone_moves ho hup hstore hb
      exact ⟨fun hop => exec_storeCommandComplete hs (hmoves.trans (if_pos hop)), fun hop => exec_storeCommandComplete hs (hmoves.trans (if_neg hop))⟩
  case target =>
    intro t x hstate hconnect
    refine ⟨?_, fun hport hup hmode => ?_⟩
    · exact (answer_ifAwake s (targetDone t false) hs).trans (by rw [targetDone_fails hstate hconnect])
    · exact (answer_ifAwake s (targetDone t true) hs).trans (by rw [targetDone_ready hstate hconnect hport hup hmode])
  case recovery =>
    intro t h
    exact (answer_ifAwake s (ecnRecovery t) hs).trans (by rw [ecnRecovery_halved h])

end Sys2Proof.Machine
end

section
/-! PROOFS. Add-to-line requests at their home slice (R258 to R266): what a request that nothing holds comes to, and how a spill and a reload end. -/

namespace Sys2Proof.Machine

/-! ## The rows -/

section
variable {s u : State} {id : Nat} (hs : atWork s = true)
include hs

theorem exec_addToLine (h : addToLine id s = u) : exec (.addToLine id) s = .next (leaves s (finish u)) := h ▸ answer_ifWork s (addToLine id) hs

theorem exec_spillDone (h : spillDone id s = u) : exec (.spillDone id) s = .next (leaves s (finish u)) := h ▸ answer_ifWork s (spillDone id) hs

theorem exec_reloadDone (h : reloadDone id s = u) : exec (.reloadDone id) s = .next (leaves s (finish u)) := h ▸ answer_ifWork s (reloadDone id) hs

end

section
variable {s : State} {id : Nat} {r : AddReq} (hr : findAdd s id = some r)

/-! ## A request with nothing ahead (R259, R260, R261) -/

section
variable (hready : (lineHold r.half (1024 * r.line) true s).2 = false ∧ addBehind s r = false ∧ addPoison s r = .clean)

include hr hready

/-- No open line and no anchor: the add is an ordinary line's. -/
theorem addToLine_plain (hopen : tfind (markDirty r.half (1024 * r.line) s).loft.openLines r.key = none) (hanchor : r.anchor = none) :
    addToLine id s = plainAdd r (markDirty r.half (1024 * r.line) s) := by
  obtain ⟨hhold, hahead, hpoison⟩ := hready
  simp only [addToLine, hr, hhold, hahead, hpoison, hopen, hanchor, Bool.false_eq_true, if_false]

/-- An anchor on an ordinary line, and a pin that is free: the line opens. -/
theorem addToLine_opens {a : BitVec 10} (hopen : tfind (markDirty r.half (1024 * r.line) s).loft.openLines r.key = none) (hanchor : r.anchor = some a)
    (hlimit : pinsOf (markDirty r.half (1024 * r.line) s) r.pad r.half ≠ 0)
    (hfree : (pinnedIn (markDirty r.half (1024 * r.line) s) r.pad r.key).length < pinsOf (markDirty r.half (1024 * r.line) s) r.pad r.half) :
    addToLine id s = openWith r (freshOpen (markDirty r.half (1024 * r.line) s) r a .pinned) (markDirty r.half (1024 * r.line) s) := by
  obtain ⟨hhold, hahead, hpoison⟩ := hready
  simp only [addToLine, hr, hhold, hahead, hpoison, hopen, hanchor, hlimit, hfree, Bool.false_eq_true, if_false, if_true]

/-- A pinned line: the request is combined there. -/
theorem addToLine_pinned {o : OpenLine} (hopen : tfind (markDirty r.half (1024 * r.line) s).loft.openLines r.key = some o) (hplace : o.place = .pinned) :
    addToLine id s = landAdd r (countDrops r o (setOpenLines
      (tput (markDirty r.half (1024 * r.line) s).loft.openLines r.key (combineReq r o)) (markDirty r.half (1024 * r.line) s))) := by
  obtain ⟨hhold, hahead, hpoison⟩ := hready
  simp only [addToLine, hr, hhold, hahead, hpoison, hopen, hplace, Bool.false_eq_true, if_false]

end

/-- A window's add of one value to an ordinary line: a read and a write of its four bytes. -/
theorem plainAdd_window {k w n : Nat} {v : W32} {p : Option Nat} {g : Byte} (hvals : r.vals = [(k, v)]) (hsrc : r.src = .window w p n g) :
    plainAdd r s =
      let use : Use := { pad := r.pad, cls := r.cls, last := false, core := none, team := none }
      let x := stackRead use r.half (1024 * r.line + 4 * k) 4 s
      landAdd r (stackWrite use r.half (1024 * r.line + 4 * k) (leBytes 4 (fAdd fp32 .rn (leNat x.2.1) v.toNat).1) x.1) := by
  simp only [plainAdd, AddReq.use, hvals, hsrc, List.foldl_cons, List.foldl_nil]

theorem combineReq_otherAnchor {o : OpenLine} {a : BitVec 10} (hanchor : r.anchor = some a) (hother : a ≠ o.anchor) :
    combineReq r o = { o with mismatch := true } := if_pos (by simp [hanchor, hother])

/-! ## Spill and reload (R266) -/

include hr

theorem spillDone_lands {k n : Nat} {o : OpenLine} (hspill : ((pinnedIn s r.pad r.key).find? isSpilling) = some (k, o)) (hplace : o.place = .spilling n)
    (hheld : slotHeld s r.pad n = false) :
    let o' : OpenLine := { o with spilled := true, place := .slot n }
    spillDone id s = bumpPad r.pad 4 1 (putAdd { r with waits := false }
      (setOpenLines (tput s.loft.openLines k { o' with longs := [] }) (writeSlot r.pad n o' s))) := by
  simp only [spillDone, hr, hspill, hplace, hheld, Bool.false_eq_true, if_false]

theorem reloadDone_pins {n : Nat} {o : OpenLine} (hopen : tfind s.loft.openLines r.key = some o) (hplace : o.place = .slot n) (hwaits : r.waits = true)
    (hahead : addBehind s r = false) (hheld : slotHeld s r.pad n = false) (hfree : (pinnedIn s r.pad r.key).length < pinsOf s r.pad r.half) :
    let o' : OpenLine := { readSlot s o.pad n o with place := .pinned, pinAge := s.loft.clock }
    let u := useSlot r.pad n false s
    let u := makeRoom 64 r.pad r.key { u with loft := { u.loft with clock := s.loft.clock + 1 } }
    reloadDone id s = landAdd r (countDrops r o' (setOpenLines (tput u.loft.openLines r.key (combineReq r o')) u)) := by
  simp only [reloadDone, hr, hopen, hplace, hwaits, hahead, hheld, hfree, Bool.not_false, Bool.and_self, decide_true, if_true]

end

/-- Settles O37: the row of each request, by what the home slice does with it. -/
theorem lineRequests : Obligations.LineRequests := by
  unfold Obligations.LineRequests
  intro s id r hs hr t ready
  refine ⟨?plain, ?value, ?opens, ?pinned, ?spill, ?reload⟩
  case plain => exact fun hready hopen hanchor => exec_addToLine hs (addToLine_plain hr hready hopen hanchor)
  case value => exact fun k v w n p g hvals hsrc => plainAdd_window hvals hsrc
  case opens => exact fun a hready hopen hanchor hlimit hfree => exec_addToLine hs (addToLine_opens hr hready hopen hanchor hlimit hfree)
  case pinned =>
    intro o hready hopen hplace
    exact ⟨exec_addToLine hs (addToLine_pinned hr hready hopen hplace), fun a => combineReq_otherAnchor⟩
  case spill => exact fun k n o hspill hplace hheld => exec_spillDone hs (spillDone_lands hr hspill hplace hheld)
  case reload =>
    exact fun n o hopen hplace hwaits hahead hheld hfree => exec_reloadDone hs (reloadDone_pins hr hopen hplace hwaits hahead hheld hfree)

end Sys2Proof.Machine
end

section
/-! PROOFS. The registers whose writes have rows of their own (R273, R311, R314, R353, R446, R447, R453, R460, R495, R517, R518, R544, R566, R567): what each
does in a device that is awake. -/

namespace Sys2Proof.Machine

/-! ## The rows of an awake device -/

section
variable {s u : State} (hs : awake s = true)
include hs

theorem awake_not_stabled : s.pwr.state ≠ .stabled := by
  simp only [awake, Bool.and_eq_true, bne_iff_ne] at hs
  exact hs.2

theorem awake_powered : s.pins.pwrOk = true := by
  simp only [awake, Bool.and_eq_true] at hs
  exact hs.1.1.2

theorem exec_pwrWake {a : Accessor} (ha : accessorUp s a = true) (e : wake a s = u) : exec (.pwrWake a) s = .next (leaves s (finish u)) := by
  have hup : (accessorUp s a && s.pins.pwrOk) = true := by rw [ha, awake_powered hs]; rfl
  have hanswer : exec (.pwrWake a) s = answer s (finish (wake a s)) := congrArg (answer s) (if_pos hup)
  rw [hanswer, answer_leaves _ _ (awake_power s hs), e]

variable (hrun : s.sec.waiting = false)
include hrun

/-- Every block answers a device that is awake and not waiting for an image. -/
theorem blockAnswers_awake (blk : Nat) : blockAnswers s blk = true := by
  simp only [blockAnswers, beq_eq_false_iff_ne.mpr (awake_not_stabled hs), hrun, Bool.false_eq_true, if_false]

/-- The answer of a register's row. -/
theorem answer_ifBlock {f : State → State} (blk : Nat) (h : f s = u) : answer s (ifBlock blk f s) = .next (leaves s (finish u)) := by
  rw [ifBlock, if_pos (blockAnswers_awake hs hrun blk), answer_ifAwake s f hs, h]

/-- The answer of the row of a register that a port's manager alone reaches. -/
theorem answer_funcBlock {f : State → State} {h : Fin 2} {fn : Nat} (blk : Nat) (hf : funcUp s h fn = true) (e : f s = u) :
    answer s (if funcUp s h fn then ifBlock blk f s else s) = .next (leaves s (finish u)) := by
  rw [if_pos hf, answer_ifBlock hs hrun blk e]

theorem exec_secImgGo {h : Fin 2} {persist : Bool} {addr : W64} {len : W32} {img : Image} (e : imageGo h persist addr len img s = u) :
    exec (.secImgGo h persist addr len img) s = .next (leaves s (finish u)) := by
  have hanswer : exec (.secImgGo h persist addr len img) s = answer s (finish (imageGo h persist addr len img s)) :=
    congrArg (answer s) (if_pos (blockAnswers_awake hs hrun blkSec))
  rw [hanswer, answer_leaves _ _ (awake_power s hs), e]

end

/-! ## LOFT_RETIRE and STK_REPAIR_REQ (R273, R311, R314) -/

section
variable {s : State}

theorem retireSlice_starts {d : BitVec 3} {i : BitVec 5} (hin : halfIn s (d.toNat / 4) = true) (hnone : s.loft.retire = none) :
    retireSlice d i s = failSlice d.toNat i.toNat { s with loft := { s.loft with regDie := d, regSlice := i } } := by
  have hgo : (s.loft.retire.isSome || !halfIn s (d.toNat / 4)) = false := by rw [hnone, hin]; rfl
  exact if_neg (Bool.eq_false_iff.mp hgo)

/-- A retirement is in progress: GO sets the fields alone. -/
theorem retireSlice_busy {x : BitVec 3 × BitVec 5} (d : BitVec 3) (i : BitVec 5) (hsome : s.loft.retire = some x) :
    retireSlice d i s = { s with loft := { s.loft with regDie := d, regSlice := i } } := by
  have hbusy : (s.loft.retire.isSome || !halfIn s (d.toNat / 4)) = true := by rw [hsome]; rfl
  exact if_pos hbusy

theorem repairGo_busy (k : Fin 16) (pc bank : Fin 64) (row : Nat) (h : s.stk.reqBusy = true) : repairGo k pc bank row s = s :=
  if_pos (by rw [h, Bool.or_true])

/-- A request that the stack takes: its row is a candidate, and the request stays busy while a stand-in that covers the row is being installed. -/
theorem repairGo_takes {k : BitVec 4} {pc bank : BitVec 6} {row : BitVec 15} (hs : awake s = true) (hbusy : s.stk.reqBusy = false)
    (hlive : stackLive s (Fin.ofNat 16 k.toNat) = true) (hrow : row.toNat < 24576) :
    let u := candidate (Fin.ofNat 16 k.toNat) (Fin.ofNat 64 pc.toNat) bank.toNat row.toNat
      { s with stk := { s.stk with reqStack := k, reqPc := pc, reqBank := bank, reqRow := row, reqScope := (k.toNat, pc.toNat, row.toNat) } }
    repairGo (Fin.ofNat 16 k.toNat) (Fin.ofNat 64 pc.toNat) (Fin.ofNat 64 bank.toNat) row.toNat s =
      { u with stk := { u.stk with reqBusy := u.stk.installing.any fun x => x.coversRow k.toNat pc.toNat row.toNat } } := by
  have hk : (Fin.ofNat 16 k.toNat).val = k.toNat := Nat.mod_eq_of_lt k.isLt
  have hpc : (Fin.ofNat 64 pc.toNat).val = pc.toNat := Nat.mod_eq_of_lt pc.isLt
  have hbank : (Fin.ofNat 64 bank.toNat).val = bank.toNat := Nat.mod_eq_of_lt bank.isLt
  have hfree : (!awake s || s.stk.reqBusy) = false := by rw [hs, hbusy]; rfl
  have htakes : (!stackLive s (Fin.ofNat 16 k.toNat) || decide (24576 ≤ row.toNat)) = false := by rw [hlive, decide_eq_false (Nat.not_le.mpr hrow)]; rfl
  simp only [repairGo, hk, hpc, hbank, BitVec.ofNat_toNat, BitVec.setWidth_eq]
  exact (if_neg (Bool.eq_false_iff.mp hfree)).trans (if_neg (Bool.eq_false_iff.mp htakes))

/-! ## STK_HOLD and RES_RETIRE (R314, R460) -/

theorem holdWrite_free (hold : W16) (hconf : anyConf s = false) (hpads : s.pads = []) : holdWrite hold s = { s with stk := { s.stk with hold := hold } } :=
  if_neg (by simp [hconf, hpads])

/-- A write that sets a bit is ignored while a paddock exists. -/
theorem holdWrite_ignored {hold : W16} (hsets : hold &&& ~~~s.stk.hold ≠ 0) (hpads : s.pads ≠ []) : holdWrite hold s = s :=
  if_pos (by rw [bne_iff_ne.mpr hsets, List.isEmpty_eq_false_iff.mpr hpads, Bool.not_false, Bool.and_true, Bool.or_true])

theorem retireGo_judges {n : BitVec 10} (hbusy : s.snaps.retBusy = false) (hin : halfIn s (n.toNat / 512) = true) (hout : (getCore s n.toNat).out = false) :
    let u := judgeCore n.toNat { s with snaps := { s.snaps with retCore := n } }
    retireGo n.toNat s = { u with snaps := { u.snaps with retBusy := (getCore u n.toNat).retire } } := by
  have hjudged : (!halfIn s (n.toNat / 512) || (getCore s n.toNat).out) = false := by rw [hin, hout]; rfl
  simp only [retireGo, BitVec.ofNat_toNat, BitVec.setWidth_eq]
  exact (if_neg (Bool.eq_false_iff.mp hbusy)).trans (if_neg (Bool.eq_false_iff.mp hjudged))

/-! ## SEC_IMG (R517, R518) -/

theorem raiseSvn_awake (hs : awake s = true) :
    raiseSvn s = if s.sec.fusedSvn.toNat < s.sec.svn.toNat then { s with sec := { s.sec with fusedSvn := s.sec.svn } } else s := by
  simp only [raiseSvn, hs, Bool.true_and, decide_eq_true_eq]
  rfl

section
variable {h : Fin 2} {persist : Bool} {addr : W64} {len : W32} {img : Image} (hs : awake s = true) (hf : funcUp s h 0 = true) (hbusy : s.sec.busy = false)
include hs hf hbusy

/-- GO is taken from a port whose manager is up, while no check is in progress. -/
theorem imageGo_taken : (!(funcUp s h 0 && (awake s || s.sec.waiting)) || s.sec.busy) = false := by rw [hf, hs, hbusy]; rfl

/-- An image that a check refuses. -/
theorem imageGo_fails {n : Nat} (hfault : imageFault s addr len img = some n) : imageGo h persist addr len img s =
    { s with sec := { s.sec with persist := persist, addr := addr, len := len, result := BitVec.ofNat 4 n } } := by
  have hfault' : imageFault (setSec (fun x => { x with persist := persist, addr := addr, len := len }) s) addr len img = some n := hfault
  rw [imageGo, if_neg (Bool.eq_false_iff.mp (imageGo_taken hs hf hbusy))]
  simp only [hfault']
  rfl

/-- An image that passes while the Yardmaster runs: it goes to flash where PERSIST is set. -/
theorem imageGo_passes (hrun : s.sec.waiting = false) (hfault : imageFault s addr len img = none) : imageGo h persist addr len img s =
    { s with sec := { s.sec with persist := persist, addr := addr, len := len, result := if persist then 2 else 3,
                                 flashImg := if persist then img else s.sec.flashImg } } := by
  have hfault' : imageFault (setSec (fun x => { x with persist := persist, addr := addr, len := len }) s) addr len img = none := hfault
  have hrun' : (setSec (fun x => { x with persist := persist, addr := addr, len := len }) s).sec.waiting = false := hrun
  rw [imageGo, if_neg (Bool.eq_false_iff.mp (imageGo_taken hs hf hbusy))]
  simp only [hfault', hrun', Bool.false_eq_true, if_false]
  cases persist <;> rfl

end

/-! ## PWR_WAKE (R495) -/

theorem wake_starts (a : Accessor) (hexit : s.pwr.exiting = false) (hstate : s.pwr.state = .walk ∨ s.pwr.state = .stand) :
    wake a s = { s with pwr := { s.pwr with exiting := true } } := by
  rcases hstate with hstate | hstate <;> simp [wake, startExit, hstate, hexit]

/-! ## LINK_TGT and LINK_SQ (R446, R447, R453) -/

/-- CONNECT of an idle target reads the record; a record without a fault leaves the target connecting. -/
theorem connectTarget_reads {h : Fin 2} {t : Fin 16} (hidle : (getTgt s t.val).state = 0) (hf : funcUp s h 0 = true)
    (hrecord : recordBad (hostReads s h (getTgt s t.val).haddr.toNat 1024) = false) :
    connectTarget h t s = setTgt t.val { getTgt s t.val with
      connect := true, state := 1, record := mwrites [] 0 (hostReads s h (getTgt s t.val).haddr.toNat 1024) } s := by
  have hf' (x : Target) : funcUp (setTgt t.val x s) h 0 = true := hf
  simp [connectTarget, hidle, hf', hrecord]

theorem sqEnable_open {q : Nat} (on : Bool) (h : isConf s (getSq s q).pad.toNat = false) : sqEnable q on s = setSq q { getSq s q with enable := on } s :=
  if_neg (Bool.eq_false_iff.mp h)

theorem sqEnable_locked {q : Nat} (on : Bool) (h : isConf s (getSq s q).pad.toNat = true) : sqEnable q on s = s := if_pos h

/-! ## FQ and the rings (R353, R544, R566, R567) -/

/-- A queue is set up where another was before it: no held entry is written. -/
theorem fqEnable_later {q : Fin 2} (hoff : (getFq s q).enable = false) (hlater : noneSetUp s = false) :
    fqEnable q true s = setFq q { getFq s q with enable := true, prod := 0, cons := 0, setUp := true } s := by
  simp only [fqEnable, hoff, hlater, Bool.not_false, Bool.and_self, Bool.false_eq_true, if_true, if_false]

theorem fqEnable_off (q : Fin 2) : fqEnable q false s = setFq q { getFq s q with enable := false } s := rfl

theorem enableOf_ring {f : Func} {r : Nat} (on : Bool) (h : funcRing s f = some r) :
    enableOf f on s = setRing r { getRing s r with enable := on, fresh := (on && !(getRing s r).enable) || (getRing s r).fresh } s := by
  simp only [enableOf, h, ringEnable]
  cases on <;> cases (getRing s r).enable <;> rfl

end

/-- Settles O52: register by register, from what its block does with the write. -/
theorem registerCommands : Obligations.RegisterCommands := by
  unfold Obligations.RegisterCommands
  intro s hs hrun
  refine ⟨?retire, ?retireBusy, ?repairBusy, ?repair, ?hold, ?holdIgnored, ?core, ?svn, ?imageFails, ?image, ?wake, ?connect, ?disconnect, ?queue, ?queueLocked,
    ?fault, ?faultOff, ?ring⟩
  case retire => exact fun d i hin hnone => answer_ifBlock hs hrun blkLoft (retireSlice_starts hin hnone)
  case retireBusy => exact fun x d i hsome => answer_ifBlock hs hrun blkLoft (retireSlice_busy d i hsome)
  case repairBusy => exact fun k pc bank row hbusy => answer_ifBlock hs hrun blkStk (repairGo_busy _ _ _ _ hbusy)
  case repair => exact fun k pc bank row hbusy hlive hrow => answer_ifBlock hs hrun blkStk (repairGo_takes hs hbusy hlive hrow)
  case hold => exact fun hold hconf hpads => answer_ifBlock hs hrun blkStk (holdWrite_free hold hconf hpads)
  case holdIgnored => exact fun hold hsets hpads => answer_ifBlock hs hrun blkStk (holdWrite_ignored hsets hpads)
  case core => exact fun n hbusy hin hout => answer_ifBlock hs hrun blkRes (retireGo_judges hbusy hin hout)
  case svn => exact answer_ifBlock hs hrun blkSec (raiseSvn_awake hs)
  case imageFails => exact fun h persist addr len img n hf hbusy hfault => exec_secImgGo hs hrun (imageGo_fails hs hf hbusy hfault)
  case image => exact fun h persist addr len img hf hbusy hfault => exec_secImgGo hs hrun (imageGo_passes hs hf hbusy hrun hfault)
  case wake => exact fun a ha hexit hstate => exec_pwrWake hs ha (wake_starts a hexit hstate)
  case connect => exact fun h t hidle hf hrecord => answer_ifBlock hs hrun blkLink (connectTarget_reads hidle hf hrecord)
  case disconnect => exact fun t => answer_ifBlock hs hrun blkLink rfl
  case queue => exact fun q on hconf => answer_ifBlock hs hrun blkLink (sqEnable_open on hconf)
  case queueLocked => exact fun q on hconf => answer_ifBlock hs hrun blkLink (sqEnable_locked on hconf)
  case fault => exact fun h hf hoff hlater => answer_funcBlock hs hrun blkFq hf (fqEnable_later hoff hlater)
  case faultOff => exact fun h hf => answer_funcBlock hs hrun blkFq hf (fqEnable_off h)
  case ring => exact fun f r on hf hring => answer_funcBlock hs hrun blkYm hf (enableOf_ring on hring)

end Sys2Proof.Machine
end

section
/-! PROOFS. The Stack's own events and the end of a slice retirement (R273, R309 to R316, R323, R324, R326, R466, R545). -/

namespace Sys2Proof.Machine

/-! ## The rows -/

section
variable {s u : State} (hs : awake s = true)
include hs

theorem exec_scrubRead {k : Fin 16} {pc bank : Fin 64} {row : Fin 24576} {sub : Fin 16} {found : EccResult}
    (h : scrub k pc.val bank.val row.val sub.val found s = u) : exec (.scrubRead k pc bank row sub found) s = .next (leaves s (finish u)) :=
  h ▸ answer_leaves s (finish (scrub k pc.val bank.val row.val sub.val found s)) (awake_power s hs)

theorem exec_stackTempRead {k : Fin 16} {temp : Option Byte} (h : stackTemp k temp s = u) : exec (.stackTempRead k temp) s = .next (leaves s (finish u)) :=
  h ▸ answer_leaves s (finish (stackTemp k temp s)) (awake_power s hs)

theorem exec_stackInterfaceFailure {k : Fin 16} {pc : Option (Fin 64)} (h : interfaceFails k pc s = u) :
    exec (.stackInterfaceFailure k pc) s = .next (leaves s (finish u)) :=
  h ▸ answer_leaves s (finish (interfaceFails k pc s)) (awake_power s hs)

theorem exec_standinInstallDone {x : StandinCopy} (h : installDone x.stack x.found s = u) : exec (.standinInstallDone x) s = .next (leaves s (finish u)) :=
  h ▸ answer_ifAwake s (installDone x.stack x.found) hs

theorem exec_refetchDone {half : Fin 2} {g : Fin 393216} (h : refetched (decide (half.val = 1)) g.val s = u) :
    exec (.refetchDone half g) s = .next (leaves s (finish u)) :=
  h ▸ answer_ifAwake s (refetched (decide (half.val = 1)) g.val) hs

end

/-! ## What an eviction may change (R244, R309, R311, R312, R462 to R464)

Lines that leave a slice are written back; poison in them makes rows candidates for repair, and what that reports goes to the fault queues. -/

/-- t is s but for what write-backs, repairs and reports may change: of the Loft, its frames alone. -/
def Evicts (s t : State) : Prop :=
  ∃ hosts flt cnt mem frames stk cores free, t = { s with
    hosts := hosts, flt := flt, cnt := cnt, mem := mem, loft := { s.loft with frames := frames }, stk := stk, cores := cores, free := free }

namespace Evicts

theorem refl (s : State) : Evicts s s := ⟨s.hosts, s.flt, s.cnt, s.mem, s.loft.frames, s.stk, s.cores, s.free, rfl⟩

theorem trans {s t u : State} (h : Evicts s t) (g : Evicts t u) : Evicts s u := by
  obtain ⟨_, _, _, _, _, _, _, _, rfl⟩ := h
  obtain ⟨_, _, _, _, _, _, _, _, rfl⟩ := g
  exact ⟨_, _, _, _, _, _, _, _, rfl⟩

section
variable {s t : State} (h : Evicts s t)
include h

theorem retire : t.loft.retire = s.loft.retire := by obtain ⟨_, _, _, _, _, _, _, _, rfl⟩ := h; rfl
theorem retireDue : t.loft.retireDue = s.loft.retireDue := by obtain ⟨_, _, _, _, _, _, _, _, rfl⟩ := h; rfl
theorem map : t.loft.map = s.loft.map := by obtain ⟨_, _, _, _, _, _, _, _, rfl⟩ := h; rfl
theorem spares : t.loft.free = s.loft.free := by obtain ⟨_, _, _, _, _, _, _, _, rfl⟩ := h; rfl
theorem start : t.start = s.start := by obtain ⟨_, _, _, _, _, _, _, _, rfl⟩ := h; rfl

theorem spareDie (d : Nat) : spareDie t d = Machine.spareDie s d := by simp only [Machine.spareDie, spares h]

end

theorem foldl {α : Type} {f : State → α → State} (h : ∀ t x, Evicts t (f t x)) (l : List α) (s : State) : Evicts s (l.foldl f s) :=
  List.foldlRecOn (motive := Evicts s) l f (refl s) fun _ ht x _ => ht.trans (h _ x)

variable (s : State)

theorem of_flt (x) : Evicts s { s with flt := x } := ⟨_, _, _, _, _, _, _, _, rfl⟩
theorem of_mem (x) : Evicts s { s with mem := x } := ⟨_, _, _, _, _, _, _, _, rfl⟩
theorem of_stk (x) : Evicts s { s with stk := x } := ⟨_, _, _, _, _, _, _, _, rfl⟩

/-! Fault entries and error records -/

theorem fqWrite (q : Fin 2) (e : FaultEntry) : Evicts s (fqWrite q e s) := by
  obtain ⟨_, h⟩ := sendMsix_eq q 0 (getFq s q).vec.toNat
    (setFq q { getFq s q with prod := (getFq s q).prod + 1 } (hostWrites q ((getFq s q).base.toNat + 64 * ((getFq s q).prod.toNat % 2 ^ (getFq s q).log2n.toNat)) e.bytes s))
  exact ⟨_, _, _, _, _, _, _, _, h⟩

theorem fqMark (q : Fin 2) : Evicts s (fqMark q s) := by
  unfold Machine.fqMark
  dsimp only
  split
  · exact (fqWrite s q _).trans (of_flt _ _)
  · exact refl s

theorem fqCount (q : Fin 2) (e : FaultEntry) : Evicts s (fqCount q e s) := ⟨_, _, _, _, _, _, _, _, rfl⟩

theorem fqDeliver (q : Fin 2) (e : FaultEntry) : Evicts s (fqDeliver q e s) := by
  unfold Machine.fqDeliver
  dsimp only
  split
  · split
    · exact (fqMark s q).trans (fqWrite _ q e)
    · exact (fqMark s q).trans (fqCount _ q e)
  · exact refl s

theorem holdEntry (e : FaultEntry) : Evicts s (holdEntry e s) := by
  unfold Machine.holdEntry
  split <;> exact of_flt _ _

theorem writeEntry (e : FaultEntry) : Evicts s (writeEntry e s) := by
  have hnumbered : Evicts s { tickLodge s with flt := { (tickLodge s).flt with seq := (tickLodge s).flt.seq + 1 } } := ⟨_, _, _, _, _, _, _, _, rfl⟩
  unfold Machine.writeEntry
  dsimp only
  split
  · exact hnumbered.trans (holdEntry _ _)
  · exact (hnumbered.trans (fqDeliver _ 0 _)).trans (fqDeliver _ 1 _)

theorem putRecord (r : ErrRecord) : Evicts s (putRecord r s) := of_flt _ _

theorem raiseErr (e : Err) : Evicts s (raiseErr e s) := by
  unfold Machine.raiseErr
  split
  · exact (writeEntry s _).trans (putRecord _ _)
  · split
    · exact putRecord s _
    · exact (writeEntry s _).trans (putRecord _ _)

theorem closeRecord (u : Byte) (i : Nat) : Evicts s (closeRecord u i s) := by
  unfold Machine.closeRecord
  split
  · exact refl s
  · split
    · dsimp only
      split
      · exact (of_flt s _).trans (writeEntry _ _)
      · exact of_flt s _
    · exact refl s

theorem handled (u : Byte) (i : Nat) : Evicts s (handled u i s) := by
  unfold Machine.handled handledN
  split
  · exact refl s
  · exact (putRecord s _).trans (closeRecord _ u i)

theorem report (e : Err) : Evicts s (report e s) := (raiseErr s e).trans (handled _ _ _)

/-! Poison, repairs and stand-ins -/

theorem setStackMem (half : Bool) (m : Mem) : Evicts s (setStackMem half m s) := by
  unfold Machine.setStackMem
  split <;> exact of_mem _ _

theorem setPoison (half barn : Bool) (u : Nat) (on : Bool) : Evicts s (setPoison half barn u on s) := by
  unfold Machine.setPoison cureUnit
  split
  · exact refl s
  · split
    · exact of_mem s _
    · dsimp only
      split
      · exact of_mem s _
      · split
        · exact of_mem s _
        · exact (of_mem s _).trans (of_mem _ _)

theorem startStandIn (x : StandIn) : Evicts s (startStandIn x s) := by
  unfold Machine.startStandIn
  dsimp only
  split
  · exact refl s
  · split
    · exact (of_stk s _).trans (raiseErr _ _)
    · exact Evicts.trans ⟨_, _, _, _, _, _, _, _, rfl⟩ (report _ _)

theorem repairRead (k : Fin 16) (half : Bool) (u : Nat) (found : EccResult) : Evicts s (repairRead k half u found s) := by
  cases found with
  | clean => exact refl s
  | corrected => exact of_stk s _
  | uncorrectable => exact (of_stk s _).trans (setPoison _ half false u true)

theorem repairReads (k : Fin 16) (l : Nat) : Evicts s (repairReads k l s) :=
  (foldl (fun t _ => repairRead t k _ _ _) _ s).trans ⟨_, _, _, _, _, _, _, _, rfl⟩

theorem candidate (k : Fin 16) (pc : Fin 64) (bank row : Nat) : Evicts s (candidate k pc bank row s) := by
  unfold Machine.candidate
  dsimp only
  split
  · exact refl s
  · split
    · exact refl s
    · split
      · exact startStandIn s _
      · exact ((repairReads s k _).trans (of_stk _ _)).trans (report _ _)

theorem poisonUnit (half : Bool) (u : Nat) : Evicts s (poisonUnit half u s) := by
  unfold Machine.poisonUnit lineCandidate
  split
  · exact refl s
  · exact (setPoison s half false u true).trans (candidate _ _ _ _ _)

/-! Frames -/

theorem writeBackSector (key : Nat) (f : Frame) (j : Nat) : Evicts s (writeBackSector key f j s) := by
  unfold Machine.writeBackSector
  split
  · refine (setStackMem s _ _).trans (foldl (fun t i => ?_) _ _)
    split
    · exact poisonUnit t _ _
    · exact setPoison t _ _ _ _
  · exact refl s

theorem dropFrame (key : Nat) : Evicts s (dropFrame key s) := by
  unfold Machine.dropFrame
  split
  · exact ⟨_, _, _, _, _, _, _, _, rfl⟩
  · exact refl s

theorem evictFrame (key : Nat) : Evicts s (evictFrame key s) := by
  unfold Machine.evictFrame
  split
  · exact (foldl (fun t j => writeBackSector t key _ j) _ s).trans (dropFrame _ key)
  · exact refl s

theorem emptySlice (d i : Nat) : Evicts s (emptySlice d i s) := foldl (fun t key => evictFrame t key) _ s

end Evicts

/-! ## The end of a slice retirement (R273) -/

/-- Logical slice i of die d placed on physical slice n of die p, and the physical slice it had put among the bad ones. -/
def placeSlice (d i : Nat) (p : Fin 8) (n : Nat) (s : State) : State :=
  let had := 34 * (getSlice s d i).pdie.toNat + (getSlice s d i).pslice.toNat
  { s with loft := { s.loft with map := tput s.loft.map (32 * d + i) { valid := true, pdie := BitVec.ofNat 4 p.val, pslice := BitVec.ofNat 6 n, cerr := 0 },
                                 free := s.loft.free.set p (s.loft.free[p] - 1) },
           snaps := { s.snaps with badSlices := s.snaps.badSlices ++ [had] }, start := { s.start with flashSlices := s.start.flashSlices ++ [had] } }

section
variable {s : State}

/-- With a spare in its half and no retirement due after it: the slice is emptied and placed on a physical slice of the spare's die. -/
theorem finishRetire_places {d : BitVec 3} {i : BitVec 5} {p : Fin 8} (hretire : s.loft.retire = some (d, i)) (hdue : s.loft.retireDue = [])
    (hspare : spareDie s d.toNat = some p) : ∃ u, Evicts { s with loft := { s.loft with retire := none } } u ∧
      ∃ n, Evicts (placeSlice d.toNat i.toNat p n u) (finishRetire s) := by
  have hemptied := Evicts.emptySlice { s with loft := { s.loft with retire := none } } d.toNat i.toNat
  unfold finishRetire
  simp only [hretire]
  generalize emptySlice d.toNat i.toNat { s with loft := { s.loft with retire := none } } = u at hemptied ⊢
  have hspare' : spareDie u d.toNat = some p := (hemptied.spareDie d.toNat).trans hspare
  simp only [hspare']
  refine ⟨u, hemptied, ?_⟩
  split
  · exact ⟨_, Evicts.handled (placeSlice d.toNat i.toNat p _ u) _ _⟩
  · next h =>
    rw [(Evicts.handled _ _ _).retireDue] at h
    exact absurd ((hemptied.retireDue.trans hdue).symm.trans h) (List.cons_ne_nil _ _).symm

theorem finishRetire_idle (h : s.loft.retire = none) : finishRetire s = s := by simp only [finishRetire, h]

/-! ## Scrub reads (R310, R314, R466) -/

section
variable {k : Fin 16} {pc bank row sub : Nat} (hlive : stackLive s k = true) (hhold : s.stk.hold.getLsbD k.val = false)
  (hlater : pc ≠ 0 ∨ bank ≠ 0 ∨ row ≠ 0 ∨ sub ≠ 0)
include hlive hhold hlater

/-- A scrub read after a pass's first: the codeword is judged, and a granule with a second copy is fetched again where the codeword is lost. -/
theorem scrub_judges (found : EccResult) :
    let half := decide (8 ≤ k.val)
    let a := rowAddr k pc bank row sub
    let u := stackEcc half a found s
    scrub k pc bank row sub found s =
      if found == .uncorrectable && !covered u half (a / 1024) && (secondCopy u half (a / granBytes)).isSome then startRefetch half (a / granBytes) false u else u := by
  have hfirst : (decide (pc = 0) && decide (bank = 0) && decide (row = 0) && decide (sub = 0)) = false := by
    simp only [Bool.and_eq_false_iff, decide_eq_false_iff_not]
    omega
  simp only [scrub, hlive, hhold, hfirst, Bool.not_true, Bool.or_self, Bool.false_eq_true, if_false]

theorem scrub_clean : scrub k pc bank row sub .clean s = s := scrub_judges hlive hhold hlater .clean

theorem scrub_corrected : scrub k pc bank row sub .corrected s = stackEcc (decide (8 ≤ k.val)) (rowAddr k pc bank row sub) .corrected s :=
  scrub_judges hlive hhold hlater .corrected

theorem scrub_uncorrectable {u : State} (hu : stackEcc (decide (8 ≤ k.val)) (rowAddr k pc bank row sub) .uncorrectable s = u) :
    scrub k pc bank row sub .uncorrectable s =
      if !covered u (decide (8 ≤ k.val)) (rowAddr k pc bank row sub / 1024) &&
        (secondCopy u (decide (8 ≤ k.val)) (rowAddr k pc bank row sub / granBytes)).isSome then
        startRefetch (decide (8 ≤ k.val)) (rowAddr k pc bank row sub / granBytes) false u
      else u := by
  subst hu
  exact scrub_judges hlive hhold hlater .uncorrectable

end

/-! ## Stand-ins and second copies (R323, R324, R466) -/

theorem installDone_copied {k : Fin 16} {x : StandIn} (found : List (Nat × EccResult)) (hx : (s.stk.installing.find? fun x => x.stack == k) = some x)
    (hworks : x.failed = false) : installDone k found s = finishStandIn x (found.foldl (fun t u => copyFinds x u.1 u.2 t) s) := by
  simp only [installDone, hx, completeStandIn, hworks, Bool.false_eq_true, if_false]

/-- The stand-in of a failed part takes the lines that the Barn has a copy of. -/
theorem installDone_fetched {k : Fin 16} {x : StandIn} (found : List (Nat × EccResult)) (hx : (s.stk.installing.find? fun x => x.stack == k) = some x)
    (hfailed : x.failed = true) : installDone k found s =
      finishStandIn x ((coveredLines (loseScope x s) x).foldl (fun t l => fetchLine (decide (8 ≤ k.val)) l t) (loseScope x s)) := by
  obtain rfl : x.stack = k := by simpa using List.find?_some hx
  simp only [installDone, hx, completeStandIn, hfailed, if_true]

section
variable {half : Bool} {g : Nat} {r : Bool × Nat × Bool × Bool} (hr : (s.stk.refetch.find? fun r => r.1 == half && r.2.1 == g) = some r)
include hr

theorem refetched_gone (hcopy : secondCopy s half g = none) :
    refetched half g s = { s with stk := { s.stk with refetch := s.stk.refetch.filter fun x => !(x.1 == half && x.2.1 == g) } } := by
  have hcopy' : secondCopy { s with stk := { s.stk with refetch := s.stk.refetch.filter fun x => !(x.1 == half && x.2.1 == g) } } half g = none := hcopy
  simp only [refetched, hr, hcopy']

theorem refetched_copied {c : Bool × Nat × Bool} (hcopy : secondCopy s half g = some c) : refetched half g s =
    refetchFrom half g r.2.2.1 c { s with stk := { s.stk with refetch := s.stk.refetch.filter fun x => !(x.1 == half && x.2.1 == g) } } := by
  have hcopy' : secondCopy { s with stk := { s.stk with refetch := s.stk.refetch.filter fun x => !(x.1 == half && x.2.1 == g) } } half g = some c := hcopy
  simp only [refetched, hr, hcopy']

end

/-! ## Temperature (R315, R316) -/

section
variable {k : Fin 16} (hlive : stackLive s k = true) (hpresent : (getStk s k).present = true)
include hlive hpresent

theorem stackTemp_read : (!stackLive s k || !(getStk s k).present) = false := by rw [hlive, hpresent]; rfl

theorem stackTemp_fails (hfirst : (getStk s k).failed = 0) : stackTemp k none s = setStk k { getStk s k with failed := 1, temp := 0xFF } s := by
  simp only [stackTemp, hfirst]
  exact if_neg (Bool.eq_false_iff.mp (stackTemp_read hlive hpresent))

/-- The third failure in a row is taken as the hottest row. -/
theorem stackTemp_failsThird (hthird : (getStk s k).failed = 2) : stackTemp k none s =
    report (stackPower k 0x03 2 0xFF) (setStk k (setTempRow 4 { getStk s k with failed := 3, temp := 0xFF }) s) := by
  simp only [stackTemp, hthird, if_true]
  exact if_neg (Bool.eq_false_iff.mp (stackTemp_read hlive hpresent))

/-- A reading in the row in force keeps it. -/
theorem stackTemp_sameRow {b : Byte} (hrow : tempRow b.toNat = tempNow (getStk s k)) (hfew : (getStk s k).failed < 3)
    (hsame : (setTempRow (tempNow (getStk s k)) { getStk s k with failed := 0, temp := b }).throttle = (getStk s k).throttle) :
    stackTemp k (some b) s = setStk k (setTempRow (tempNow (getStk s k)) { getStk s k with failed := 0, temp := b }) s := by
  simp only [stackTemp, hrow, Nat.not_le.mpr hfew, if_false, Nat.max_eq_left (Nat.min_le_left _ _)]
  exact (if_neg (Bool.eq_false_iff.mp (stackTemp_read hlive hpresent))).trans (if_neg (by rw [hsame, bne_self_eq_false]; decide))

end

/-! ## Interfaces that fail (R323, R324, R326) -/

section
variable {k : Fin 16} {pc : Option (Fin 64)} (hlive : stackLive s k = true)
include hlive

theorem interfaceFails_covered
    (hcovered : ((s.stk.standing ++ s.stk.installing).any fun y => StandIn.inside { stack := k, pc := pc, span := none, failed := true } y) = true) :
    interfaceFails k pc s = s :=
  (if_pos hlive).trans (if_pos hcovered)

/-- A failure that no stand-in covers asks for one; where none fits, the part's contents are lost, and with the whole stack the stack. -/
theorem interfaceFails_uncovered {x : StandIn} {u : State} (hx : { stack := k, pc := pc, span := none, failed := true } = x)
    (huncovered : ((s.stk.standing ++ s.stk.installing).any fun y => x.inside y) = false) (hu : startStandIn x s = u) : interfaceFails k pc s =
      if u.stk.installing.contains x then u
      else if pc.isSome then loseScope x u
      else setStk k { getStk (loseScope x u) k with present := false } (loseScope x u) := by
  subst hx hu
  exact (if_pos hlive).trans (if_neg (Bool.eq_false_iff.mp huncovered))

end

end

/-- Settles O58: event by event, from what each does; of a retirement's end, from what the emptying and the report leave of the slice map. -/
theorem stackEvents : Obligations.StackEvents := by
  unfold Obligations.StackEvents
  intro s hs
  refine ⟨?scrub, ?install, ?zeroing, ?refetch, ?temperature, ?interface, ?idle, ?retirement⟩
  case scrub =>
    intro k pc bank row sub hlive hhold hlater half a
    refine ⟨exec_scrubRead hs (scrub_clean hlive hhold hlater), exec_scrubRead hs (scrub_corrected hlive hhold hlater), ?_⟩
    intro u
    have hscrub := scrub_uncorrectable hlive hhold hlater (u := u) rfl
    refine ⟨fun hnone => ?_, fun hcovered => ?_, fun c huncovered hcopy => ?_⟩
    · exact exec_scrubRead hs (hscrub.trans (if_neg (by rw [hnone]; simp)))
    · exact exec_scrubRead hs (hscrub.trans (if_neg (by rw [hcovered]; simp)))
    · exact exec_scrubRead hs (hscrub.trans (if_pos (by rw [huncovered, hcopy]; rfl)))
  case install =>
    intro k found x hx
    exact ⟨fun hworks => exec_standinInstallDone hs (installDone_copied found hx hworks),
      fun hfailed => exec_standinInstallDone hs (installDone_fetched found hx hfailed)⟩
  case zeroing => exact fun half g => answer_ifAwake s (zeroingDone (decide (half.val = 1)) g.val) hs
  case refetch =>
    intro half g r hr u
    exact ⟨fun hcopy => exec_refetchDone hs (refetched_gone hr hcopy), fun c hcopy => exec_refetchDone hs (refetched_copied hr hcopy)⟩
  case temperature =>
    intro k hlive hpresent x
    exact ⟨fun hfirst => exec_stackTempRead hs (stackTemp_fails hlive hpresent hfirst),
      fun hthird => exec_stackTempRead hs (stackTemp_failsThird hlive hpresent hthird),
      fun b hrow hfew hsame => exec_stackTempRead hs (stackTemp_sameRow hlive hpresent hrow hfew hsame)⟩
  case interface =>
    intro k pc hlive x
    refine ⟨fun hcovered => exec_stackInterfaceFailure hs (interfaceFails_covered hlive hcovered), ?_⟩
    intro huncovered u
    have hfails := interfaceFails_uncovered hlive (x := x) (u := u) rfl huncovered rfl
    refine ⟨fun hfits => ?_, fun hfull hpc => ?_, fun hfull hpc => ?_⟩
    · exact exec_stackInterfaceFailure hs (hfails.trans (if_pos hfits))
    · exact exec_stackInterfaceFailure hs (hfails.trans ((if_neg (Bool.eq_false_iff.mp hfull)).trans (if_pos hpc)))
    · exact exec_stackInterfaceFailure hs (hfails.trans ((if_neg (Bool.eq_false_iff.mp hfull)).trans (if_neg (by rw [hpc]; decide))))
  case idle => exact fun hnone => (answer_ifAwake s finishRetire hs).trans (by rw [finishRetire_idle hnone])
  case retirement =>
    intro d i p hretire hdue hspare
    obtain ⟨u, hemptied, n, hplaced⟩ := finishRetire_places hretire hdue hspare
    have hslice : getSlice (finishRetire s) d.toNat i.toNat = { valid := true, pdie := BitVec.ofNat 4 p.val, pslice := BitVec.ofNat 6 n, cerr := 0 } := by
      rw [getSlice, hplaced.map]
      exact tget_tput_self ..
    refine ⟨finishRetire s, answer_ifAwake s finishRetire hs, ?_, ?_, by rw [hslice], by rw [hslice], ?_⟩
    · exact hplaced.retire.trans hemptied.retire
    · rw [hplaced.spares, placeSlice, hemptied.spares]
      exact Vector.getElem_set_self ..
    · rw [hplaced.start, placeSlice, hemptied.start, List.length_append]
      rfl

end Sys2Proof.Machine
end

section
/-! PROOFS. The extent commands (R278 to R280, R285, R289, R291, R297 to R299, R373 to R376): what each begins, and that it then waits or has its entry. -/

namespace Sys2Proof.Machine

/-! ## The state in which a packet has been taken -/

section
variable {h : CmdHdr} {b : Body} {s u : State}

/-- What looks at neither the rings nor the commands in flight finds the same once a packet that is no launch and no BEAT.SET has been taken. -/
theorem taken_finds {α : Type} {x : α} (f : State → α) (hf : ∀ g y, f { s with rings := g, ym := y } = f s) (hx : f s = x)
    (hb : b.isBeatSet = false := by rfl) (hl : b.isLaunch = false := by rfl) : f (taken h b s) = x := by
  obtain ⟨g, y, e⟩ := taken_eq (h := h) (s := s) hb hl
  rw [e, hf, hx]

theorem getSpace_taken (h : CmdHdr) (b : Body) (s : State) (tag : Nat) : getSpace (taken h b s) tag = getSpace s tag :=
  congrArg (fun x : Xlt => tget x.spaces tag _) (takenAs_parts _ h b s).2.1

theorem cmdFunc_taken {f : Fin 2 × Nat} (hb : b.isBeatSet = false) (hl : b.isLaunch = false) (hf : ringFunc s h.ring.val = some f) :
    cmdFunc (taken h b s) (begunCmd h b s) = f := by
  rw [cmdFunc, begunCmd, taken_finds (ringFunc · h.ring.val) (fun _ _ => rfl) hf hb hl, Option.getD_some]

/-- A status entry leaves none but begun commands in flight. -/
theorem writeStatus_begun (seq code : Nat) (res : List Byte) (s : State) (hs : ∀ c ∈ s.ym.cmds, c.began = true) :
    ∀ c ∈ (writeStatus seq code res s).ym.cmds, c.began = true := by
  cases hf : findCmd s seq with
  | none => simpa only [writeStatus, hf] using hs
  | some k =>
    rw [writeStatus_cmds seq code res s k hf]
    exact fun c hc => hs c (List.mem_filter.mp hc).1

end

/-! ## What changes no command in flight -/

theorem changeTag_ym (tag : Nat) (table : List Extent) (c : Change) (s : State) : (changeTag tag table c s).ym = s.ym := rfl

theorem unshareTag_ym (src : Nat × Nat) (tag : Nat) (s : State) : (unshareTag src tag s).ym = s.ym := by
  unfold unshareTag
  dsimp only
  split
  · rfl
  · split <;> rfl

theorem unshareAll_ym (src : Nat × Nat) (s : State) : (unshareAll src s).ym = s.ym :=
  foldl_keeps_ym _ (fun _ _ => unshareTag_ym ..) _ s

theorem replaceExt_ym (tag : Nat) (old : Extent) (new : List Extent) (cmd : Option Nat) (mapped : Option (Nat × Nat)) (s : State) :
    (replaceExt tag old new cmd mapped s).ym = s.ym := by
  unfold replaceExt
  dsimp only
  split
  · rw [unshareAll_ym, changeTag_ym]
  · rfl

theorem setTable_ym (tag : Nat) (t : List Extent) (s : State) : (setTable tag t s).ym = s.ym := rfl

theorem baleGran_ym (g : MarkedGran) (s : State) : (baleGran g s).ym = s.ym := by
  unfold baleGran
  split <;> rfl

theorem baleRun_ym (half : Bool) (first len : Nat) (s : State) : (baleRun half first len s).ym = s.ym := by
  unfold baleRun
  split
  · rfl
  · exact foldl_keeps_ym _ (fun _ _ => baleGran_ym ..) _ s

theorem discardFrames_ym (p : Nat → Bool) (s : State) : (discardFrames p s).ym = s.ym :=
  foldl_keeps_ym _ (fun _ _ => dropFrame_ym ..) _ s

theorem dropOpen_ym (p : Nat → Bool) (s : State) : (dropOpen p s).ym = s.ym := by
  refine (foldl_keeps_ym _ (fun t e => ?_) _ _).trans (setOpenLines_ym ..)
  split
  · rw [useSlot_ym]
  · rw [useSlot_ym]
  · rfl

theorem clearGranules_ym (barn half : Bool) (first len : Nat) (s : State) : (clearGranules barn half first len s).ym = s.ym := by
  cases barn with
  | false => exact (setStackMem_ym ..).trans ((dropOpen_ym ..).trans ((discardFrames_ym ..).trans (baleRun_ym ..)))
  | true => rfl

theorem clearOthers_ym (barn half : Bool) (first : Nat) (keep : Nat → Bool) (l : List Nat) (s : State) :
    (l.foldl (fun t i => if keep (first + i) then t else clearGranules barn half (first + i) 1 t) s).ym = s.ym := by
  refine foldl_keeps_ym _ (fun t i => ?_) l s
  rw [apply_ite State.ym, clearGranules_ym, ite_self]

theorem placeRun_ym (r : GranRun) (keep : Nat → Bool) (s : State) : (placeRun r keep s).ym = s.ym := by
  simp only [placeRun, addRun, dirtyRun, apply_ite State.ym, clearOthers_ym, clearGranules_ym, ite_self]

theorem giveExtent_ym (pad : Nat) (d : ExtDesc) (e : Extent) (s : State) : (giveExtent pad d e s).ym = s.ym := by
  simp only [giveExtent, notePlaced, apply_ite State.ym, setHost_ym, placeRun_ym, ite_self]

theorem shareExtent_ym (pad : Nat) (p : ShareParams) (s : State) : (shareExtent pad p s).ym = s.ym := by
  unfold shareExtent
  split <;> rfl

/-! ## EXT.MAP, EXT.UNMAP, HINT (R279, R280, R289, R291, R298, R373) -/

section
variable {s : State} {c : Cmd}

/-- A new extent on free granules that can be zeroed now is in the table at once. -/
theorem beginMap_new {d : ExtDesc} {pbase : Nat} (hidle : (getSpace s d.tag.toNat).draining = none) (hok : mapOk s c.hdr.paddock.toNat d = true)
    (hrun : freeRun s d.space d.half d.len.toNat = some pbase) (hbudget : d.len.toNat ≤ budgetLeft s c.hdr.paddock.toNat d.space d.half)
    (hzeroing : runZeroing s d.space d.half pbase d.len.toNat = false) (hwaits : runWaits s [(extentOf c.hdr.paddock.toNat d pbase).run] = false)
    (hnew : findExt s d.tag.toNat d.index.toNat = none) :
    beginMap c d s = writeStatus c.seq done
      (leBytes 2 d.index.toNat ++ leBytes 2 (getSpace s d.tag.toNat).epoch.toNat ++ leBytes 4 (shownBase c.hdr.ring.val pbase))
      (setTable d.tag.toNat ((getSpace s d.tag.toNat).table ++ [extentOf c.hdr.paddock.toNat d pbase])
        (giveExtent c.hdr.paddock.toNat d (extentOf c.hdr.paddock.toNat d pbase) s)) := by
  have hindex : findExt s d.tag.toNat (extentOf c.hdr.paddock.toNat d pbase).index = none := hnew
  simp only [beginMap, mapExtent, hidle, hok, hrun, Nat.not_lt.mpr hbudget, hzeroing, hwaits, hindex, Option.isSome_none, Bool.false_and, Bool.or_self,
    Bool.false_eq_true, if_false, if_true]
  rfl

theorem makeChange_idle {tag : Nat} {make : State → State} (hidle : (getSpace s tag).draining = none) : makeChange tag c make s = make s := by
  simp only [makeChange, hidle, Option.isSome_none, Bool.false_eq_true, if_false]

theorem beginUnmap_idle {tag : BitVec 10} {index : BitVec 12} {e : Extent} (hidle : (getSpace s tag.toNat).draining = none)
    (hok : unmapOk s c.hdr.paddock.toNat tag.toNat index.toNat = true) (he : findExt s tag.toNat index.toNat = some e) :
    beginUnmap c tag index s = replaceExt tag.toNat e [] (some c.seq) none s := by
  simp only [beginUnmap, makeChange_idle hidle, hok, if_true, unmapExtent, he]

theorem beginHint_idle {tag : BitVec 10} {index : BitVec 12} {hint : BitVec 2} {e : Extent} (hidle : (getSpace s tag.toNat).draining = none)
    (hhint : hint ≠ 0) (he : ownExt s c.hdr.paddock.toNat tag.toNat index.toNat = some e) :
    beginHint c tag index hint s = setHint c.seq tag.toNat index.toNat hint s := by
  simp only [beginHint, makeChange_idle hidle, he, bne_iff_ne.mpr hhint, Option.isSome_some, Bool.and_self, if_true]

theorem setHint_eq (seq tag index : Nat) (hint : BitVec 2) (s : State) : setHint seq tag index hint s = changeTag tag
    ((getSpace s tag).table.map fun e => if e.index = index then { e with hint := hint } else e)
    { cmd := some seq, freed := [], unshare := [], indices := [], mapped := none } s := by
  simp only [setHint, mapWhere, beq_iff_eq]

end

/-! ## Moves (R299, R375) -/

/-- The moves of a command may complete it and no other. -/
theorem beginMoves_begun (seq : Nat) (r : ExtRange) (e : Extent) (into : Bool) (s : State) (hs : ∀ c ∈ s.ym.cmds, c.began = true) :
    ∀ c ∈ (beginMoves seq r e into s).ym.cmds, c.began = true := by
  refine List.foldlRecOn (motive := fun t : State => ∀ c ∈ t.ym.cmds, c.began = true) _ _ ?_ fun t ht k _ => ?_
  · refine List.foldlRecOn (motive := fun t : State => ∀ c ∈ t.ym.cmds, c.began = true) _ _ hs fun t ht k _ => ?_
    cases into <;> cases residence t r.tag.toNat e k <;> exact ht
  · split
    · exact ht
    · exact writeStatus_begun _ _ _ _ ht

/-! ## COPY (R297, R376) -/

theorem beginBody_copy {h : CmdHdr} {s u : State} {p : CopyParams} {f : Fin 2 × Nat} (hf : cmdFunc u (begunCmd h (.copy p) s) = f)
    (hok : copyOk u h.ring.val f.1 h.paddock.toNat p = true) :
    beginBody (begunCmd h (.copy p) s) u = beginCopy s.ym.seq f.1 h.paddock.toNat p (gallop u) := by
  subst hf
  exact if_pos hok

/-- Settles O43: command by command, from what each begins on the state in which its packet has been taken. -/
theorem extentCommands : Obligations.ExtentCommands := by
  unfold Obligations.ExtentCommands
  intro h s pad
  refine ⟨?map, ?unmap, ?hint, fun r e he => ⟨fun t => ?host, fun t => ?prefetch⟩, ?aperture, ?migmode, ?copy, ?share⟩
  case map =>
    intro d pbase t hidle hok hrun hbudget hzeroing hwaits hnew u e sp
    have hsp : getSpace u d.tag.toNat = sp := getSpace_taken ..
    have hbudget' : budgetLeft u pad d.space d.half = budgetLeft s pad d.space d.half :=
      taken_finds (budgetLeft · pad d.space d.half) (fun _ _ => rfl) rfl
    have hbegins := beginMap_new (s := u) (c := begunCmd h (.extMap d) s) (hsp ▸ hidle) (taken_finds (mapOk · pad d) (fun _ _ => rfl) hok)
      (taken_finds (freeRun · d.space d.half d.len.toNat) (fun _ _ => rfl) hrun) (Nat.le_trans hbudget (Nat.le_of_eq hbudget'.symm))
      (taken_finds (runZeroing · d.space d.half pbase d.len.toNat) (fun _ _ => rfl) hzeroing) (taken_finds (runWaits · [e.run]) (fun _ _ => rfl) hwaits)
      (taken_finds (findExt · d.tag.toNat d.index.toNat) (fun _ _ => rfl) hnew)
    rw [hsp] at hbegins
    exact answer_command_status h _ s _ _ _ t hbegins ((setTable_ym ..).trans (giveExtent_ym ..))
  case unmap =>
    intro tag index e t hidle hok he
    have hbegins := beginUnmap_idle (s := taken h (.extUnmap tag index) s) (c := begunCmd h (.extUnmap tag index) s)
      (taken_finds (fun s => (getSpace s tag.toNat).draining) (fun _ _ => rfl) hidle)
      (taken_finds (unmapOk · pad tag.toNat index.toNat) (fun _ _ => rfl) hok) (taken_finds (findExt · tag.toNat index.toNat) (fun _ _ => rfl) he)
    exact answer_command_goesOn t hbegins (replaceExt_ym ..)
  case hint =>
    intro tag index hint e t hidle hhint he
    have hbegins := beginHint_idle (s := taken h (.adviseHint tag index hint) s) (c := begunCmd h (.adviseHint tag index hint) s)
      (taken_finds (fun s => (getSpace s tag.toNat).draining) (fun _ _ => rfl) hidle) hhint
      (taken_finds (ownExt · pad tag.toNat index.toNat) (fun _ _ => rfl) he)
    rw [setHint_eq, getSpace_taken] at hbegins
    exact answer_command_goesOn t hbegins (changeTag_ym ..)
  case host =>
    have hr : rangeExt (taken h (.adviseHost r) s) pad r = some e := taken_finds (rangeExt · pad r) (fun _ _ => rfl) he
    refine answer_command_begun h _ s _ t ?_ (beginMoves_begun s.ym.seq r e false _ (taken_begun h _ s t))
    simp only [beginBody, begunCmd]
    rw [hr]
  case prefetch =>
    have hr : rangeExt (taken h (.prefetch r) s) pad r = some e := taken_finds (rangeExt · pad r) (fun _ _ => rfl) he
    refine answer_command_begun h _ s _ t ?_ (beginMoves_begun s.ym.seq r e true _ (taken_begun h _ s t))
    simp only [beginBody, begunCmd]
    rw [hr]
  case aperture =>
    intro tag p fn t htag hfn u
    have htag' : tagOf u pad tag.toNat = true := taken_finds (tagOf · pad tag.toNat) (fun _ _ => rfl) htag
    have hfn' : cmdFunc u (begunCmd h (.adviseAperture tag) s) = (p, fn) := cmdFunc_taken rfl rfl hfn
    refine answer_command_status h _ s _ _ _ t ((if_pos htag').trans ?_) rfl
    rw [hfn']
    rfl
  case migmode =>
    intro tag mode hot t hok
    have hok' : migModeOk (taken h (.adviseMigmode tag mode hot) s) pad tag.toNat mode hot = true :=
      taken_finds (migModeOk · pad tag.toNat mode hot) (fun _ _ => rfl) hok
    exact answer_command_status h _ s _ _ _ t ((if_pos hok').trans (by rw [getSpace_taken]; rfl)) rfl
  case copy =>
    intro p q fn t hfn hok
    have hok' : copyOk (taken h (.copy p) s) h.ring.val q pad p = true := taken_finds (copyOk · h.ring.val q pad p) (fun _ _ => rfl) hok
    exact answer_command h _ s _ t (beginBody_copy (f := (q, fn)) (cmdFunc_taken rfl rfl hfn) hok')
  case share =>
    intro p t hok
    have hok' : shareOk (taken h (.extShare p) s) pad p = true := taken_finds (shareOk · pad p) (fun _ _ => rfl) hok
    exact answer_command_status h _ s _ _ _ t (if_pos hok') (shareExtent_ym ..)

end Sys2Proof.Machine
end

section
/-! PROOFS. Commands on posts, groups, windows, links, check units and snapshots (R294, R296, R342, R383 to R388, R425, R452, R475, R479, R481): what each
begins, and that it then waits or has its entry. -/

namespace Sys2Proof.Machine

/-! ## POST.SET and POST.WAIT (R383, R384) -/

section
variable {s : State} {c : Cmd} {p : BitVec 15} {v : W48} {d : Nat}

theorem releaseWaits_none (d : Nat) (h : s.posts.waits = []) : releaseWaits d s = s := by
  rw [releaseWaits, h]
  rfl

/-- A set that no wait stands on acts on its post alone. -/
theorem beginPostSet_quiet (hp : padPost s c.hdr.paddock.toNat p.toNat = some d) (hw : s.posts.waits = []) :
    beginPostSet c p v s = writeStatus c.seq done [] (setPostValue d (BitVec.ofNat 48 v.toNat) s) := by
  simp only [beginPostSet, hp, applyUpd, if_true]
  rw [releaseWaits_none]
  exact hw

/-- A wait whose post is below its target stays registered at the post's home. -/
theorem beginPostWait_below (hp : padPost s c.hdr.paddock.toNat p.toNat = some d) (hv : postValue s d < v) :
    beginPostWait c p v s = { s with posts := { s.posts with
      waits := s.posts.waits ++ [{ id := s.posts.nextId, who := .cmd c.seq, post := some d, die := postDie d, target := v,
                                   entry := decide (postDie d < 8) && decide (entriesUsed s (postDie d) < 1024) }],
      nextId := s.posts.nextId + 1 } } := by
  simp only [beginPostWait, hp]
  exact if_neg (Bool.eq_false_iff.mp (decide_eq_false (BitVec.not_le.mpr hv)))

end

/-! ## Groups (R342, R385) -/

theorem joinGroup_ym (g : GroupRec) (s : State) : (joinGroup g s).ym = s.ym := by
  unfold joinGroup
  split <;> rfl

/-! ## Windows (R294, R296, R386) -/

section
variable {s : State} {c : Cmd}

theorem beginWinOpen_ok {w : WinEntry} (hok : winOk s c.hdr.paddock.toNat w = true) :
    beginWinOpen c w s =
      let x := getWin s w.win.toNat
      writeStatus c.seq done [w.win, x.wgen + 1] (setWin w.win.toNat { x with isOpen := true, entry := w, wgen := x.wgen + 1, inflight := 0, closing := none, old :=
        if x.inflight = 0 then x.old else x.old ++ [(x.wgen, x.inflight, x.closing)] } s) := by
  simp only [beginWinOpen, hok, Bool.not_true, Bool.false_eq_true, if_false]

/-- The first close of a window with operations in flight waits for them. -/
theorem beginWinClose_waits {win : Byte} (hgiven : (getWin s win.toNat).given = true) (hpad : (getWin s win.toNat).pad = c.hdr.paddock.toNat)
    (hfirst : (getWin s win.toNat).closing = none) (hflight : 0 < (getWin s win.toNat).inflight) :
    beginWinClose c win s = setWin win.toNat { getWin s win.toNat with isOpen := false, closing := some c.seq } s := by
  simp only [beginWinClose, closeOk, closeWindow, hgiven, hpad, hfirst, Nat.ne_of_gt hflight, Option.isNone_none, beq_self_eq_true, Bool.and_self,
    Bool.not_true, Bool.or_true, Bool.false_eq_true, if_false, if_true]

end

/-! ## Check units (R452) -/

theorem beginArm_free {s : State} {c : Cmd} {west : Bool} {u : BitVec 4} {poly : BitVec 2} (hfree : (getChk s (checkKey west u)).user = none) :
    beginArm c west u poly s = writeStatus c.seq done [] (setChk (checkKey west u) { getChk s (checkKey west u) with
      armed := true, poly := poly, bytes := 0, value := 0, run := [] } s) :=
  if_neg (by rw [hfree]; decide)

/-! ## Snapshots (R475, R479, R481) -/

section
variable {s : State}

theorem restoreBusy_eq_false {h : CmdHdr} (hidle : ∀ e ∈ s.pads, h.paddock = 0xFF ∨ e.1 = h.paddock.toNat → padState e.2 = 0) : restoreBusy s h = false := by
  simpa [restoreBusy, restoreCovers] using fun n d hn hc => hidle (n, d) hn hc

theorem beginRestore_noData {c : Cmd} {g : Byte} (hidle : restoreBusy s c.hdr = false) (hg : genNamed s g = some none) :
    beginRestore c g s = writeStatus c.seq noData [] s := by
  simp only [beginRestore, hidle, hg, Bool.false_eq_true, if_false]

theorem beginRestore_runs {c : Cmd} {g : Byte} {k : Fin 2} (hidle : restoreBusy s c.hdr = false) (hg : genNamed s g = some (some k))
    (hwait : gransWait s (restoreDue s k (restoreCovers c.hdr)) = false) :
    beginRestore c g s = writeStatus c.seq done [] (restoreGrans k (restoreCovers c.hdr) s) := by
  simp only [beginRestore, runRestore, hidle, hg, hwait, Bool.false_eq_true, if_false]

variable {seq : Nat} {p : StreamParams} (hok : streamOk p = true)
include hok

theorem beginStream_continuous (hcont : p.cont = true) : beginStream seq p s = writeStatus seq accepted []
    (setStreams (s.snaps.streams ++ [{ gen := 0, p := p, cmd := none, second := false, active := false, due := false }]) s) := by
  simp only [beginStream, hok, hcont, Bool.not_true, Bool.false_eq_true, if_false, if_true]

/-- One image that has room and is not checked is active at once. -/
theorem beginStream_once {g : Fin 2} (hcont : p.cont = false) (hg : genNamed s p.gen = some (some g))
    (hroom : imageBytes (imageGrans s g).length ≤ imageRoom p) (hunit : p.unit = 0) : beginStream seq p s =
      setStreams (s.snaps.streams ++ [{ gen := g, p := p, cmd := some seq, second := false, active := true, due := false }]) s := by
  simp only [beginStream, hok, hcont, hg, Nat.not_lt.mpr hroom, armStream, streamUnit, hunit, Bool.not_true, Bool.false_eq_true, if_false, if_true]

end

/-- Settles O46: command by command, from what each begins on the state in which its packet has been taken. -/
theorem postGroupWindowLinkCommands : Obligations.PostGroupWindowLinkCommands := by
  unfold Obligations.PostGroupWindowLinkCommands
  intro h s pad
  refine ⟨?set, ?wait, ?join, fun g t => ?leave, ?opened, ?closed, fun p t => ?query, fun p t => ?enable, fun p t => ?disable, fun p m w t => ?mode, ?arm,
    fun west u t => ?read, fun full t => ?mark, ?restore, ?stream⟩
  case set =>
    intro p v d t hp hw
    have hp' : padPost (taken h (.postSet p v) s) pad p.toNat = some d := taken_finds (padPost · pad p.toNat) (fun _ _ => rfl) hp
    have hw' : (taken h (.postSet p v) s).posts.waits = [] := taken_finds (fun s => s.posts.waits) (fun _ _ => rfl) hw
    exact answer_command_status h _ s _ _ _ t (beginPostSet_quiet hp' hw') rfl
  case wait =>
    intro p v n d t hp hv u entry w
    have hp' : padPost u pad p.toNat = some d := taken_finds (padPost · pad p.toNat) (fun _ _ => rfl) hp
    have hvalue : postValue u d = postValue s d := taken_finds (postValue · d) (fun _ _ => rfl) rfl
    have hv' : postValue u d < v := by rw [hvalue]; exact hv
    have hposts : u.posts = s.posts := taken_finds (fun s => s.posts) (fun _ _ => rfl) rfl
    refine answer_command_goesOn t ((beginPostWait_below hp' hv').trans ?_) rfl
    simp only [entriesUsed, hposts]
    rfl
  case join =>
    intro g t hok
    have hok' : groupJoinOk (taken h (.groupJoin g) s) g = true := taken_finds (groupJoinOk · g) (fun _ _ => rfl) hok
    exact answer_command_status h _ s _ _ _ t (if_pos hok') (joinGroup_ym ..)
  case leave => exact answer_command_status h _ s _ _ _ t rfl rfl
  case opened =>
    intro w t hok x
    have hok' : winOk (taken h (.winOpen w) s) pad w = true := taken_finds (winOk · pad w) (fun _ _ => rfl) hok
    have hx : getWin (taken h (.winOpen w) s) w.win.toNat = x := taken_finds (getWin · w.win.toNat) (fun _ _ => rfl) rfl
    have hbegins := beginWinOpen_ok (c := begunCmd h (.winOpen w) s) hok'
    rw [hx] at hbegins
    exact answer_command_status h _ s _ _ _ t hbegins rfl
  case closed =>
    intro win t hgiven hpad hfirst hflight
    have hx : getWin (taken h (.winClose win) s) win.toNat = getWin s win.toNat := taken_finds (getWin · win.toNat) (fun _ _ => rfl) rfl
    have hbegins := beginWinClose_waits (s := taken h (.winClose win) s) (c := begunCmd h (.winClose win) s) (win := win)
    rw [hx] at hbegins
    exact answer_command_goesOn t (hbegins hgiven hpad hfirst hflight) rfl
  case query =>
    have hx : getPort (taken h (.linkQuery p) s) (portOf p) = getPort s (portOf p) := taken_finds (getPort · (portOf p)) (fun _ _ => rfl) rfl
    exact hx ▸ answer_command_status h _ s _ _ _ t rfl rfl
  case enable => exact answer_command h _ s _ t rfl
  case disable => exact answer_command h _ s _ t rfl
  case mode => exact answer_command h _ s _ t rfl
  case arm =>
    intro west u poly t hfree
    have hx : getChk (taken h (.checkArm west u poly) s) (checkKey west u) = getChk s (checkKey west u) :=
      taken_finds (getChk · (checkKey west u)) (fun _ _ => rfl) rfl
    have hbegins := beginArm_free (s := taken h (.checkArm west u poly) s) (c := begunCmd h (.checkArm west u poly) s) (poly := poly) (hx ▸ hfree)
    rw [hx] at hbegins
    exact answer_command_status h _ s _ _ _ t hbegins rfl
  case read =>
    have hx : getChk (taken h (.checkRead west u) s) (checkKey west u) = getChk s (checkKey west u) :=
      taken_finds (getChk · (checkKey west u)) (fun _ _ => rfl) rfl
    exact hx ▸ answer_command_status h _ s _ _ _ t rfl rfl
  case mark => exact answer_command_goesOn t rfl rfl
  case restore =>
    intro g t hidle
    have hidle' : restoreBusy (taken h (.snapRestore g) s) h = false :=
      taken_finds (restoreBusy · h) (fun _ _ => rfl) (restoreBusy_eq_false hidle)
    refine ⟨fun hg => ?_, fun k hg => ?_⟩
    · have hg' : genNamed (taken h (.snapRestore g) s) g = some none := taken_finds (genNamed · g) (fun _ _ => rfl) hg
      exact answer_command_status h _ s _ _ _ t (beginRestore_noData hidle' hg') rfl
    · intro u hwait
      have hg' : genNamed u g = some (some k) := taken_finds (genNamed · g) (fun _ _ => rfl) hg
      exact answer_command h _ s _ t (beginRestore_runs hidle' hg' hwait)
  case stream =>
    intro p t hok u
    have hsnaps : u.snaps = s.snaps := taken_finds (fun s => s.snaps) (fun _ _ => rfl) rfl
    refine ⟨fun hcont => ?_, fun g hcont hg hroom hunit => ?_⟩
    · have hbegins := beginStream_continuous (s := u) (seq := s.ym.seq) hok hcont
      rw [hsnaps] at hbegins
      exact answer_command_status h _ s _ _ _ t hbegins rfl
    · have hg' : genNamed u p.gen = some (some g) := taken_finds (genNamed · p.gen) (fun _ _ => rfl) hg
      have hgrans : imageGrans u g = imageGrans s g := taken_finds (imageGrans · g) (fun _ _ => rfl) rfl
      have hroom' : imageBytes (imageGrans u g).length ≤ imageRoom p := by rw [hgrans]; exact hroom
      have hbegins := beginStream_once (seq := s.ym.seq) hok hcont hg' hroom' hunit
      rw [hsnaps] at hbegins
      exact answer_command_goesOn t hbegins rfl

end Sys2Proof.Machine
end

section
/-! PROOFS. Host ports and functions (R297, R421 to R423, R495, R496, R539): what PERST, a link, a function's power state and SR-IOV leave, and what a request
at the aperture comes to (R211, R300). -/

namespace Sys2Proof.Machine

/-! ## Links, PERST and the functions' power states (R421 to R423, R495) -/

section
variable {s : State} {h : Fin 2}

/-- A link that may train and is down comes up. -/
theorem hostUp_trains (hs : awake s = true) (hhalf : halfIn s h.val = true) (hperst : s.pins.perst.getLsbD h.val = false)
    (hhold : s.hosts[h].hold = false) (hdown : s.hosts[h].up = false) :
    hostUp h s = warmEntries (endStopped (setHost h { s.hosts[h] with up := true } s)) := by
  have htrains : hostTrains s h = true := by simp only [hostTrains, hs, hhalf, hperst, hhold, Bool.true_or, Bool.not_false, Bool.and_self]
  simp only [hostUp, htrains, hdown, Bool.not_false, Bool.and_self, if_true]

theorem perstAssertOp_powered (hp : s.pins.p48vOk = true) :
    perstAssertOp h s = hostDown h (setHost h { s.hosts[h] with hold := false } { s with pins := { s.pins with perst := setBit s.pins.perst h.val true } }) :=
  if_pos hp

variable {long : Bool}

/-- PERST released while PWR_OK is low holds the port. -/
theorem perstDeassertOp_low (hp : s.pins.pwrOk = false) : perstDeassertOp h long s =
    setHost h { s.hosts[h] with hold := true } { s with pins := { s.pins with perst := setBit s.pins.perst h.val false } } :=
  if_pos (by simp [perstLow, hp])

variable (hp : s.pins.p48vOk = true) (hok : s.pins.pwrOk = true)
include hp hok

/-- PERST released outside STABLED changes the pin alone. -/
theorem perstDeassertOp_running (hstate : s.pwr.state ≠ .stabled) :
    perstDeassertOp h long s = { s with pins := { s.pins with perst := setBit s.pins.perst h.val false } } := by
  simp [perstDeassertOp, perstLow, hp, hok, hstate]

/-- A long pulse wakes a stabled device. -/
theorem perstDeassertOp_wakes (hstate : s.pwr.state = .stabled) (hexit : s.pwr.exiting = false) : perstDeassertOp h true s =
    { s with pins := { s.pins with perst := setBit s.pins.perst h.val false }, pwr := { s.pwr with exiting := true } } := by
  simp [perstDeassertOp, perstLow, startExit, hp, hok, hstate, hexit]

end

section
variable {s : State} {f : Func} (hup : s.hosts[f.port].up = true)
include hup

theorem d3Entry_up : d3Entry f s = stopCopies (fun p fn => p == f.port && fn == f.vf.val)
    (setHost f.port { s.hosts[f.port] with d3 := setBit s.hosts[f.port].d3 f.vf.val true } s) := by
  simp only [d3Entry, hup, Bool.not_true, Bool.false_eq_true, if_false]

theorem d0ReturnOp_up : d0ReturnOp f s =
    warmEntries (endStopped (setHost f.port { s.hosts[f.port] with d3 := setBit s.hosts[f.port].d3 f.vf.val false } s)) := by
  simp only [d0ReturnOp, hup, Bool.not_true, Bool.false_eq_true, if_false]

end

theorem sriov_up {s : State} {h : Fin 2} {n : Nat} (hup : funcUp s h 0 = true) (hwaiting : s.sec.waiting = false) :
    sriov h n s = endStopped (stopCopies (fun p fn => p == h && decide (n < fn)) (setHost h { s.hosts[h] with numVf := n } s)) := by
  simp only [sriov, hup, hwaiting, Bool.not_true, Bool.or_self, Bool.false_eq_true, if_false]

/-! ## The aperture (R211, R297, R300, R539) -/

section
variable {s : State} {f : Func} {va : Nat} {req : ApReq} (hs : atWork s = true) (hup : funcUp s f.port f.vf.val = true)
include hs hup

/-- A request at a function that has chosen no address space reads zeros and writes nothing. -/
theorem aperture_unmapped (hunder : apertUnder s f none = none) :
    (∀ n, aperture f va (.read n) s = withReply (List.replicate n 0) s) ∧ ∀ bs, aperture f va (.write bs) s = s := by
  simp only [aperture, atWork_awake s hs, hs, hup, hunder, Bool.not_true, Bool.or_self, Bool.false_eq_true, if_false, implies_true, and_self]

variable {tag : Nat} {epoch : W16} (hunder : apertUnder s f none = some (tag, epoch))
include hunder

/-- A request that memory holds, or that stands behind one of its own bytes, waits. -/
theorem aperture_waits {r : State × Bool} (hr : apertHold (apertEng (gallop s) f.port tag epoch) va (reqSize req) (reqWrites req) (gallop s) = r)
    (hwaits : r.2 = true ∨ apertBehind (gallop s) f.port s.xlt.nextHeld
      (apertSpans (gallop s) (apertEng (gallop s) f.port tag epoch) va (reqSize req)) = true) :
    aperture f va req s = holdReq (.aperture f va req) (some (tag, epoch)) r.1 := by
  subst hr
  simp only [aperture, tryAperture, atWork_awake s hs, hs, hup, hunder, Bool.or_eq_true, if_pos hwaits, Bool.not_true, Bool.or_self, Bool.false_eq_true,
    if_false]

/-- Any other is performed. -/
theorem aperture_performed {r : State × Bool} (hr : apertHold (apertEng (gallop s) f.port tag epoch) va (reqSize req) (reqWrites req) (gallop s) = r)
    (hfree : r.2 = false) (hfirst : apertBehind (gallop s) f.port s.xlt.nextHeld
      (apertSpans (gallop s) (apertEng (gallop s) f.port tag epoch) va (reqSize req)) = false) :
    let g := apertEng (gallop s) f.port tag epoch
    let counted := apertCount g va (reqSize req) r.1
    (∀ n, req = .read n → let x := apertRead g va n counted
      aperture f va req s = withReply x.2.1 (countRefusal g.pad x.2.2 false x.1)) ∧
    (∀ bs, req = .write bs → let x := apertWrite g va bs counted
      aperture f va req s = countRefusal g.pad x.2 false x.1) := by
  subst hr
  constructor
  · rintro n rfl
    simp only [aperture, tryAperture, atWork_awake s hs, hs, hup, hunder, hfree, hfirst, Bool.not_true, Bool.or_self, Bool.false_eq_true, if_false]
  · rintro bs rfl
    simp only [aperture, tryAperture, atWork_awake s hs, hs, hup, hunder, hfree, hfirst, Bool.not_true, Bool.or_self, Bool.false_eq_true, if_false]

end

/-! ## The rows -/

section
variable {s u : State} (hs : s.pins.p48vOk = true)
include hs

theorem exec_perstDeassert {h : Fin 2} {long : Bool} (e : perstDeassertOp h long s = u) : exec (.perstDeassert h long) s =
    .next (keepInputs s { s.pins with perst := setBit s.pins.perst h.val false } (finish u)) :=
  e ▸ congrArg (fun t => Host.Outcome.next (keepInputs s { s.pins with perst := setBit s.pins.perst h.val false } t)) (if_pos hs)

theorem exec_apertureRequest {f : Func} {va : W64} {req : ApReq} (e : aperture f va.toNat req s = u) :
    exec (.apertureRequest f va req) s = .next (leaves s (finish u)) := e ▸ answer_leaves s (finish (aperture f va.toNat req s)) hs

end

/-- Settles O53: event by event, from what each does at its port; a request at the aperture by what its function has chosen and by whether memory holds it. -/
theorem hostPortEvents : Obligations.HostPortEvents := by
  unfold Obligations.HostPortEvents
  intro s hs
  refine ⟨fun h => answer_leaves s _ hs, ?up, fun h => ⟨?assert, ?deassert⟩, fun f hup => ⟨?d3, ?d0⟩, ?sriov,
    fun f va hw hup => ⟨fun hnone => ?unmapped, ?mapped⟩⟩
  case up =>
    intro h hwake hhalf hperst hhold hdown
    rw [← hostUp_trains hwake hhalf hperst hhold hdown]
    exact answer_leaves s _ hs
  case assert =>
    intro low
    have hpowered : poweredFinish s (perstAssertOp h s) = finish (perstAssertOp h s) := if_pos hs
    exact congrArg (fun t => Host.Outcome.next (keepInputs s low t)) (hpowered.trans (congrArg finish (perstAssertOp_powered hs)))
  case deassert =>
    intro high
    exact ⟨fun hok hstate long => exec_perstDeassert hs (perstDeassertOp_running hs hok hstate),
      fun hok hstate hexit => exec_perstDeassert hs (perstDeassertOp_wakes hs hok hstate hexit),
      fun hlow long => exec_perstDeassert hs (perstDeassertOp_low hlow)⟩
  case d3 =>
    rw [← d3Entry_up hup]
    exact answer_leaves s _ hs
  case d0 =>
    rw [← d0ReturnOp_up hup]
    exact answer_leaves s _ hs
  case sriov =>
    intro h n hup hwaiting
    rw [← sriov_up hup hwaiting]
    exact answer_leaves s _ hs
  case unmapped =>
    obtain ⟨hread, hwrite⟩ := aperture_unmapped (va := va.toNat) hw hup hnone
    exact ⟨fun n => exec_apertureRequest hs (hread n), fun bs => exec_apertureRequest hs (hwrite bs)⟩
  case mapped =>
    intro tag epoch req hunder u g size writes r counted behind
    have hsize : reqSize req = size := by cases req <;> rfl
    have hwrites : reqWrites req = writes := by cases req <;> rfl
    have hr : apertHold g va.toNat (reqSize req) (reqWrites req) u = r := by rw [hsize, hwrites]
    have hb : apertBehind u f.port s.xlt.nextHeld (apertSpans u g va.toNat (reqSize req)) = behind := by rw [hsize]
    refine ⟨fun hwaits => exec_apertureRequest hs (aperture_waits hw hup hunder hr (hb ▸ hwaits)), fun hfree hfirst => ?_⟩
    obtain ⟨hread, hwrite⟩ := aperture_performed hw hup hunder hr hfree (hb.trans hfirst)
    rw [hsize] at hread hwrite
    exact ⟨fun n hn => exec_apertureRequest hs (hread n hn), fun bs hbs => exec_apertureRequest hs (hwrite bs hbs)⟩

end Sys2Proof.Machine
end

section
/-! PROOFS. Windows, tags, paddocks and moves (R291, R292, R295, R299 to R303, R410, R416): what the end of each leaves. -/

namespace Sys2Proof.Machine

/-! ## Windows and tags (R291, R292, R295) -/

section
variable {s : State} {w : Nat}

/-- The window's own close is answered where nothing of it or of an earlier opening is in flight. -/
theorem windowDrainedOp_closes {seq : Nat} (hclosing : (getWin s w).closing = some seq) (hidle : (getWin s w).inflight = 0)
    (hold : ((getWin s w).old.filter fun o => o.2.1 == 0) = []) :
    windowDrainedOp w s = writeStatus seq done [] (setWin w { getWin s w with closing := none } s) := by
  simp only [windowDrainedOp, hold, List.foldl_nil, if_pos hidle]
  rw [hclosing, statusOpt]

/-- The close of an earlier opening is answered where that opening alone has drained. -/
theorem windowDrainedOp_earlier {o : Byte × Nat × Option Nat} {seq : Nat} (hbusy : (getWin s w).inflight ≠ 0)
    (hold : ((getWin s w).old.filter fun o => o.2.1 == 0) = [o]) (ho : o.2.2 = some seq) :
    windowDrainedOp w s = writeStatus seq done [] (setWin w { getWin s w with old := (getWin s w).old.filter fun q => q.1 != o.1 } s) := by
  simp only [windowDrainedOp, hold, List.foldl_cons, List.foldl_nil, if_neg hbusy, ho, statusOpt]

end

section
variable {s : State} {tag : Nat} {c : Change}

/-- The state in which what a drained change frees and unshares is gone. -/
def changeGone (tag : Nat) (c : Change) (s : State) : State :=
  dropMig tag c (c.unshare.foldl (fun t u => dropShare u.1 u.2 t) (setSpace tag { getSpace s tag with draining := none, prev := [] } (freeRuns c.freed s)))

variable (hdraining : (getSpace s tag).draining = some c) (hdrained : tagDrained s tag = true) (hshare : shareInUse s tag c = false)
  (hwaits : runWaits s (c.freed.filter fun r => r.conf) = false)
include hdraining hdrained hshare hwaits

theorem tagDrainOp_silent (hcmd : c.cmd = none) :
    tagDrainOp tag s = nextChange ((getSpace (changeGone tag c s) tag).waiting.length + 1) tag (changeGone tag c s) := by
  simp only [tagDrainOp, hdraining, hdrained, hshare, hwaits, hcmd, Bool.not_true, Bool.or_self, Bool.false_eq_true, if_false]
  rfl

theorem tagDrainOp_answers {seq : Nat} {k : Cmd} {u : State} (hcmd : c.cmd = some seq) (hk : findCmd (changeGone tag c s) seq = some k)
    (hu : writeStatus seq done (changeResult k.body (getSpace (changeGone tag c s) tag) c) (changeGone tag c s) = u) :
    tagDrainOp tag s = nextChange ((getSpace u tag).waiting.length + 1) tag u := by
  subst hu
  rw [changeGone] at hk ⊢
  simp only [tagDrainOp, hdraining, hdrained, hshare, hwaits, hcmd, hk, Bool.not_true, Bool.or_self, Bool.false_eq_true, if_false]

end

/-! ## The last steps of a paddock's drain (R410, R416) -/

section
variable {s : State} {k pad : Nat} {d : Pad} {r : Drain} (hd : getPad s pad = some d) (hr : d.drain = some r)
include hd hr

/-- A reset that no destroy joined ends with its entries. -/
theorem runDrain_resets (hstep : r.step = 6) (hdestroys : r.destroys = []) : runDrain (k + 1) pad s =
    modPad pad (fun d => { d with drain := none }) (r.resets.foldl (fun t c => writeStatus c done [] t) s) := by
  simp only [runDrain, hd, hr, hstep, hdestroys, List.isEmpty_nil, if_true]

/-- A destroy ends once no other paddock shares what the paddock owned. -/
theorem runDrain_destroys (hstep : r.step = 7) (hunshared : padUnshared s pad = true) :
    runDrain (k + 1) pad s = r.destroys.foldl (fun t c => writeStatus c done [] t) (destroyPad pad s) := by
  simp only [runDrain, hd, hr, hstep, hunshared, if_true]

end

/-! ## Migration (R299 to R303) -/

section
variable {s : State} {tag index gran : Nat} {e : Extent} {m : MigGran} (he : movingExt s tag index gran = some (e, m))
  (hup : s.hosts[padPort s (e.owner.toNat / 1024)].up = true) (hrefetch : refetching s e.half (e.pbase + gran) = false)
  (hwaits : granWaits s e.half (e.pbase + gran) = false)
include he hup hrefetch hwaits

/-- A granule that arrived as it was asked for, at an access or by a command, is on the device. -/
theorem moveDone_in {demand : Bool} (hin : m.res = .movingIn) (hmark : markPending s e.half (e.pbase + gran) = false) (hasked : m.cmd.isSome = !demand) :
    moveDone tag index gran demand s = moveOver tag e gran true (moveIn e gran s) := by
  have hkind : (demand == m.cmd.isSome) = false := by
    rw [hasked]
    cases demand <;> rfl
  simp only [moveDone, he, hup, hrefetch, hwaits, hin, hmark, hkind, beq_self_eq_true, Bool.not_true, Bool.or_self, Bool.false_eq_true, if_false, if_true]

theorem moveDone_out (hout : m.res = .movingOut) : moveDone tag index gran false s = moveOver tag e gran false (moveOut e gran s) := by
  have hkind : (m.res == Residence.movingIn) = false := by rw [hout]; rfl
  simp only [moveDone, he, hup, hrefetch, hwaits, hkind, Bool.not_true, Bool.or_self, Bool.false_eq_true, if_false]

end

/-! ## Swaps (R416) -/

section
variable {s : State} {pad slot : Nat} {q : Seq} (hq : slotSeq s pad slot = some q)
include hq

theorem swapOutDone_copies (hstate : q.state = .swapping) (hfree : ∀ p ∈ seqPairs q, refetching s q.half p.1 = false ∧ granWaits s q.half p.1 = false) :
    swapOutDone pad slot s = putSeq pad { q with state := .swapped, runs := [] }
      (freeServing pad [{ q with swap := [] }] (swapCopy q.half true (seqPairs q) s)) := by
  have hnone : ((seqPairs q).any fun p => refetching s q.half p.1 || granWaits s q.half p.1) = false :=
    List.any_eq_false.mpr fun p hp => by simp [hfree p hp]
  simp only [swapOutDone, hq, hnone, hstate, bne_self_eq_false, Bool.or_self, Bool.false_eq_true, if_false]

theorem swapInDone_copies (hstate : q.state = .copyIn) (hfree : ∀ p ∈ seqPairs q, markPending s q.half p.1 = false ∧ granWaits s q.half p.1 = false) :
    swapInDone pad slot s = putSeq pad { q with state := .decode, swap := [] }
      (q.swap.foldl (fun t r => dropRun r t) (swapCopy q.half false (seqPairs q) s)) := by
  have hnone : ((seqPairs q).any fun p => granWaits s q.half p.1) = false := List.any_eq_false.mpr fun p hp => by simp [hfree p hp]
  have hunmarked : ((seqPairs q).find? fun p => markPending s q.half p.1) = none := List.find?_eq_none.mpr fun p hp => by simp [hfree p hp]
  simp only [swapInDone, hq, hnone, hunmarked, hstate, bne_self_eq_false, Bool.or_self, Bool.false_eq_true, if_false]

end

/-! ## The rows -/

section
variable {s u : State}

theorem exec_windowDrained {w : Fin 256} (hs : awake s = true) (h : windowDrainedOp w.val s = u) :
    exec (.windowDrained w) s = .next (leaves s (finish u)) := h ▸ answer_ifAwake s (windowDrainedOp w.val) hs

theorem exec_tagDrainDone {tag : Fin 1024} (hs : awake s = true) (h : tagDrainOp tag.val s = u) :
    exec (.tagDrainDone tag) s = .next (leaves s (finish u)) := h ▸ answer_ifAwake s (tagDrainOp tag.val) hs

theorem exec_padDrainStepDone {pad : Fin 32} (hs : awake s = true) (h : drainStepDone pad.val s = u) :
    exec (.padDrainStepDone pad) s = .next (leaves s (finish u)) := h ▸ answer_ifAwake s (drainStepDone pad.val) hs

theorem exec_demandFetchDone {tag : Fin 1024} {index : Fin 4096} {gran : Nat} (hs : atWork s = true) (h : moveDone tag.val index.val gran true s = u) :
    exec (.demandFetchDone tag index gran) s = .next (leaves s (finish u)) := h ▸ answer_ifWork s (moveDone tag.val index.val gran true) hs

theorem exec_migrationMoveDone {tag : Fin 1024} {index : Fin 4096} {gran : Nat} (hs : atWork s = true) (h : moveDone tag.val index.val gran false s = u) :
    exec (.migrationMoveDone tag index gran) s = .next (leaves s (finish u)) := h ▸ answer_ifWork s (moveDone tag.val index.val gran false) hs

theorem exec_swapOutDone {pad : Fin 32} {slot : Fin 1024} (hs : atWork s = true) (h : swapOutDone pad.val slot.val s = u) :
    exec (.swapOutDone pad slot) s = .next (leaves s (finish u)) := h ▸ answer_ifWork s (swapOutDone pad.val slot.val) hs

theorem exec_swapInDone {pad : Fin 32} {slot : Fin 1024} (hs : atWork s = true) (h : swapInDone pad.val slot.val s = u) :
    exec (.swapInDone pad slot) s = .next (leaves s (finish u)) := h ▸ answer_ifWork s (swapInDone pad.val slot.val) hs

end

/-- Settles O54: event by event, from what the end of each close, change, drain, move and copy leaves. -/
theorem spaceEvents : Obligations.SpaceEvents := by
  unfold Obligations.SpaceEvents
  intro s
  refine ⟨fun hs => ⟨?closes, ?earlier, ?tag, ?reset, ?destroy⟩, fun hs => ⟨?moves, answer_ifWork s samplePeriod hs, ?swaps⟩⟩
  case closes => exact fun w seq hclosing hidle hold => exec_windowDrained hs (windowDrainedOp_closes hclosing hidle hold)
  case earlier => exact fun w o seq hbusy hold ho => exec_windowDrained hs (windowDrainedOp_earlier hbusy hold ho)
  case tag =>
    intro tag c hdraining hdrained hshare hwaits u v
    exact ⟨fun hcmd => exec_tagDrainDone hs (tagDrainOp_silent hdraining hdrained hshare hwaits hcmd),
      fun seq k hcmd hk => exec_tagDrainDone hs (tagDrainOp_answers hdraining hdrained hshare hwaits hcmd hk rfl)⟩
  case reset => exact fun pad d r hd hr hstep hdestroys => exec_padDrainStepDone hs (runDrain_resets hd hr hstep hdestroys)
  case destroy => exact fun pad d r hd hr hstep hunshared => exec_padDrainStepDone hs (runDrain_destroys hd hr hstep hunshared)
  case moves =>
    intro tag index gran e m he hup hrefetch hwaits
    refine ⟨fun hin hmark hcmd => ?_, fun hin hmark seq hcmd => ?_, fun hout => ?_⟩
    · exact exec_demandFetchDone hs (moveDone_in he hup hrefetch hwaits hin hmark (by rw [hcmd]; rfl))
    · exact exec_migrationMoveDone hs (moveDone_in he hup hrefetch hwaits hin hmark (by rw [hcmd]; rfl))
    · exact exec_migrationMoveDone hs (moveDone_out he hup hrefetch hwaits hout)
  case swaps =>
    intro pad slot q hq
    exact ⟨fun hstate hfree => exec_swapOutDone hs (swapOutDone_copies hq hstate hfree),
      fun hstate hfree => exec_swapInDone hs (swapInDone_copies hq hstate hfree)⟩

end Sys2Proof.Machine
end

section
/-! PROOFS. Packets of partners and frames (R295, R296, R435 to R437, R446): what one that arrives at a link that is up comes to. -/

namespace Sys2Proof.Machine

/-! ## Operations at a window (R290, R295, R296, R435) -/

section
variable {p : Fin 36} {t : TxHdr} {u : State} {r : State × Bool}

/-- An operation that memory does not hold is performed. -/
theorem beginRemote_performed {op : RemoteOp}
    (hr : tryRemote p t op (getWin u t.win.toNat).entry.tag.toNat (getSpace u (getWin u t.win.toNat).entry.tag.toNat).epoch u = r) (hfree : r.2 = false) :
    beginRemote p t op u = r.1 := by
  subst hr
  simp only [beginRemote, hfree, Bool.false_eq_true, if_false]

/-- One that memory holds counts as in flight at its window. -/
theorem beginRemote_held {op : RemoteOp}
    (hr : tryRemote p t op (getWin u t.win.toNat).entry.tag.toNat (getSpace u (getWin u t.win.toNat).entry.tag.toNat).epoch u = r) (hheld : r.2 = true) :
    beginRemote p t op u =
      holdReq (.remote p t op) (some ((getWin u t.win.toNat).entry.tag.toNat, (getSpace u (getWin u t.win.toNat).entry.tag.toNat).epoch))
        (setWin t.win.toNat { getWin r.1 t.win.toNat with inflight := (getWin r.1 t.win.toNat).inflight + 1 } r.1) := by
  subst hr
  simp only [beginRemote, hheld, if_true]

variable {g : Eng} {w : Window}

theorem tryWrite_held {bs : List Byte} (hr : rangeHold g false true (w.entry.vbase.toNat + t.offset.toNat) t.len.toNat u = r) (hheld : r.2 = true) :
    tryWrite g w t bs u = r := by
  subst hr
  exact if_pos hheld

theorem tryWrite_free {bs : List Byte} (hr : rangeHold g false true (w.entry.vbase.toNat + t.offset.toNat) t.len.toNat u = r) (hfree : r.2 = false) :
    tryWrite g w t bs u =
      let x := rangeWrite g false (w.entry.vbase.toNat + t.offset.toNat) (payload t bs) [] r.1
      (countLanded w t t.len.toNat (countRefusal w.pad x.2 false x.1), false) := by
  subst hr
  exact if_neg (Bool.eq_false_iff.mp hfree)

theorem tryRead_held (hr : rangeHold g false false (w.entry.vbase.toNat + t.offset.toNat) t.len.toNat u = r) (hheld : r.2 = true) :
    tryRead p g w t u = r := by
  subst hr
  exact if_pos hheld

theorem tryRead_clean (hr : rangeHold g false false (w.entry.vbase.toNat + t.offset.toNat) t.len.toNat u = r) (hfree : r.2 = false)
    (hclean : rangePoison r.1 g false (w.entry.vbase.toNat + t.offset.toNat) t.len.toNat = .clean) :
    tryRead p g w t u =
      let x := rangeRead g false (w.entry.vbase.toNat + t.offset.toNat) t.len.toNat r.1
      (respond p t x.2.1 (countLanded w t t.len.toNat (countRefusal w.pad x.2.2.2 false x.1)), false) := by
  subst hr
  simp only [tryRead, hfree, hclean, Bool.false_eq_true, if_false]

end

/-! ## Adds of one element (R258, R435) -/

section
variable {t : TxHdr} {anchor : Option (BitVec 10)} {vals : List W32} {longs : List (BitVec 192)} {u : State} {g : Eng} {w : Window} {e : Extent} {x va : Nat}

/-- The request to the line of the only element of an add, at place x of extent e. -/
def elementAdd (w : Window) (t : TxHdr) (anchor : Option (BitVec 10)) (vals : List W32) (longs : List (BitVec 192)) (e : Extent) (x : Nat) (u : State) : AddReq :=
  { id := u.loft.nextAdd, pad := w.pad, half := e.half, line := x / 1024, anchor := anchor, vals := vals.map fun v => (x % 1024 / 4, v),
    longs := longs.map fun l => (x % 1024 / 4, l), cls := classOf 0 e,
    src := .window t.win.toNat (some (windowPost w t)) (if longs.isEmpty then 4 else 24) t.wgen, waits := false }

/-- The state in which a request to a line stands behind those that came before it, and its operation in flight at its window. -/
def elementQueued (g : Eng) (t : TxHdr) (va : Nat) (q : AddReq) (u : State) : State :=
  let y := setWin t.win.toNat { getWin u t.win.toNat with inflight := (getWin u t.win.toNat).inflight + 1 } u
  g.noteLook va 0 { y with loft := { y.loft with adds := y.loft.adds ++ [q], nextAdd := y.loft.nextAdd + 1 } }

theorem onlyElement_placed {α : Type} (a : Nat) (l : List α) (hl : l.length ≤ 1) :
    (((l.drop 0).take 1).zipIdx.map fun v => (a + v.2, v.1)) = l.map fun v => (a, v) := by
  match l, hl with
  | [], _ => rfl
  | [_], _ => rfl

theorem migrHold_fixed {tag gran : Nat} (hm : e.migr = false) : migrHold tag e gran u = (u, false) := by
  simp only [migrHold, hm, Bool.not_false, if_true]

/-- An add of one element to an extent that does not migrate is one request. -/
theorem tryAdd_element (hlen : max vals.length longs.length = 1) (hruns : elementRuns (w.entry.vbase.toNat + t.offset.toNat) 1 = [(va, 0, 1)])
    (hreach : reach u (tableSeen u g.look g.tag g.epoch) g.pad g.tag false true va = some (e, x)) (hm : e.migr = false) :
    tryAdd g w t anchor vals longs u = (elementQueued g t va (elementAdd w t anchor vals longs e x u) u, false) := by
  obtain ⟨hv, hl⟩ : vals.length ≤ 1 ∧ longs.length ≤ 1 := Nat.max_le.mp (Nat.le_of_eq hlen)
  have hreach' : ∀ y, reach (setWin t.win.toNat y u) (tableSeen (setWin t.win.toNat y u) g.look g.tag g.epoch) g.pad g.tag false true va = some (e, x) :=
    fun _ => hreach
  simp only [tryAdd, hlen, hruns, List.foldl_cons, List.foldl_nil, hreach, hreach', migrHold_fixed hm, onlyElement_placed _ _ hv, onlyElement_placed _ _ hl,
    Nat.mul_one, Bool.false_eq_true, if_false]
  rfl

end

/-! ## Arrivals at a link (R432, R434, R436, R437) -/

section
variable {s : State} {p : Fin 36} {t : TxHdr} (hlive : portLive s p = true) (hup : (getPort s p).state = .up) (hmode : (getPort s p).mode = 0)
include hlive hup hmode

theorem linkUp_eq : (portLive s p && (getPort s p).state == .up && (getPort s p).mode == 0) = true := by
  simp only [hlive, hup, hmode, beq_self_eq_true, Bool.and_self]

/-- An operation that arrives while no restart runs is looked at on a device in GALLOP. -/
theorem arrives_up (hs : atWork s = true) (hrestart : restarting s = false) (f : State → State) :
    arrives p f s = f (gallop (setPort p { getPort s p with traffic := 10 } s)) := by
  simp only [arrives, linkUp_eq hlive hup hmode, hrestart, hs, Bool.not_true, Bool.or_self, Bool.false_eq_true, if_false]

theorem badPacket_up : badPacket p s = bump (1096 + p.val) 1 s := if_pos (linkUp_eq hlive hup hmode)

/-- A response lands the bytes of the packet of the read that it names, once. -/
theorem readRspOp_lands {bs : List Byte} {o : SendOp} {c : Nat × Nat}
    (ho : (s.links.ops.find? fun o => o.desc.op == 1 && o.desc.port.toNat == p.val && o.id % 65536 == t.rtag.toNat / 65536) = some o)
    (hc : (packets o.desc)[t.rtag.toNat % 65536]? = some c) (hfirst : o.landed.contains (t.rtag.toNat % 65536) = false) :
    readRspOp p t bs s = landOp o c.1 ((List.range c.2).map fun j => bs[j]?.getD 0) (t.rtag.toNat % 65536 :: o.landed)
      (setPort p { getPort s p with traffic := 10 } s) := by
  simp only [readRspOp, linkUp_eq hlive hup hmode, ho, hc, hfirst, Bool.not_true, Bool.false_eq_true, if_false]

theorem readRspOp_unknown {bs : List Byte}
    (ho : (s.links.ops.find? fun o => o.desc.op == 1 && o.desc.port.toNat == p.val && o.id % 65536 == t.rtag.toNat / 65536) = none) :
    readRspOp p t bs s = s := by
  simp only [readRspOp, linkUp_eq hlive hup hmode, ho, Bool.not_true, Bool.false_eq_true, if_false]

end

/-! ## Frames (R446) -/

section
variable {s : State} {p : Fin 36} (hlive : portLive s p = true) (hup : (getPort s p).state = .up) (hmode : (getPort s p).mode ≠ 0)
include hlive hup hmode

theorem frameUp_eq : (portLive s p && (getPort s p).state == .up && (getPort s p).mode != 0) = true := by
  simp only [hlive, hup, bne_iff_ne.mpr hmode, beq_self_eq_true, Bool.and_self]

theorem ethernet_arp : ethernet p .arp s = setPort p { getPort s p with traffic := 10 } s := by
  simp only [ethernet, frameUp_eq hlive hup hmode, Bool.not_true, Bool.false_eq_true, if_false]

theorem ethernet_other : ethernet p .other s = countFrame p (setPort p { getPort s p with traffic := 10 } s) := by
  simp only [ethernet, frameUp_eq hlive hup hmode, Bool.not_true, Bool.false_eq_true, if_false]

/-- A frame of a target that is ready halves its rate where it carries a congestion mark. -/
theorem ethernet_roce {k : Fin 16} (ecn : Bool) (hport : (getTgt s k.val).port.toNat = p.val) (hready : (getTgt s k.val).state = 2) :
    ethernet p (.roce k ecn) s =
      if ecn then setTgt k.val { getTgt s k.val with rate := (getTgt s k.val).rate / 2, halved := true } (setPort p { getPort s p with traffic := 10 } s)
      else setPort p { getPort s p with traffic := 10 } s := by
  have hk : getTgt (setPort p { getPort s p with traffic := 10 } s) k.val = getTgt s k.val := rfl
  simp only [ethernet, frameUp_eq hlive hup hmode, hk, hport, hready, beq_self_eq_true, Bool.or_true, Bool.and_self, Bool.not_true, Bool.false_eq_true, if_false,
    if_true]

end

/-- Settles O57: a packet at a window by whether its window passes it and memory holds it; a response and a frame by what they name. -/
theorem packetsReceived : Obligations.PacketsReceived := by
  unfold Obligations.PacketsReceived
  intro s p t hlive hup
  have hpower : s.pins.p48vOk = true := awake_power s (by simp only [portLive, Bool.and_eq_true] at hlive; exact hlive.1)
  have hrow {f u : State} (e : f = u) : answer s (finish f) = .next (leaves s (finish u)) := e ▸ answer_leaves s (finish f) hpower
  refine ⟨fun hs hrestart hmode => ?window, fun hmode => ⟨?bad, ?lands, ?unknown⟩, fun hmode => ⟨?arp, ?other, ?roce⟩⟩
  case window =>
    intro u w tag ep g va n post
    have harrives (f : State → State) : arrives p f s = f u := arrives_up hlive hup hmode hs hrestart f
    have hpassed (op : RemoteOp) {b : Bool} {f : State} {r : State × Bool} (hb : b = true) (hr : tryRemote p t op tag ep u = r) (hfree : r.2 = false) :
        (if !b then f else beginRemote p t op u) = r.1 := (if_neg (by simp [hb])).trans (beginRemote_performed hr hfree)
    have hwaits (op : RemoteOp) {b : Bool} {f : State} {r : State × Bool} (hb : b = true) (hr : tryRemote p t op tag ep u = r) (hheld : r.2 = true) :
        (if !b then f else beginRemote p t op u) = holdReq (.remote p t op) (some (tag, ep))
          (setWin t.win.toNat { getWin r.1 t.win.toNat with inflight := (getWin r.1 t.win.toNat).inflight + 1 } r.1) :=
      (if_neg (by simp [hb])).trans (beginRemote_held hr hheld)
    have hdropped {b : Bool} {f v : State} (hb : b = false) : (if !b then f else v) = f := if_pos (by simp [hb])
    refine ⟨?dropped, ?write, ?unread, ?read, ?post, ?add, ?unadded⟩
    case dropped =>
      intro bs hdrop
      exact hrow ((harrives _).trans (hdropped hdrop))
    case write =>
      intro bs hpass r
      refine ⟨fun hfree => ?_, fun hheld => ?_⟩
      · exact hrow ((harrives _).trans (hpassed (.write bs) hpass (tryWrite_free rfl hfree) rfl))
      · exact hrow ((harrives _).trans (hwaits (.write bs) hpass (tryWrite_held rfl hheld) hheld))
    case unread =>
      intro hdrop
      exact hrow ((harrives _).trans (hdropped hdrop))
    case read =>
      intro hpass r
      refine ⟨fun hfree hclean => ?_, fun hheld => ?_⟩
      · exact hrow ((harrives _).trans (hpassed .read hpass (tryRead_clean rfl hfree hclean) rfl))
      · exact hrow ((harrives _).trans (hwaits .read hpass (tryRead_held rfl hheld) hheld))
    case post =>
      intro hpass
      exact hrow ((harrives _).trans (if_neg (by rw [hpass]; decide)))
    case add =>
      intro v e x hpass hruns hreach hm q y ql queued
      have hadd {anchor vals longs} (hlen : max vals.length longs.length = 1) :
          remoteAddOp p t anchor vals longs s = elementQueued g t va (elementAdd w t anchor vals longs e x u) u :=
        (harrives _).trans (hpassed (.add anchor vals longs) (by rw [hlen]; exact hpass) (tryAdd_element hlen hruns hreach hm) rfl)
      exact ⟨hrow (hadd rfl), hrow (hadd rfl), fun l => hrow (hadd rfl)⟩
    case unadded =>
      intro v hdrop
      exact hrow ((harrives _).trans (hdropped hdrop))
  case bad => exact (answer_leaves s _ hpower).trans (by rw [badPacket_up hlive hup hmode])
  case lands => exact fun bs o c ho hc hfirst => hrow (readRspOp_lands hlive hup hmode ho hc hfirst)
  case unknown => exact fun ho bs => hrow (readRspOp_unknown hlive hup hmode ho)
  case arp => exact (answer_leaves s _ hpower).trans (by rw [ethernet_arp hlive hup hmode])
  case other => exact (answer_leaves s _ hpower).trans (by rw [ethernet_other hlive hup hmode])
  case roce =>
    intro k hport hready
    exact ⟨(answer_leaves s _ hpower).trans (by rw [ethernet_roce hlive hup hmode true hport hready]; rfl),
      (answer_leaves s _ hpower).trans (by rw [ethernet_roce hlive hup hmode false hport hready]; rfl)⟩

end Sys2Proof.Machine
end

section
/-! PROOFS. Commands that concern the device (R332, R340, R370 to R372, R388 to R391, R462, R484, R500, R506, R526, R535, R548, R553): what each begins, and
that it then waits or has its entry. -/

namespace Sys2Proof.Machine

/-! ## What a packet that begins at once has passed (R352, R358) -/

theorem taken_pwr (h : CmdHdr) (b : Body) (s : State) : (taken h b s).pwr = s.pwr := by
  obtain ⟨_, _, hpwr, _⟩ := takenAs_parts (begunCmd h b s) h b s
  exact hpwr

section
variable {h : CmdHdr} {b : Body} {s : State} (t : Takes h b s)
include t

theorem Takes.fields : b.fieldsOk = true := by
  obtain ⟨_, _, _, _, hchecks, _⟩ := t
  simp only [checksOk, Bool.and_eq_true] at hchecks
  obtain ⟨⟨⟨_, hfields⟩, _⟩, _⟩ := hchecks
  exact hfields

theorem Takes.stands : b.standsOk (seen h b s) h = true := by
  obtain ⟨_, _, _, _, hchecks, _⟩ := t
  simp only [checksOk, Bool.and_eq_true] at hchecks
  obtain ⟨_, hstands⟩ := hchecks
  exact hstands

/-- Work is done in GALLOP and TROT alone (R493). -/
theorem Takes.runs : (taken h b s).pwr.state = .gallop ∨ (taken h b s).pwr.state = .trot := by
  obtain ⟨hwork, _⟩ := t
  simp only [atWork, Bool.and_eq_true, Bool.or_eq_true, beq_iff_eq] at hwork
  obtain ⟨_, hstate⟩ := hwork
  rw [taken_pwr]
  exact hstate

/-- The function of the packet's ring answers (R422, R423). -/
theorem Takes.answers {p : Fin 2} {fn : Nat} (hfn : ringFunc s h.ring.val = some (p, fn)) : funcUp s p fn = true := by
  obtain ⟨_, hlive, _⟩ := t
  simp only [ringLive, hfn, Bool.and_eq_true] at hlive
  obtain ⟨⟨_, hup⟩, _⟩ := hlive
  exact hup

end

/-! ## FAULT.ACK (R462) -/

theorem ackRecord_ym (q : W64) (s : State) : (ackRecord q s).ym = s.ym := by
  unfold ackRecord
  split
  · rw [closeRecord_ym, putRecord_ym]
  · rfl

/-! ## Power (R346, R389, R390, R494, R500, R506) -/

section
variable {s : State} {c : Cmd}

/-- Without a group a cap on the device takes effect at once. -/
theorem beginCap_device {watts : W16} (hpad : c.hdr.paddock = 0xFF) (hok : capOk s none watts = true) (hgroups : s.beat.groups = []) :
    beginCap c watts s = writeStatus c.seq done [] (showCap (setPwr (fun p => { p with devcap := watts }) s)) := by
  have hnone : capPad c = none := if_pos hpad
  simp only [beginCap, capBeat, hnone, hok, hgroups, Bool.not_true, Bool.false_eq_true, if_false]
  cases c.hdr.atBeat with
  | none => rfl
  | some _ => rfl

theorem pwrCode_running {n : Nat} {x : PwrState} (hcode : pwrCode n = some x) (hx : x = .gallop ∨ x = .trot) : n < 2 := by
  unfold pwrCode at hcode
  split at hcode
  · decide
  · decide
  all_goals cases hcode <;> exact absurd hx (by decide)

theorem pwrCode_walk {n : Nat} (hcode : pwrCode n = some .walk) : n = 2 := by
  unfold pwrCode at hcode
  split at hcode <;> cases hcode
  rfl

variable {x : BitVec 3} {keep : BitVec 9} (hfields : stateFields x keep = true)
include hfields

theorem beginState_same (hcode : pwrCode x.toNat = some s.pwr.state) (hrunning : s.pwr.state = .gallop ∨ s.pwr.state = .trot) :
    beginState c x keep s = writeStatus c.seq done [] s := by
  have hlow : ¬ 2 ≤ x.toNat := Nat.not_le.mpr (pwrCode_running hcode hrunning)
  simp only [beginState, hcode, hfields, hlow, decide_false, Bool.not_true, Bool.false_and, Bool.or_self, beq_self_eq_true, Bool.false_eq_true, if_false,
    if_true]

theorem beginState_walk (hcode : pwrCode x.toNat = some .walk) (hallowed : lowAllowed s = true) (hrunning : s.pwr.state = .gallop ∨ s.pwr.state = .trot) :
    beginState c x keep s = writeStatus c.seq done [] (enterLow .walk keep s) := by
  have hother : (PwrState.walk == s.pwr.state) = false := by rcases hrunning with h | h <;> rw [h] <;> rfl
  have hstabled : (PwrState.walk == PwrState.stabled) = false := rfl
  have hlow : 2 ≤ x.toNat := Nat.le_of_eq (pwrCode_walk hcode).symm
  simp only [beginState, hcode, hfields, hallowed, hother, hstabled, hlow, decide_true, Bool.not_true, Bool.and_false, Bool.or_self, Bool.false_eq_true,
    if_false, if_true]

end

/-! ## ATT.REPORT (R391) -/

theorem beginReport_device {s : State} {c : Cmd} {dest : W64} {size : W32} {nonce : BitVec 256} {p : Fin 2} {fn : Nat} (hdest : dest.toNat % 4096 = 0)
    (hpad : c.hdr.paddock = 0xFF) (hfn : ringFunc s c.hdr.ring.val = some (p, fn)) (hup : funcUp s p fn = true)
    (hsize : (reportBytes s none nonce).length ≤ size.toNat) : beginReport c dest size nonce s =
      writeStatus c.seq done (leBytes 4 (reportBytes s none nonce).length) (hostWrites p dest.toNat (reportBytes s none nonce) s) := by
  simp only [beginReport, hdest, hpad, hfn, hup, Nat.not_lt.mpr hsize, ne_eq, not_true_eq_false, if_false, if_true]

/-! ## BEAT.SET (R331, R332) -/

/-- What the checks of a BEAT.SET say; its T0 is held against RT as the visit of its ring saw it. -/
theorem Takes.beatSet {h : CmdHdr} {s : State} {p : BeatSetParams} (t : Takes h (.beatSet p) s) :
    1 ≤ p.period.toNat ∧ p.period.toNat ≤ 10000 ∧ p.t0.toNat % 1000 = 0 ∧ (seen h (.beatSet p) s).beat.rt.toNat < p.t0.toNat ∧
    s.beat.count.toNat < p.n0.toNat ∧ p.source.toNat ≤ 1 := by
  have hstands : beatSetOk (seen h (.beatSet p) s) p = true := t.stands
  simp only [beatSetOk, Bool.and_eq_true, decide_eq_true_eq] at hstands
  obtain ⟨⟨⟨hmin, hmax⟩, hwhole, hlater, hcount⟩, hsource⟩ := hstands
  exact ⟨hmin, hmax, hwhole, hlater, hcount, hsource⟩

theorem beginBeatSet_first {s : State} {seq : Nat} {p : BeatSetParams} (hpend : s.beat.pend = none) : beginBeatSet seq p s = setBeat (fun b =>
    { b with pend := some { t0 := p.t0, n0 := p.n0, period := p.period, source := p.source, cmd := some seq } }) s := by
  simp only [beginBeatSet, hpend]

/-! ## TEST.SELF (R548) -/

/-- A test that finds no failing site retires none. -/
theorem beginSelf_passes {s : State} {c : Cmd} {q : Nat} (hin : halfIn s (q / 16) = true) (hfree : padOfQuad s q = none) :
    beginSelf c q [] s = writeStatus c.seq done (leBytes 5 ((List.range 36).foldl
      (fun m i => if s.snaps.badSites.contains (36 * q + i) then m else m + 2 ^ i) 0) ++ [BitVec.ofNat 8 (freeSites s q).length]) s := by
  have hok : selfOk s q = true := by rw [selfOk, hin, hfree]; rfl
  have husers : ((List.range 32).filter fun j => !(getCore s (32 * q + j)).out && ([] : List Nat).contains (getCore s (32 * q + j)).site) = [] := by
    simp
  simp only [beginSelf, hok, List.map_nil, husers, List.filter_nil, List.nil_append, List.foldl_nil, Bool.not_true, Bool.false_eq_true, if_false]

/-! ## CONF.ENTER (R526, R565) -/

section
variable {s : State}

/-- What a confidential paddock begins with: the keys of its bounce pages, from its session's secret. -/
def freshConf (p : ConfParams) (x : Session) : Conf :=
  { session := p.session, bounce := p.bounce, pages := p.pages, keyH2d := Config.hkdfExpand x.secret (bounceInfo false),
    keyD2h := Config.hkdfExpand x.secret (bounceInfo true), ctrD2h := 1, ctrH2d := 0, authfail := 0, viewed := none }

/-- The paddock holds its keys, and no pending write of a field that is now locked is left (R565). -/
def enterConf (pad : Nat) (p : ConfParams) (x : Session) (s : State) : State :=
  modPad pad (fun d => { d with conf := some (freshConf p x) }) { s with shadow := { s.shadow with keepmax := none, migPeriod := none, floor := none } }

theorem modPad_xlt (pad : Nat) (f : Pad → Pad) (s : State) : (modPad pad f s).xlt = s.xlt := by
  unfold modPad
  split <;> rfl

theorem report_xlt (e : Err) (s : State) : (report e s).xlt = s.xlt := by
  obtain ⟨_, _, _, _, _, _, _, _, h⟩ := Evicts.report s e
  rw [h]

theorem beginConf_idle {c : Cmd} {p : ConfParams} {d : Pad} {x : Session} (hok : confOk s c.hdr.paddock.toNat p = true)
    (hd : getPad s c.hdr.paddock.toNat = some d) (hx : findSession s p.session = some x) (hidle : (getSpace s d.p.taglo.toNat).draining = none) :
    beginConf c p s =
      let t := enterConf c.hdr.paddock.toNat p x s
      confSpill c d.p.taglo.toNat (report (secErr t 0x04 0 (BitVec.ofNat 8 c.hdr.paddock.toNat) t.sec.version) t) := by
  have hready (e : Err) : ¬ (getSpace (report e (enterConf c.hdr.paddock.toNat p x s)) d.p.taglo.toNat).draining.isSome = true := by
    have hxlt : (report e (enterConf c.hdr.paddock.toNat p x s)).xlt = s.xlt := by rw [report_xlt, enterConf, modPad_xlt]
    rw [getSpace, hxlt, ← getSpace, hidle]
    decide
  simp only [beginConf, hok, hd, hx, Bool.not_true, Bool.false_eq_true, if_false]
  exact if_neg (hready _)

theorem confSpill_ym (c : Cmd) (tag : Nat) (s : State) : (confSpill c tag s).ym = s.ym := rfl

end

/-! ## DEV.HALFLOSS (R372, R484) -/

theorem beginHalfloss_other {s : State} {c : Cmd} {half : Byte} {p : Fin 2} {fn : Nat} (hfn : ringFunc s c.hdr.ring.val = some (p, fn))
    (hhalf : half.toNat ≤ 1) (hother : half.toNat ≠ p.val) : beginHalfloss c half s = writeStatus c.seq done [] (loseHalf (decide (half.toNat = 1)) s) := by
  simp only [beginHalfloss, hfn, Nat.not_lt.mpr hhalf, hother, decide_false, Bool.or_self, Bool.false_eq_true, if_false]

/-- Settles O42: command by command, from what each begins on the state in which its packet has been taken. -/
theorem deviceCommands : Obligations.DeviceCommands := by
  unfold Obligations.DeviceCommands
  refine ⟨fun h s => ⟨fun t => ?info, fun q t => ?ack, ?cap, ?same, ?walk, ?fixed, ?report, ?snap, ?beat, ?self, ?conf⟩,
    fun h s => ⟨fun restore t => ?warm, fun keep c t => ?cold, ?loss⟩⟩
  case info => exact answer_command_status h _ s _ _ _ t rfl rfl
  case ack => exact answer_command_status h _ s _ _ _ t rfl (ackRecord_ym ..)
  case cap =>
    intro watts t hpad hok hgroups
    have hok' : capOk (taken h (.pwrCap watts) s) none watts = true := taken_finds (capOk · none watts) (fun _ _ => rfl) hok
    have hgroups' : (taken h (.pwrCap watts) s).beat.groups = [] := taken_finds (fun s => s.beat.groups) (fun _ _ => rfl) hgroups
    exact answer_command_status h _ s _ _ _ t (beginCap_device hpad hok' hgroups') rfl
  case same =>
    intro keep x t hcode
    have hcode' : pwrCode x.toNat = some (taken h (.pwrState x keep) s).pwr.state := by rw [taken_pwr, hcode]
    exact answer_command_status h _ s _ _ _ t (beginState_same t.fields hcode' t.runs) rfl
  case walk =>
    exact fun keep x t hcode hallowed => answer_command_status h _ s _ _ _ t (beginState_walk t.fields hcode hallowed t.runs) rfl
  case fixed =>
    intro mhz t hstep hceil
    have hok : fixedOk s true mhz = true := by
      simp only [fixedOk, if_true, hstep, Bool.true_and, List.all_eq_true, decide_eq_true_eq]
      exact hceil
    have hok' : fixedOk (taken h (.pwrFixed true mhz) s) true mhz = true := taken_finds (fixedOk · true mhz) (fun _ _ => rfl) hok
    exact answer_command_goesOn t (if_pos hok') rfl
  case report =>
    intro dest size nonce p fn t hdest hpad hfn u bs hsize
    have hfn' : ringFunc u h.ring.val = some (p, fn) := taken_finds (ringFunc · h.ring.val) (fun _ _ => rfl) hfn
    have hup : funcUp u p fn = true := taken_finds (funcUp · p fn) (fun _ _ => rfl) (t.answers hfn)
    exact answer_command_status h _ s _ _ _ t (beginReport_device hdest hpad hfn' hup hsize) rfl
  case snap =>
    intro beat slot t hfree u k
    have hok : cntSnapOk s slot = true := by rw [cntSnapOk, hfree]; rfl
    have hok' : cntSnapOk u slot = true := taken_finds (cntSnapOk · slot) (fun _ _ => rfl) hok
    exact answer_command_goesOn t (if_pos hok') rfl
  case beat =>
    intro p t hpend x
    have hpend' : (taken h (.beatSet p) s).beat.pend = none := by
      obtain ⟨_, _, _, _, e⟩ := takenAs_eq (begunCmd h (.beatSet p) s) h (.beatSet p) s
      rw [taken, e]
      exact hpend
    exact ⟨answer_command_goesOn t (beginBeatSet_first hpend') rfl, t.beatSet⟩
  case self =>
    intro quad t hin hfree u
    have hin' : halfIn u (quad.toNat / 16) = true := taken_finds (halfIn · (quad.toNat / 16)) (fun _ _ => rfl) hin
    have hfree' : padOfQuad u quad.toNat = none := taken_finds (padOfQuad · quad.toNat) (fun _ _ => rfl) hfree
    have hbegins := beginSelf_passes (c := begunCmd h (.testSelf quad []) s) hin' hfree'
    have hsnaps : u.snaps = s.snaps := taken_finds (fun s => s.snaps) (fun _ _ => rfl) rfl
    have hsites : freeSites u quad.toNat = freeSites s quad.toNat := taken_finds (freeSites · quad.toNat) (fun _ _ => rfl) rfl
    rw [hsnaps, hsites] at hbegins
    exact answer_command_status h _ s _ _ _ t hbegins rfl
  case conf =>
    intro p d x t hok hd hx hidle u conf v
    have hbegins := beginConf_idle (s := u) (c := begunCmd h (.confEnter p) s) (taken_finds (confOk · h.paddock.toNat p) (fun _ _ => rfl) hok)
      (taken_finds (getPad · h.paddock.toNat) (fun _ _ => rfl) hd) (taken_finds (findSession · p.session) (fun _ _ => rfl) hx)
      (taken_finds (fun s => (getSpace s d.p.taglo.toNat).draining) (fun _ _ => rfl) hidle)
    exact answer_command_goesOn t hbegins ((confSpill_ym ..).trans ((report_ym ..).trans (modPad_ym ..)))
  case warm => exact answer_command h _ s _ t rfl
  case cold => exact answer_command h _ s _ t rfl
  case loss =>
    intro half p fn t hfn hhalf hother
    have hfn' : ringFunc (taken h (.devHalfloss half) s) h.ring.val = some (p, fn) := taken_finds (ringFunc · h.ring.val) (fun _ _ => rfl) hfn
    exact answer_command h _ s _ t (beginHalfloss_other hfn' hhalf hother)

end Sys2Proof.Machine
end

section
/-! PROOFS. The beat (R328 to R339, R343, R344, R354): what sweeps, boundaries, the reference, frames, Sync messages and notices leave. -/

namespace Sys2Proof.Machine

/-! ## The reference (R330, R337 to R339) -/

theorem ptpSync_otherDomain {s : State} {m : SyncMsg} (hdomain : m.domain ≠ s.beat.ptpdom) : ptpSync m s = s :=
  if_pos (by rw [bne_iff_ne.mpr hdomain, Bool.or_true])

section
variable {s : State} (hs : awake s = true)
include hs

theorem referenceLost_holds {cause : LossCause} (hlocked : s.beat.locked = true) (hsource : s.beat.source = causeSource cause)
    (hport : cause = .port0 → ptpPort s = false) : referenceLost cause s = loseReference s := by
  have hseen : (cause == .port0 && ptpPort s) = false := by
    rw [Bool.and_eq_false_imp, beq_iff_eq]
    exact hport
  simp only [referenceLost, beatOn, hs, hlocked, hsource, hseen, beq_self_eq_true, Bool.and_self, Bool.not_false, if_true]

/-- A good frame that follows the last one gives RT of the frame start that ends it; in a lost reference it counts toward the regain. -/
theorem refFrame_follows {f : RefFrame} (hsource : s.beat.source = 0) (hgood : f.good = true) (hlast : s.beat.lastFrame = some (f.number - 1)) :
    refFrame f s =
      let u := setBeat (fun b => { b with lastFrame := some f.number, rt := (f.number + 1) * 1000000 }) s
      if s.beat.locked then u else setBeat (fun b => { b with good := b.good + 1 }) u := by
  have hfollows : frameFollows s f.number = true := by simp only [frameFollows, hlast, BitVec.sub_add_cancel, beq_self_eq_true]
  simp only [refFrame, beatOn, hs, hsource, hgood, hfollows, bne_self_eq_false, Bool.not_true, Bool.or_self, Bool.and_self, Bool.false_eq_true, if_false,
    if_true, setBeat]

/-- A Sync message without a servo step above 1 µs gives RT; in a lost reference one near enough counts toward the regain. -/
theorem ptpSync_steady {m : SyncMsg} (hsource : s.beat.source = 1) (hport : ptpPort s = true) (hdomain : m.domain = s.beat.ptpdom) (hstep : m.step ≤ 1000) :
    ptpSync m s =
      let u := setBeat (fun b => { b with rt := m.time }) s
      if s.beat.locked then u else setBeat (fun b => { b with sync := if m.offset < 100 then b.sync + 1 else 0 }) u := by
  simp only [ptpSync, beatOn, hs, hsource, hport, hdomain, hstep, Nat.not_lt.mpr hstep, bne_self_eq_false, decide_true, Bool.and_true, decide_eq_true_eq,
    Bool.not_true, Bool.or_self, Bool.false_eq_true, if_false, setBeat]

/-- The first lock after a cold start takes T0 of the beat defaults from RT (R334). -/
theorem regain_first (hlost : s.beat.locked = false) (hsource : s.beat.source = 0) (hgood : 3 ≤ s.beat.good) (hzero : s.beat.reached0 = false)
    (hcmd : s.beat.force.cmd = none) (ht0 : s.beat.force.t0 = 0) (hlosses : s.beat.losses = 0) :
    regain s = setBeat (fun b => { b with locked := true, good := 0, sync := 0, next := 0, force := { b.force with t0 := b.rt } }) s := by
  simp only [regain, regainDue, beatOn, hs, hlost, hsource, hgood, hzero, hcmd, ht0, hlosses, decide_true, Option.isNone_none, Bool.not_true, Bool.not_false,
    Bool.and_self, Bool.or_self, Bool.false_eq_true, if_false, if_true]

/-! ## BEAT.SET (R332) -/

theorem beatSetReached_lost {x : BeatSet} (hpend : s.beat.pend = some x) (hlost : s.beat.locked = false) : beatSetReached s = takeBeatSet x s := by
  simp only [beatSetReached, beatOn, hs, hpend, hlost, Bool.not_true, Bool.not_false, Bool.false_eq_true, if_false, if_true]

end

theorem takeBeatSet_eq (x : BeatSet) (s : State) : takeBeatSet x s =
    let b : Beat := if x.source = s.beat.source then s.beat else { s.beat with good := 0, sync := 0, lastFrame := none }
    { s with beat := { b with force := x, pend := none, source := x.source } } := by
  by_cases hsame : x.source = s.beat.source
  · simp only [takeBeatSet, setBeat, hsame, beq_self_eq_true, if_true]
  · simp only [takeBeatSet, setBeat, beq_eq_false_iff_ne.mpr hsame, hsame, Bool.false_eq_true, if_false]

/-! ## Boundaries (R331, R333, R335, R339) -/

/-- The rows of the beats that a boundary takes, the last of which is n, then what is told, and the commands and requests that these let go on. -/
def boundaryRows (m : BoundaryInputs) (beats : List Nat) (n : Nat) (cmd : Option Nat) (u : State) : State :=
  finish (sendLates m (tellRegained (retryTokens (statusOpt cmd done [] (beats.foldl (fun t b => beatEvents m (b == n) b t) u)))))

/-- Under modes 1 and 2 a sweep follows a boundary (R354). -/
def boundarySweep (w : State) : State := if w.ym.mode == 1 || w.ym.mode == 2 then finish (sweepAll w) else w

theorem boundarySweep_eq (w : State) : boundarySweep w = if w.ym.mode = 1 ∨ w.ym.mode = 2 then finish (sweepAll w) else w := by
  by_cases h : w.ym.mode = 1 ∨ w.ym.mode = 2
  · rw [boundarySweep, if_pos h, if_pos (by simpa using h)]
  · rw [boundarySweep, if_neg h, if_neg (by simpa using h)]

theorem boundary_moves {s w : State} (hs : awake s = true) (m : BoundaryInputs) (hlocked : s.beat.locked = true) {n : BeatSet × Nat × Nat}
    (hn : nextBoundary s = n) (hfits : n.2.1 < 2 ^ 64) (hahead : s.beat.count.toNat < n.2.1)
    (hw : boundaryRows m (boundaryBeats s (firstBeat s) n.2.1) n.2.1 n.1.cmd (moveCount n.1 n.2.1 n.2.2 s) = w) : boundary m s = boundarySweep w := by
  have hholds : ¬ (!beatOn s || !s.beat.locked) = true := by
    rw [beatOn, hs, hlocked]
    decide
  have hmoves : ¬ (decide (2 ^ 64 ≤ n.2.1) || (s.beat.reached0 && decide (n.2.1 ≤ s.beat.count.toNat))) = true := by
    rw [decide_eq_false (Nat.not_le.mpr hfits), decide_eq_false (Nat.not_le.mpr hahead), Bool.and_false]
    decide
  rw [boundary, if_neg hholds, hn]
  refine (if_neg hmoves).trans ?_
  rw [← hw, boundaryRows, boundarySweep]

/-- Where no BEAT.SET is pending, the boundary is the next one of the BEAT.SET in force. -/
theorem nextBoundary_inForce {s : State} (hpend : s.beat.pend = none) :
    nextBoundary s = (s.beat.force, s.beat.next.toNat, beatTime s.beat.force s.beat.next.toNat) := by simp only [nextBoundary, hpend]

theorem moveCount_count_rt (x : BeatSet) (n time : Nat) (s : State) :
    (moveCount x n time s).beat.count = BitVec.ofNat 64 n ∧ (moveCount x n time s).beat.rt = BitVec.ofNat 64 time := ⟨rfl, rfl⟩

/-! ## LATE notices (R344) -/

section
variable {s : State} {p : Fin 36} {k : LatePkt} {g : Group} (hlive : portLive s p = true) (hup : (getPort s p).state = .up) (hmode : (getPort s p).mode = 0)
  (hg : (s.beat.groups.find? fun g => g.cfg.gid == k.gid) = some g)
include hlive hup hmode hg

theorem lateIn_known : lateIn p k s =
    if g.seen.contains (k.origin, k.seq) then modGroup k.gid (fun g => { g with drops := BitVec.ofNat 16 (satAdd 16 g.drops.toNat 1) }) s
    else if k.ttl = 0 then recordNotice k false s
    else sendNotice { k with ttl := k.ttl - 1 } g.cfg.ports (some p) (recordNotice k false s) := by
  simp only [lateIn, hlive, hup, hmode, hg, bne_self_eq_false, Bool.not_true, Bool.or_self, Bool.false_eq_true, if_false]

end

/-! ## The rows -/

section
variable {s t u : State} (hs : awake s = true)
include hs

/-- The answer of an event of the beat unit, by what it does. -/
theorem answer_beat (h : t = u) : answer s (finish t) = .next (leaves s (finish u)) := h ▸ answer_leaves s (finish t) (awake_power s hs)

theorem exec_sweep (hmode : s.ym.mode ≠ 1) : exec .sweep s = .next (leaves s (finish (sweepAll s))) := by
  have hperiod : ¬ (s.ym.mode == 1) = true := by simpa using hmode
  exact (congrArg (answer s) (if_neg hperiod)).trans (answer_ifAwake s sweepAll hs)

end

/-- Settles O47: event by event, from what each does; of a boundary, from the count it moves and the rows it runs. -/
theorem beatEvents_hold : Obligations.BeatEvents := by
  unfold Obligations.BeatEvents
  intro s hs
  refine ⟨exec_sweep hs, fun r hoff => if_pos (by rw [hoff]; rfl), ?bound, ?lost, ?frame, ?otherDomain, ?sync, ?regained, ?reached, ?late⟩
  case bound =>
    intro m hlocked hzero hpend hnext n u v w
    have hw : boundaryRows m (boundaryBeats s (firstBeat s) n) n s.beat.force.cmd u = w := by
      rw [firstBeat, if_pos hzero]
      rfl
    have hmoves : boundary m s = boundarySweep w := boundary_moves hs m hlocked (nextBoundary_inForce hpend) s.beat.next.isLt hnext hw
    obtain ⟨hcount, hrt⟩ := moveCount_count_rt s.beat.force n (beatTime s.beat.force n) s
    refine ⟨?_, hcount.trans (BitVec.ofNat_toNat ..), hrt⟩
    rw [← boundarySweep_eq, ← hmoves]
    exact answer_leaves s (boundary m s) (awake_power s hs)
  case lost => exact fun cause hlocked hsource hport => answer_beat hs (referenceLost_holds hs hlocked hsource hport)
  case frame =>
    intro f hsource hgood hlast u
    have hframe := refFrame_follows hs hsource hgood hlast
    exact ⟨fun hlocked => answer_beat hs (hframe.trans (if_pos hlocked)), fun hlost => answer_beat hs (hframe.trans (if_neg (Bool.eq_false_iff.mp hlost)))⟩
  case otherDomain => exact fun m hdomain => answer_beat hs (ptpSync_otherDomain hdomain)
  case sync =>
    intro m hsource hport hdomain hstep u
    have hsync := ptpSync_steady hs hsource hport hdomain hstep
    refine ⟨fun hlocked => answer_beat hs (hsync.trans (if_pos hlocked)), fun hlost hnear => answer_beat hs (hsync.trans ?_)⟩
    simp only [hlost, hnear, Bool.false_eq_true, if_false, if_true]
    rfl
  case regained =>
    exact fun hlost hsource hgood hzero hcmd ht0 hlosses => answer_beat hs (regain_first hs hlost hsource hgood hzero hcmd ht0 hlosses)
  case reached => exact fun x hpend hlost => answer_beat hs ((beatSetReached_lost hs hpend hlost).trans (takeBeatSet_eq x s))
  case late =>
    intro p k g hhalf hup hmode hg
    have hlive : portLive s p = true := by rw [portLive, hs, hhalf]; rfl
    have hlate := lateIn_known hlive hup hmode hg
    refine ⟨fun hseen => ?_, fun hnew httl => ?_, fun hnew httl => ?_⟩
    · exact answer_beat hs (hlate.trans (if_pos hseen))
    · exact answer_beat hs (hlate.trans ((if_neg (Bool.eq_false_iff.mp hnew)).trans (if_pos httl)))
    · exact answer_beat hs (hlate.trans ((if_neg (Bool.eq_false_iff.mp hnew)).trans (if_neg httl)))

end Sys2Proof.Machine
end

section
/-! PROOFS. A step of the machine (R355). -/

namespace Sys2Proof.Machine

/-- A step on an empty queue idles. -/
theorem step_idle {s : State} (hempty : s.pending = []) : step s = .next s := by
  rw [step, hempty]

/-- Settles O1: the queue holds a front command, or it is empty. -/
theorem stepRunsFrontCommand : Obligations.StepRunsFrontCommand := by
  unfold Obligations.StepRunsFrontCommand
  exact ⟨fun c rest s => rfl, fun s hempty => step_idle hempty⟩

end Sys2Proof.Machine
end

section
/-! PROOFS. The paddock commands (R377 to R379, R392 to R396, R415): what each begins, and that it then waits or has its entry. -/

namespace Sys2Proof.Machine

/-! ## PAD.CREATE (R377, R392 to R396) -/

/-- The number that a new paddock takes is free (R360). -/
theorem Takes.fresh {h : CmdHdr} {s : State} {p : PadParams} (t : Takes h (.padCreate p) s) :
    getPad (taken h (.padCreate p) s) h.paddock.toNat = none := by
  obtain ⟨_, _, _, _, _, hscope, _⟩ := t
  obtain ⟨hnumber, hfree⟩ : h.paddock.toNat < 32 ∧ (32 ≤ h.paddock.toNat ∨ getPad (taken h (.padCreate p) s) h.paddock.toNat = none) := by
    simpa [scopeOk, Body.scope] using hscope
  exact hfree.resolve_left (Nat.not_le.mpr hnumber)

theorem givePad_ym (pad : Nat) (p : PadParams) (s : State) : (givePad pad p s).ym = s.ym := by
  rw [givePad, setRing_ym, foldl_keeps_ym _ (fun _ _ => setQueue_ym ..), foldl_keeps_ym _ (fun _ _ => setWin_ym ..),
    foldl_keeps_ym _ (fun _ _ => setSpace_ym ..)]

section
variable {s : State} {seq pad : Nat} {p : PadParams} (hfresh : getPad s pad = none)

section
variable {half : Bool} (hnone : (if half then p.spillw.toNat else p.spille.toNat) = 0)
include hnone

theorem mapSpill_none : mapSpill pad p half s = s := if_pos hnone

theorem spillWaits_none : spillWaits s pad p half = false := by
  simp only [spillWaits, hnone, bne_self_eq_false, Bool.false_and]

end

include hfresh

theorem createPad_noFunction (hvf : freeVf s p.port = none) : createPad seq pad p s = writeStatus seq noResource [] s := by
  simp only [createPad, hfresh, hvf, Option.isSome_none, Bool.false_eq_true, if_false]

/-- Without spill areas nothing but the pool keeps a paddock from being created at once. -/
theorem createPad_given {vf : Nat} (hvf : freeVf s p.port = some vf) (hpool : poolGives s p = true) (heast : p.spille = 0) (hwest : p.spillw = 0) :
    createPad seq pad p s = writeStatus seq done ([BitVec.ofNat 8 (b2n p.port), BitVec.ofNat 8 vf] ++ leBytes 2 (postCount p))
      (givePad pad p (setPad pad (freshPad p vf (givenPosts s p)) (zeroPosts (givenPosts s p) s))) := by
  have heast' : p.spille.toNat = 0 := by rw [heast]; rfl
  have hwest' : p.spillw.toNat = 0 := by rw [hwest]; rfl
  simp only [createPad, hfresh, hvf, hpool, heast', hwest', spillWaits_none (half := false) heast', spillWaits_none (half := true) hwest',
    mapSpill_none (half := false) heast', mapSpill_none (half := true) hwest', decide_true, Option.isSome_none, Bool.not_true, Bool.true_or, Bool.or_self,
    Bool.false_eq_true, if_false]

end

/-! ## PAD.RESET and PAD.DESTROY (R378, R415) -/

/-- The course of a paddock that runs none begins with step 1 and goes as far as it can; no restart resumes the paddock any more. -/
def startDrain (pad : Nat) (r : Drain) (s : State) : State :=
  let u := modPad pad (fun d => { d with drain := some r }) s
  let u := { u with snaps := { u.snaps with restart := u.snaps.restart.map fun x => { x with toResume := x.toResume.filter (· != pad) } } }
  runDrain 8 pad (modPad pad (fun d => { d with resuming := false }) u)

theorem beginDrain_idle {s : State} {c : Cmd} {d : Pad} (destroy squash : Bool) (hd : getPad s c.hdr.paddock.toNat = some d) (hidle : d.drain = none) :
    beginDrain c destroy squash s = startDrain c.hdr.paddock.toNat
      { squash := squash, resets := if destroy then [] else [c.seq], destroys := if destroy then [c.seq] else [], step := 1 } s := by
  simp only [beginDrain, hd, hidle]
  cases destroy <;> rfl

/-! ## PAD.QUERY (R379) -/

theorem beginBody_padQuery {h : CmdHdr} {s u : State} {d : Pad} (hd : getPad u h.paddock.toNat = some d) :
    beginBody (begunCmd h .padQuery s) u = writeStatus s.ym.seq done (queryResult d) u := by
  simp only [beginBody, begunCmd]
  rw [hd]

/-- Settles O44: command by command, from what each begins on the state in which its packet has been taken. -/
theorem paddockCommands : Obligations.PaddockCommands := by
  unfold Obligations.PaddockCommands
  intro h s pad
  refine ⟨?create, ?course, fun d t hd => ?query⟩
  case create =>
    intro p t u
    refine ⟨fun hvf => ?_, fun vf hvf hpool heast hwest => ?_⟩
    · exact answer_command_status h _ s _ _ _ t (createPad_noFunction t.fresh hvf) rfl
    · exact answer_command_status h _ s _ _ _ t (createPad_given t.fresh hvf hpool heast hwest) (givePad_ym ..)
  case course =>
    intro d m hd hidle course
    refine ⟨fun t => ?_, fun t => ?_⟩
    · exact answer_command h _ s _ t (beginDrain_idle (c := begunCmd h (.padReset m) s) false (m == 1) ((getPad_taken rfl rfl).trans hd) hidle)
    · exact answer_command h _ s _ t (beginDrain_idle (c := begunCmd h (.padDestroy m) s) true (m == 1) ((getPad_taken rfl rfl).trans hd) hidle)
  case query => exact answer_command_status h _ s _ _ _ t (beginBody_padQuery ((getPad_taken rfl rfl).trans hd)) rfl

end Sys2Proof.Machine
end

section
/-! PROOFS. Marks, images, restarts and resumes (R465, R469 to R471, R475, R476, R480, R481): what the end of each leaves. -/

namespace Sys2Proof.Machine

/-! ## Marks (R475, R476) -/

/-- The generations once a mark has its copies: its own is the current one. -/
def markedGens (m : Mark) (gens : Vector Gen 2) : Vector Gen 2 := Vector.ofFn fun i => if i = m.gen then
    { gens[i] with current := true, complete := true, markbeat := m.beat, gib := BitVec.ofNat 32 (ceilDiv m.bytes 1073741824) }
  else { gens[i] with current := false }

section
variable {s : State} {m : Mark} (hmark : s.snaps.mark = some m)
include hmark

theorem markDone_copied (hcopied : m.pending = []) : markDone s =
    streamsTake m.gen (statusOpt m.cmd done (leBytes 8 m.gen.val ++ leBytes 8 m.bytes)
      (bump 1154 1 { s with snaps := { s.snaps with mark := none, gens := markedGens m s.snaps.gens } })) := by
  have hfree : gransWait s [] = false := rfl
  simp only [markDone, hmark, hcopied, hfree, List.foldl_nil, Bool.false_eq_true, if_false]
  rfl

theorem heldRelease_copies {g : MarkedGran} {half : Bool} {gran : Nat} (hwanted : m.wanted.contains (half, gran) = true)
    (hfree : granWaits s half gran = false) (hpending : (m.pending.filter fun x => x.half == half && x.gran == gran) = [g]) :
    heldRelease half gran s = baleGran g s := by
  simp only [heldRelease, hmark, hwanted, hfree, hpending, List.foldl_cons, List.foldl_nil, Bool.not_false, Bool.and_self, if_true]

end

/-! ## Images (R481) -/

section
variable {s : State} {g : Fin 2} {i : Nat} {x : Stream}
  (hfirst : (s.snaps.streams.findIdx? fun x => x.active && x.gen == g && (getTgt s x.p.target.toNat).state == 2 && !armWaits s x.p) = some i)
  (hx : s.snaps.streams[i]? = some x)
include hfirst hx

theorem imageDone_once (hcont : x.p.cont = false) : let r := writeImage x s
    imageDone g s = statusOpt x.cmd done (leBytes 8 r.2.1 ++ leBytes 8 r.2.2) (setStreams (r.1.snaps.streams.eraseIdx i) r.1) := by
  simp only [imageDone, hfirst, hx, hcont, Bool.false_eq_true, if_false]

/-- A CONT stream that no later generation waits for goes on in the other half of its area (R482). -/
theorem imageDone_continuous (hcont : x.p.cont = true) (hdue : x.due = false) : let r := writeImage x s
    imageDone g s = setStreams (r.1.snaps.streams.set i { x with second := !x.second, active := false }) r.1 := by
  simp only [imageDone, hfirst, hx, hcont, hdue, Bool.false_eq_true, if_false, if_true]

end

/-! ## The end of a compute restart (R469, R470) -/

theorem restartEnd_ends {s : State} {r : Restart} {us : W32} (hr : s.snaps.restart = some r) (hrunning : r.ended = false)
    (hfree : restartWaits s = false) : restartEnd us s = endRestart us r s := by
  simp only [restartEnd, hr, hrunning, hfree, Bool.or_self, Bool.false_eq_true, if_false]

/-- The paddocks that a restart resumes are among the paddocks that there are. -/
theorem endRestart_resumes (us : W32) (r : Restart) (s : State) : ∃ q, (endRestart us r s).snaps.restart = some q ∧ q.ended = true ∧ q.us = us ∧
    ∀ p ∈ q.toResume, ∃ d, (p, d) ∈ s.pads := by
  refine ⟨_, rfl, rfl, rfl, fun p hp => ?_⟩
  have hpad : p ∈ s.pads.map Prod.fst := (List.mem_filter.mp hp).1
  obtain ⟨⟨_, d⟩, hd, rfl⟩ := List.mem_map.mp hpad
  exact ⟨d, hd⟩

theorem endRestart_start (us : W32) (r : Restart) (s : State) : (endRestart us r s).start.kind = .restart ∧ (endRestart us r s).start.step = 11 ∧
    (endRestart us r s).start.ms = BitVec.ofNat 16 (min 65535 (us.toNat / 1000)) := ⟨rfl, rfl, rfl⟩

/-! ## The auto-resume (R471) -/

/-- A paddock on its way back: its mixer cleared, its sequences, batches and granules as its record has them, and its pipeline loaded if it can be. -/
def broughtBack (pad : Nat) (g : Fin 2) (x : Resume) (s : State) : State × Bool :=
  resumePipe pad x (restoreGrans g (· == pad) (resumeServing pad x (resumeMade pad g (clearMixer pad s))))

section
variable {s : State} {pad : Nat} {r : Restart} {g : Fin 2} (hr : s.snaps.restart = some r) (hended : r.ended = true)
  (hdue : r.toResume.contains pad = true) (hg : currentGen s = some g) (hfree : gransWait s (restoreDue s g (· == pad)) = false)
include hr hended hdue hg hfree

theorem autoResume_unrecorded (hnone : ((s.snaps.gens[g]).records.find? fun r => r.pad == pad) = none) :
    autoResume pad s = resumeOver pad false (loseCarry pad (modPad pad (fun d => { d with resuming := false }) s)) := by
  simp only [autoResume, hr, hended, hdue, hg, hfree, hnone, Bool.and_self, Bool.false_eq_true, if_false]

section
variable {x : Resume} (hx : ((s.snaps.gens[g]).records.find? fun r => r.pad == pad) = some x)
include hx

theorem autoResume_back (hok : (broughtBack pad g x s).2 = true) : autoResume pad s = bump 1153 1 (resumeOver pad true
    (modPad pad (fun d => { d with resuming := false, carryPipe := false, carrySeqs := [], carryBatches := 0 }) (broughtBack pad g x s).1)) := by
  rw [broughtBack] at hok ⊢
  simp only [autoResume, hr, hended, hdue, hg, hfree, hx, hok, Bool.and_self, Bool.false_eq_true, if_false, if_true]

theorem autoResume_lost (hlost : (broughtBack pad g x s).2 = false) : autoResume pad s = resumeOver pad false (loseCarry pad (dropServing pad false
    (modPad pad (fun d => { d with resuming := false, carrySeqs := [], carryBatches := 0 }) (broughtBack pad g x s).1))) := by
  rw [broughtBack] at hlost ⊢
  simp only [autoResume, hr, hended, hdue, hg, hfree, hx, hlost, Bool.and_self, Bool.false_eq_true, if_false]

end

end

/-! ## The rows -/

/-- The answer of an event of an awake device, by what it does. -/
theorem answer_awake {s : State} {f : State → State} {u : State} (hs : awake s = true) (h : f s = u) :
    answer s (ifAwake f s) = .next (leaves s (finish u)) := h ▸ answer_ifAwake s f hs

/-- Settles O55: event by event, from what each leaves; of a restart's end, that it resumes paddocks that there are. -/
theorem snapshotEvents : Obligations.SnapshotEvents := by
  unfold Obligations.SnapshotEvents
  intro s hs
  refine ⟨?marked, ?released, ?image, ?restart, ?resume⟩
  case marked => exact fun m hmark hcopied => answer_awake hs (markDone_copied hmark hcopied)
  case released =>
    exact fun m g half gran hmark hwanted hfree hpending => answer_awake hs (heldRelease_copies hmark hwanted hfree hpending)
  case image =>
    intro g i x hfirst hx r
    exact ⟨fun hcont => answer_awake hs (imageDone_once hfirst hx hcont),
      fun hcont hdue => answer_awake hs (imageDone_continuous hfirst hx hcont hdue)⟩
  case restart =>
    intro r us hr hrunning hfree
    obtain ⟨hkind, hstep, hms⟩ := endRestart_start us r s
    exact ⟨answer_awake hs (restartEnd_ends hr hrunning hfree), hkind, hstep, hms, endRestart_resumes us r s⟩
  case resume =>
    intro pad r g hr hended hdue hg hfree
    refine ⟨fun hnone => answer_awake hs (autoResume_unrecorded hr hended hdue hg hfree hnone), fun x hx => ⟨fun hok => ?_, fun hlost => ?_⟩⟩
    · exact answer_awake hs (autoResume_back hr hended hdue hg hfree hx hok)
    · exact answer_awake hs (autoResume_lost hr hended hdue hg hfree hx hlost)

end Sys2Proof.Machine
end

section
/-! PROOFS. The dies' power (R493, R494, R506 to R510): what a reading, a droop, a margin check and the end of an exit leave. -/

namespace Sys2Proof.Machine

/-! ## Junction temperatures (R507) -/

/-- A reading is kept, with the hottest; the thermal action of its die becomes next. -/
def keepTemp (temp : Byte) (next : Thermal) (x : DiePwr) : DiePwr := { x with temp := temp, hot := if x.hot < temp then temp else x.hot, thermal := next }

section
variable {s : State} {d : Fin 8} {temp : Byte} (hs : awake s = true)
include hs

theorem dieTemp_cool {held : Bool} (hnone : (s.pwr.dies[d]).thermal = .none) (hcool : temp.toNat < 95) :
    dieTemp d temp held s = modDie d (keepTemp temp .none) s := by
  have hstall : ¬ 105 ≤ temp.toNat := by omega
  simp only [dieTemp, hs, hnone, hstall, Nat.not_le.mpr hcool, Bool.not_true, Bool.false_eq_true, if_false, beq_self_eq_true, bne_self_eq_false,
    Bool.and_false, Bool.false_and]
  rfl

theorem dieTemp_step {held : Bool} (hnone : (s.pwr.dies[d]).thermal = .none) (hhot : 95 ≤ temp.toNat) (hbelow : temp.toNat < 105) :
    dieTemp d temp held s = applyThermal d (report (dieErr 0x04 0 d temp.toNat) (modDie d (keepTemp temp .step) s)) := by
  simp only [dieTemp, hs, hnone, hhot, Nat.not_le.mpr hbelow, Bool.not_true, Bool.false_eq_true, if_false, if_true]
  rfl

theorem dieTemp_stillStep (hstep : (s.pwr.dies[d]).thermal = .step) (hwarm : 92 < temp.toNat) (hbelow : temp.toNat < 105) :
    dieTemp d temp true s = modDie d (keepTemp temp .step) s := by
  simp only [dieTemp, hs, hstep, Nat.not_le.mpr hwarm, Nat.not_le.mpr hbelow, decide_false, Bool.false_and, Bool.not_true, Bool.false_eq_true, if_false]
  rfl

/-! ## Margins (R509, R510) -/

theorem marginCheck_ok (q : Fin 4) : marginCheck d q .ok s = s := by
  simp only [marginCheck, hs, Bool.not_true, Bool.false_eq_true, if_false]

theorem marginCheck_ample {q : Fin 4} (hroom : -20 < (s.pwr.dies[d]).pendTrim[q]) : marginCheck d q .ample s =
    modDie d (fun y => { y with pendTrim := y.pendTrim.set q (y.pendTrim[q] - 1) }) s := by
  simp only [marginCheck, hs, hroom, Bool.not_true, Bool.false_eq_true, if_false, if_true]

theorem marginCheck_low {q : Fin 4} (hroom : (s.pwr.dies[d]).pendTrim[q] < 20) : marginCheck d q .low s =
    modDie d (fun y => { y with pendTrim := y.pendTrim.set q (y.pendTrim[q] + 1) }) s := by
  simp only [marginCheck, hs, hroom, Bool.not_true, Bool.false_eq_true, if_false, if_true]

/-- At the greatest trim a low margin takes a clock step off the ceiling. -/
theorem marginCheck_lowAtMost {q : Fin 4} (hpend : 20 ≤ (s.pwr.dies[d]).pendTrim[q]) (htrim : 20 ≤ (s.pwr.dies[d]).trim[q])
    (hceil : 500 < (s.pwr.dies[d]).ceil.toNat) : marginCheck d q .low s =
      recheck (fun rs _ _ => rs.any fun r => r.cores.any fun n => coreDie n == d.val)
        (report (dieErr 0x05 2 d ((s.pwr.dies[d]).ceil.toNat - 100)) (modDie d (fun y => { y with ceil := y.ceil - 100 }) s)) := by
  simp only [marginCheck, hs, Int.not_lt.mpr hpend, Int.not_lt.mpr htrim, Nat.not_le.mpr hceil, decide_false, Bool.or_self, Bool.not_true,
    Bool.false_eq_true, if_false]

end

/-! ## Droop (R508) -/

theorem droopOver_stretched {s : State} {d : Fin 8} {region : Nat} {fc : W32} (hdroop : (s.pwr.dies[d]).droop.getLsbD region = true) :
    droopOver d region fc s = modDie d (fun x => { x with
      droop := setBit x.droop region false, stretch := BitVec.ofNat 32 (satAdd 32 x.stretch.toNat fc.toNat) }) s := if_pos hdroop

/-! ## Power states (R493, R494) -/

/-- A state that no command waits for is reached. -/
theorem reachedState_unawaited {s : State} {x : PwrState} (hnone : s.pwr.target = none) : reachedState x s = s := by
  simp only [reachedState, hnone]

theorem reachedState_awaited {s : State} {x : PwrState} {seq : Nat} (hwaits : s.pwr.target = some (x, seq)) :
    reachedState x s = writeStatus seq done [] { s with pwr := { s.pwr with target := none } } := by
  have hsame : (x == x) = true := by cases x <;> rfl
  simp only [reachedState, hwaits, hsame, if_true, setPwr]

theorem trotEntry_idle {s : State} (hs : awake s = true) (hgallop : s.pwr.state = .gallop) (hidle : idle s = true) :
    trotEntry s = reachedState .trot { s with pwr := { s.pwr with state := .trot } } := by
  have hsame : (PwrState.gallop == PwrState.gallop) = true := rfl
  simp only [trotEntry, hs, hgallop, hidle, hsame, Bool.and_self, if_true, setPwr]

theorem exitDone_exiting {s : State} (hexit : s.pwr.exiting = true) :
    exitDone s = reachedState .gallop { s with pwr := { s.pwr with state := .gallop, exiting := false } } := by
  simp only [exitDone, hexit, Bool.not_true, Bool.false_eq_true, if_false, setPwr]

/-! ## The rows -/

section
variable {s : State} (hs : awake s = true)
include hs

/-- The answer of an event on a die in service, by what it does. -/
theorem answer_onDie {d : Fin 8} {f : State → State} {u : State} (hin : halfIn s (d.val / 4) = true) (h : f s = u) :
    answer s (onDie d f s) = .next (leaves s (finish u)) := by
  rw [onDie, if_pos hin, answer_ifAwake s f hs, h]

end

/-- Settles O59: event by event, from what a reading, a droop and a margin check leave of the die, and what reaching a power state answers. -/
theorem diePowerEvents : Obligations.DiePowerEvents := by
  unfold Obligations.DiePowerEvents
  intro s hs
  refine ⟨?dies, ?trot, ?gallop⟩
  case dies =>
    intro d hin x
    refine ⟨fun temp hnone hcool held => answer_onDie hs hin (dieTemp_cool hs hnone hcool),
      fun temp held hnone hhot hbelow => answer_onDie hs hin (dieTemp_step hs hnone hhot hbelow),
      fun temp hstep hwarm hbelow => answer_onDie hs hin (dieTemp_stillStep hs hstep hwarm hbelow), fun region => answer_onDie hs hin rfl,
      fun region fc hdroop => answer_onDie hs hin (droopOver_stretched hdroop), fun q => ⟨?ok, ?ample, ?low, ?lowest⟩⟩
    case ok => exact answer_onDie hs hin (marginCheck_ok hs q)
    case ample => exact fun hroom => answer_onDie hs hin (marginCheck_ample hs hroom)
    case low => exact fun hroom => answer_onDie hs hin (marginCheck_low hs hroom)
    case lowest => exact fun hpend htrim hceil => answer_onDie hs hin (marginCheck_lowAtMost hs hpend htrim hceil)
  case trot =>
    intro hgallop hidle
    have htrot := trotEntry_idle hs hgallop hidle
    exact ⟨fun hnone => answer_beat hs (htrot.trans (reachedState_unawaited hnone)),
      fun seq hwaits => answer_beat hs (htrot.trans (reachedState_awaited hwaits))⟩
  case gallop =>
    intro hexit
    have hdone := exitDone_exiting hexit
    exact ⟨fun hnone => answer_beat hs (hdone.trans (reachedState_unawaited hnone)),
      fun seq hwaits => answer_beat hs (hdone.trans (reachedState_awaited hwaits))⟩

end Sys2Proof.Machine
end

section
/-! PROOFS. SPDM, debug tokens and messages of the sideband (R513, R514, R520 to R524): what each request answers. -/

namespace Sys2Proof.Machine

/-! ## Requests of a connection (R522) -/

theorem endpointUp_power {s : State} {e : Endpoint} (h : endpointUp s e = true) : s.pins.p48vOk = true := by
  unfold endpointUp at h
  exact (Bool.and_eq_true_iff.mp h).1

theorem endpointUp_sideband {s : State} (hp : s.pins.p48vOk = true) : endpointUp s .sideband = true := by
  rw [endpointUp, hp]
  rfl

section
variable {s t u : State} {e : Endpoint} (hup : endpointUp s e = true)
include hup

/-- The answer of a message at an endpoint, by the state it leaves. -/
theorem answer_reached (h : t = u) : answer s t = .next (leaves s u) := h ▸ answer_leaves s t (endpointUp_power hup)

theorem onConn_ready {n : Nat} {f : State → State} (h : n ≤ connStage s e) : onConn e n f s = f s := by
  simp only [onConn, hup, Nat.not_lt.mpr h, Bool.not_true, Bool.false_eq_true, if_false]

theorem onConn_early {n : Nat} {f : State → State} (h : connStage s e < n) : onConn e n f s = spdmError 4 s := by
  simp only [onConn, hup, h, Bool.not_true, Bool.false_eq_true, if_false, if_true]

theorem getVersionOp_reached : getVersionOp e s = spdmReply 0x04 0 0 [0, 2, 0x00, 0x12, 0x00, 0x13] (setConn e 1 s) := onConn_ready hup (Nat.zero_le _)

theorem getCapabilitiesOp_ready (h : 1 ≤ connStage s e) :
    getCapabilitiesOp e s = spdmReply 0x61 0 0 ([0, 0, 0, 0] ++ leBytes 4 capabilityFlags) (setConn e 2 s) := onConn_ready hup h

theorem negotiateOp_ready (h : 2 ≤ connStage s e) :
    negotiateOp e true s = spdmReply 0x63 0 0 [] (setConn e 3 s) ∧ negotiateOp e false s = spdmError 1 s :=
  ⟨onConn_ready hup h, onConn_ready hup h⟩

section
variable (h : 3 ≤ connStage s e)
include h

theorem getCertificateOp_slot0 {offset length : W16} (hin : offset.toNat ≤ (certChain s).length) :
    let part := ((certChain s).drop offset.toNat).take length.toNat
    getCertificateOp e 0 offset length s = spdmReply 0x02 0 0
      (leBytes 2 part.length ++ leBytes 2 ((certChain s).length - offset.toNat - part.length) ++ part) s := by
  rw [getCertificateOp, onConn_ready hup h]
  simp only [bne_self_eq_false, Nat.not_lt.mpr hin, decide_false, Bool.or_self, Bool.false_eq_true, if_false]

/-- An index that is neither the count nor all answers with its own block (R523). -/
theorem getMeasurementsOp_one {i : Byte} {v : List Byte} {nonce : BitVec 256} (hcount : i ≠ 0) (hall : i ≠ 0xFF)
    (hv : measurementValue s e i.toNat = some v) : let block := measurementBlock i.toNat v
    getMeasurementsOp e i false nonce s = spdmReply 0x60 0 0 ([1] ++ leBytes 3 block.length ++ block) s := by
  rw [getMeasurementsOp, onConn_ready hup h]
  simp only [if_neg hcount, if_neg hall, List.any_cons, List.any_nil, hv, Option.isNone_some, Option.getD_some, List.flatMap_cons, List.flatMap_nil,
    List.append_nil, Bool.or_self, Bool.false_eq_true, if_false]
  rfl

theorem keyExchangeOp_room {n : W16} {x : BitVec 512} (hroom : s.sec.sessions.length < 64) :
    let rsp := s.sec.nextSess.toNat % 65536
    let id : W32 := BitVec.ofNat 32 (n.toNat + 65536 * rsp)
    let y : Session := { id := id, ep := e, isOpen := false, secret := Config.sessionSecret id x, epoch := 0 }
    keyExchangeOp e n x s = spdmReply 0x64 0 0 (leBytes 2 rsp ++ aliasSign s (leBytes 64 x.toNat))
      { s with sec := { s.sec with sessions := s.sec.sessions ++ [y], nextSess := s.sec.nextSess + 1 } } :=
  (onConn_ready hup h).trans (if_neg (Nat.not_le.mpr hroom))

theorem keyExchangeOp_full {n : W16} {x : BitVec 512} (hfull : 64 ≤ s.sec.sessions.length) : keyExchangeOp e n x s = spdmError 3 s :=
  (onConn_ready hup h).trans (if_pos hfull)

end

end

/-! ## Sessions (R522, R524) -/

section
variable {s : State} {e : Endpoint} {id : W32} {x : Session} (hup : endpointUp s e = true) (hfind : findSession s id = some x)

include hup hfind

theorem inSession_unopened {f : State → State} (hopen : x.isOpen = false) : inSession e id f s = spdmError 4 s := by
  simp only [inSession, hup, hfind, hopen, Bool.and_false, Bool.not_true, Bool.false_eq_true, if_false]

variable (hep : x.ep = e)
include hep

theorem inSession_open {f : State → State} (hopen : x.isOpen = true) : inSession e id f s = f s := by
  simp only [inSession, hup, hfind, hep, hopen, beq_self_eq_true, Bool.and_self, Bool.not_true, Bool.false_eq_true, if_false, if_true]

/-- FINISH opens a session whose MAC verifies and ends any other. -/
theorem spdmFinishOp_unopened (hopen : x.isOpen = false) :
    spdmFinishOp e id true s = spdmReply 0x65 0 0 [] { s with sec := { s.sec with
      sessions := mapWhere (fun y => y.id == id) (fun y => { y with isOpen := true }) s.sec.sessions } } ∧
    spdmFinishOp e id false s = spdmError 6 (dropSession id s) := by
  constructor <;>
    simp only [spdmFinishOp, hup, hfind, hep, hopen, bne_self_eq_false, Bool.or_self, Bool.not_true, Bool.not_false, Bool.false_eq_true, if_false, if_true]
  rfl

end

/-- A session that no heartbeat keeps ends. -/
theorem sessionExpiry_open {s : State} {id : W32} {x : Session} (hfind : findSession s id = some x) (hopen : x.isOpen = true) :
    sessionExpiry id s = dropSession id s := by
  simp only [sessionExpiry, hfind, hopen, Option.any_some, if_true]

/-! ## Debug tokens (R520, R521) -/

theorem debugTokenOp_opens {s : State} (hp : s.pins.p48vOk = true) (hpok : s.pins.pwrOk = true) (hconf : anyConf s = false) (hclosed : s.sec.dbgopen = false) :
    debugTokenOp true s = report (secErr s 0x03 0 0xFF s.sec.version) { s with sec := { s.sec with dbgopen := true, dbgever := true, dbgNext := true } } := by
  simp only [debugTokenOp, hp, hpok, hconf, hclosed, Bool.not_true, Bool.or_self, Bool.false_eq_true, if_false]
  rfl

theorem debugTokenOp_confidential {s : State} (hconf : anyConf s = true) : debugTokenOp true s = s := by
  simp only [debugTokenOp, hconf, Bool.or_true, Bool.true_or, if_true]

/-! ## Messages of the sideband (R514) -/

theorem mctpMessage_badPec (bytes : List Byte) (s : State) : mctpMessage false bytes s = s := rfl

section
variable {s : State} (hp : s.pins.p48vOk = true)
include hp

theorem mctpMessage_spdm (bs : List Byte) : mctpMessage true (5 :: bs) s = spdmRequest .sideband bs s := if_neg (by rw [hp]; decide)

theorem mctpMessage_otherType {t : Byte} (ht : t ≠ 5) (bs : List Byte) : mctpMessage true (t :: bs) s = s := by
  simp only [mctpMessage, hp, Bool.not_true, Bool.or_self, Bool.false_eq_true, if_false]
  split
  · next heq => exact absurd (List.cons.inj heq).1 ht
  · rfl

theorem mctpMessage_empty : mctpMessage true [] s = s := if_neg (by rw [hp]; decide)

/-- The bytes of a GET_VERSION and of a GET_CAPABILITIES request are read as those (log 31). -/
theorem mctpMessage_getVersion : mctpMessage true [5, 0x12, 0x84, 0, 0] s = getVersionOp .sideband s := mctpMessage_spdm hp _

theorem mctpMessage_getCapabilities : mctpMessage true [5, 0x12, 0xE1, 0, 0] s = getCapabilitiesOp .sideband s := mctpMessage_spdm hp _

end

/-- Settles O60: request by request, from what each answers at a connection that has come so far, in a session, or over the sideband. -/
theorem spdmMessages : Obligations.SpdmMessages := by
  unfold Obligations.SpdmMessages
  intro s e hup
  have hp : s.pins.p48vOk = true := endpointUp_power hup
  have hside : endpointUp s .sideband = true := endpointUp_sideband hp
  have hanswer {t u : State} (h : t = u) : answer s t = .next (leaves s u) := answer_reached hup h
  have hversion : mctpMessage true [5, 0x12, 0x84, 0, 0] s = getVersionOp .sideband s := mctpMessage_getVersion hp
  refine ⟨hanswer (getVersionOp_reached hup), fun h => hanswer (getCapabilitiesOp_ready hup h), ?negotiated, ?early, ?ready, ?session, ?token, ?kept,
    fun bytes => hanswer (mctpMessage_badPec bytes s), fun bs => hanswer (mctpMessage_spdm hp bs), hanswer (hversion.trans (getVersionOp_reached hside)),
    ?capabilities, fun t bs ht => hanswer (mctpMessage_otherType hp ht bs), hanswer (mctpMessage_empty hp), congrArg (answer s) hversion⟩
  case negotiated =>
    intro h
    obtain ⟨hagreed, hrefused⟩ := negotiateOp_ready hup h
    exact ⟨hanswer hagreed, hanswer hrefused⟩
  case early => exact fun h => ⟨hanswer (onConn_early hup h), fun n x => hanswer (onConn_early hup h)⟩
  case ready =>
    intro h
    refine ⟨hanswer (onConn_ready hup h), fun offset length hin => hanswer (getCertificateOp_slot0 hup h hin), fun nonce => hanswer (onConn_ready hup h),
      fun i v hcount hall hv nonce => hanswer (getMeasurementsOp_one hup h hcount hall hv), fun n x hroom => hanswer (keyExchangeOp_room hup h hroom),
      fun n x hfull => hanswer (keyExchangeOp_full hup h hfull)⟩
  case session =>
    intro id x hfind hep
    refine ⟨fun hopen => ?unopened, fun hopen => ?opened⟩
    case unopened =>
      obtain ⟨hverified, hfailed⟩ := spdmFinishOp_unopened hup hfind hep hopen
      exact ⟨hanswer hverified, hanswer hfailed, hanswer (inSession_unopened hup hfind hopen)⟩
    case opened =>
      exact ⟨hanswer (inSession_open hup hfind hep hopen), hanswer (inSession_open hup hfind hep hopen), hanswer (inSession_open hup hfind hep hopen),
        hanswer (sessionExpiry_open hfind hopen)⟩
  case token => exact fun hpok hconf hclosed => hanswer (congrArg finish (debugTokenOp_opens hp hpok hconf hclosed))
  case kept => exact fun hconf => hanswer (congrArg finish (debugTokenOp_confidential hconf))
  case capabilities => exact fun h => hanswer ((mctpMessage_getCapabilities hp).trans (getCapabilitiesOp_ready hside h))

end Sys2Proof.Machine
end

section
/-! PROOFS. Registers (R75, R97, R100): what a read finds after a write of results, and what such a write leaves alone. -/

namespace Sys2Proof.Machine

variable {t : Team} {lane lane' r k : Nat} {v : W32}

/-! ## One register -/

theorem tget_rput (regs : Tbl W32) (r k : Nat) (v : W32) : tget (rput regs r v) k 0 = if k = r then v else tget regs k 0 := by
  unfold rput
  split
  · next hv => rw [tget_tdel, hv]
  · split
    · next hk => rw [hk, tget_tput_self]
    · next hk => exact tget_tput_other _ _ _ _ _ hk

/-- A write of a register changes the registers of its thread alone. -/
theorem thread_writeG (lane r : Nat) (v : W32) (t : Team) (lane' : Nat) : thread (writeG lane r v t) lane' =
    if lane' = lane ∧ r ≠ 255 then { thread t lane with regs := rput (thread t lane).regs r v } else thread t lane' := by
  unfold writeG
  split
  · next hr => exact (if_neg fun h => h.2 hr).symm
  · next hr =>
    by_cases hl : lane' = lane
    · rw [if_pos ⟨hl, hr⟩, hl]
      exact tget_tput_self ..
    · rw [if_neg fun h => hl h.1]
      exact tget_tput_other _ _ _ _ _ hl

theorem readG_writeG (lane r : Nat) (v : W32) (t : Team) (lane' k : Nat) :
    readG (writeG lane r v t) lane' k = if lane' = lane ∧ k = r ∧ k ≠ 255 then v else readG t lane' k := by
  unfold readG
  rw [thread_writeG]
  by_cases hk : k = 255
  · simp [hk]
  · by_cases h : lane' = lane ∧ r ≠ 255
    · obtain ⟨rfl, hr⟩ := h
      simp only [hk, hr, ne_eq, not_false_eq_true, and_self, and_true, true_and, if_true, if_false]
      exact tget_rput ..
    · have hneg : ¬ (lane' = lane ∧ k = r ∧ k ≠ 255) := fun hx => h ⟨hx.1, hx.2.1 ▸ hk⟩
      simp only [hk, h, hneg, if_false]

theorem readU_writeU (t : Team) (r k : Nat) (v : W32) : readU (writeU r v t) k = if k = r then v else readU t k := tget_rput ..

theorem writeG_uregs (lane r : Nat) (v : W32) (t : Team) : (writeG lane r v t).uregs = t.uregs := by
  unfold writeG
  split <;> rfl

theorem readG_255 (t : Team) (lane : Nat) : readG t lane 255 = 0 := if_pos rfl

theorem readP_7 (t : Team) (lane : Nat) : readP t lane 7 = true := rfl

/-! ## The words of a value -/

section
variable {f : BitVec 9} {n : Nat}

theorem writeWords_succ (n lane : Nat) (f : BitVec 9) (v : Nat) (t : Team) : writeWords (n + 1) lane f v t =
    match opd f with
    | .gen r => writeG lane (if r = 255 then 255 else r + n) (BitVec.ofNat 32 (v / 2 ^ (32 * n))) (writeWords n lane f v t)
    | .uni r => writeU (r + n) (BitVec.ofNat 32 (v / 2 ^ (32 * n))) (writeWords n lane f v t)
    | _ => writeWords n lane f v t := by
  unfold writeWords
  rw [List.range_succ, List.foldl_append]
  rfl

/-- What every write of a word of the destination keeps, a write of results keeps. -/
theorem writeWords_induct {P : Team → Prop} {u : OpUse} (hgen : ∀ lane r v x, r = 255 ∨ r ∈ usedRegs f u → P x → P (writeG lane r v x))
    (huni : ∀ r v x, 256 + r ∈ usedRegs f u → P x → P (writeU r v x)) (lane v : Nat) (h : P t) : P (writeWords u.n lane f v t) := by
  have hall : ∀ m, m ≤ u.n → P (writeWords m lane f v t) := by
    intro m
    induction m with
    | zero => exact fun _ => h
    | succ m ih =>
      intro hm
      have hp := ih (by omega)
      rw [writeWords_succ]
      cases hf : opd f with
      | gen r =>
        refine hgen _ _ _ _ ?_ hp
        by_cases hr : r = 255
        · exact .inl (if_pos hr)
        · refine .inr ?_
          rw [usedRegs, hf]
          simp only [if_neg hr]
          exact List.mem_map.mpr ⟨m, List.mem_range.mpr (by omega), rfl⟩
      | uni r =>
        refine huni _ _ _ ?_ hp
        rw [usedRegs, hf]
        exact List.mem_map.mpr ⟨m, List.mem_range.mpr (by omega), by omega⟩
      | imm => exact hp
      | refused => exact hp
  exact hall u.n le_rfl

theorem writeLanes_induct {P : Team → Prop} {u : OpUse} (hgen : ∀ lane r v x, r = 255 ∨ r ∈ usedRegs f u → P x → P (writeG lane r v x))
    (huni : ∀ r v x, 256 + r ∈ usedRegs f u → P x → P (writeU r v x)) (vals : List (Nat × Nat)) (h : P t) : P (writeLanes u.n f vals t) := by
  unfold writeLanes
  split
  · cases vals with
    | nil => exact h
    | cons x _ => exact writeWords_induct hgen huni _ _ h
  · exact List.foldlRecOn (motive := P) _ _ h fun _ hx _ _ => writeWords_induct hgen huni _ _ hx

/-! ## General destinations -/

section
variable {r : Nat} (hf : opd f = .gen r) (hr : r ≠ 255)
include hf

theorem writeLanes_gen (n : Nat) (vals : List (Nat × Nat)) (t : Team) :
    writeLanes n f vals t = vals.foldl (fun t x => writeWords n x.1 f x.2 t) t := by
  unfold writeLanes
  rw [hf]

include hr

theorem readG_writeWords (n : Nat) (hn : r + n ≤ 255) (lane v lane' k : Nat) (t : Team) : readG (writeWords n lane f v t) lane' k =
    if lane' = lane ∧ r ≤ k ∧ k < r + n then BitVec.ofNat 32 (v / 2 ^ (32 * (k - r))) else readG t lane' k := by
  induction n with
  | zero => rw [if_neg (by omega)]; rfl
  | succ n ih =>
    rw [writeWords_succ, hf]
    dsimp only
    rw [if_neg hr, readG_writeG, ih (by omega)]
    by_cases hk : k = r + n
    · subst hk
      simp [show r + n ≠ 255 by omega]
    · have hiff : (lane' = lane ∧ r ≤ k ∧ k < r + (n + 1)) ↔ (lane' = lane ∧ r ≤ k ∧ k < r + n) := by omega
      rw [if_neg (fun h => hk h.2.1)]
      simp only [hiff]

theorem readG_writeLanes_unlisted (hn : r + n ≤ 255) {vals : List (Nat × Nat)} (h : ∀ x ∈ vals, x.1 ≠ lane) (k : Nat) (t : Team) :
    readG (writeLanes n f vals t) lane k = readG t lane k := by
  rw [writeLanes_gen hf]
  refine List.foldlRecOn (motive := fun u : Team => readG u lane k = readG t lane k) _ _ rfl fun u hu x hx => ?_
  rw [readG_writeWords hf hr n hn, if_neg (fun hl => h x hx hl.1.symm), hu]

theorem readG_writeLanes_listed (hn : r + n ≤ 255) {vals : List (Nat × Nat)} (hd : (vals.map Prod.fst).Nodup) {x : Nat × Nat} (hx : x ∈ vals)
    (k : Nat) (t : Team) :
    readG (writeLanes n f vals t) x.1 k = if r ≤ k ∧ k < r + n then BitVec.ofNat 32 (x.2 / 2 ^ (32 * (k - r))) else readG t x.1 k := by
  induction vals generalizing t with
  | nil => cases hx
  | cons y ys ih =>
    obtain ⟨hnot, hrest⟩ := List.nodup_cons.mp hd
    have hcons : writeLanes n f (y :: ys) t = writeLanes n f ys (writeWords n y.1 f y.2 t) := by
      rw [writeLanes_gen hf, writeLanes_gen hf, List.foldl_cons]
    rw [hcons]
    rcases List.mem_cons.mp hx with rfl | hmem
    · rw [readG_writeLanes_unlisted hf hr hn fun z hz heq => hnot (List.mem_map.mpr ⟨z, hz, heq⟩), readG_writeWords hf hr n hn]
      simp only [true_and]
    · have hne : x.1 ≠ y.1 := fun heq => hnot (List.mem_map.mpr ⟨x, hmem, heq⟩)
      rw [ih hrest hmem, readG_writeWords hf hr n hn]
      simp only [hne, false_and, if_false]

end

theorem writeWords_255 (hf : opd f = .gen 255) (n lane v : Nat) (t : Team) : writeWords n lane f v t = t := by
  induction n with
  | zero => rfl
  | succ n ih =>
    rw [writeWords_succ, hf, ih]
    rfl

theorem writeLanes_255 (hf : opd f = .gen 255) (n : Nat) (vals : List (Nat × Nat)) (t : Team) : writeLanes n f vals t = t := by
  rw [writeLanes_gen hf]
  exact List.foldlRecOn (motive := (· = t)) _ _ rfl fun u hu x _ => (writeWords_255 hf n x.1 x.2 u).trans hu

/-! ## Uniform destinations -/

theorem readU_writeWords {r : Nat} (hf : opd f = .uni r) (n lane v k : Nat) (t : Team) : readU (writeWords n lane f v t) k =
    if r ≤ k ∧ k < r + n then BitVec.ofNat 32 (v / 2 ^ (32 * (k - r))) else readU t k := by
  induction n with
  | zero => rw [if_neg (by omega)]; rfl
  | succ n ih =>
    rw [writeWords_succ, hf]
    dsimp only
    rw [readU_writeU, ih]
    by_cases hk : k = r + n
    · subst hk
      simp
    · have hiff : (r ≤ k ∧ k < r + (n + 1)) ↔ (r ≤ k ∧ k < r + n) := by omega
      rw [if_neg hk]
      simp only [hiff]

theorem writeWords_uni_threads {r : Nat} (hf : opd f = .uni r) (n lane v : Nat) (t : Team) : (writeWords n lane f v t).threads = t.threads := by
  induction n with
  | zero => rfl
  | succ n ih =>
    rw [writeWords_succ, hf]
    exact ih

theorem writeLanes_uni {r : Nat} (hf : opd f = .uni r) (n : Nat) (x : Nat × Nat) (xs : List (Nat × Nat)) (t : Team) :
    writeLanes n f (x :: xs) t = writeWords n x.1 f x.2 t := by
  unfold writeLanes
  rw [hf]

theorem writeLanes_uni_nil {r : Nat} (hf : opd f = .uni r) (n : Nat) (t : Team) : writeLanes n f [] t = t := by
  unfold writeLanes
  rw [hf]

/-! ## What a write of results leaves alone -/

/-- A write of a register keeps the predicates and the call stack of every thread. -/
theorem thread_writeG_keeps (lane r : Nat) (v : W32) (t : Team) (lane' : Nat) :
    (thread (writeG lane r v t) lane').preds = (thread t lane').preds ∧ (thread (writeG lane r v t) lane').stack = (thread t lane').stack := by
  rw [thread_writeG]
  split
  · next h => rw [h.1]; exact ⟨rfl, rfl⟩
  · exact ⟨rfl, rfl⟩

theorem readP_writeG (lane r : Nat) (v : W32) (t : Team) (lane' q : Nat) : readP (writeG lane r v t) lane' q = readP t lane' q := by
  rw [readP, (thread_writeG_keeps ..).1]
  rfl

theorem readP_writeLanes (n : Nat) (f : BitVec 9) (vals : List (Nat × Nat)) (t : Team) (lane q : Nat) :
    readP (writeLanes n f vals t) lane q = readP t lane q :=
  writeLanes_induct (P := fun u => readP u lane q = readP t lane q) (u := ⟨n, false, false, false, false⟩)
    (fun _ _ _ _ _ h => (readP_writeG ..).trans h) (fun _ _ _ _ h => h) vals rfl

theorem writeLanes_gen_uregs {r : Nat} (hf : opd f = .gen r) (n : Nat) (vals : List (Nat × Nat)) (t : Team) :
    (writeLanes n f vals t).uregs = t.uregs := by
  have hwords : ∀ m lane v u, (writeWords m lane f v u).uregs = u.uregs := by
    intro m lane v u
    induction m with
    | zero => rfl
    | succ m ih =>
      rw [writeWords_succ, hf]
      exact (writeG_uregs ..).trans ih
  rw [writeLanes_gen hf]
  exact List.foldlRecOn (motive := fun u : Team => u.uregs = t.uregs) _ _ rfl fun u hu x _ => (hwords ..).trans hu

end

/-- Settles O8: a write of results is one of each lane's words, register by register. -/
theorem resultsReachTheirRegisters : Obligations.ResultsReachTheirRegisters := by
  unfold Obligations.ResultsReachTheirRegisters
  intro t n f vals hd
  refine ⟨fun r hf hr hn => ⟨fun lane k => ?_, writeLanes_gen_uregs hf n vals t⟩, fun hf => writeLanes_255 hf n vals t, fun u hf => ?_,
    writeLanes_flags .., fun lane q => readP_writeLanes .., readG_255 t, readP_7 t⟩
  · split
    · next x hx =>
      have hl : x.1 = lane := by simpa using List.find?_some hx
      rw [← hl]
      exact readG_writeLanes_listed hf hr hn hd (List.mem_of_find?_eq_some hx) k t
    · next hx => exact readG_writeLanes_unlisted hf hr hn (fun x hx' => by simpa using List.find?_eq_none.mp hx x hx') k t
  · cases vals with
    | nil => rw [writeLanes_uni_nil hf]; exact ⟨rfl, fun _ => rfl⟩
    | cons x xs => rw [writeLanes_uni hf]; exact ⟨writeWords_uni_threads hf .., fun k => readU_writeWords hf ..⟩

/-! ## Teams whose results alone differ -/

/-- Team y is team x but for its ring, the registers that a destination names, and the predicate that PDST names where PEN is set. -/
structure KeepsButResults (w : IWord) (d : OpUse) (x y : Team) : Prop where
  gen : ∀ lane r, r ∉ usedRegs w.dst d → readG y lane r = readG x lane r
  uni : ∀ u, 256 + u ∉ usedRegs w.dst d → readU y u = readU x u
  preds : ∀ lane q, w.pen = false ∨ q ≠ w.pdst.toNat → readP y lane q = readP x lane q
  stack : ∀ lane, (thread y lane).stack = (thread x lane).stack
  flags : y.flags = x.flags
  live : y.live = x.live
  harness : y.harness = x.harness
  icnt : y.icnt = x.icnt

section
variable {w : IWord} {d : OpUse} {x y z : Team}

theorem KeepsButResults.ring (r : List TGroup) : KeepsButResults w d x { x with ring := r } :=
  ⟨fun _ _ _ => rfl, fun _ _ => rfl, fun _ _ _ => rfl, fun _ => rfl, rfl, rfl, rfl, rfl⟩

theorem KeepsButResults.trans (h : KeepsButResults w d x y) (k : KeepsButResults w d y z) : KeepsButResults w d x z where
  gen lane r hr := (k.gen lane r hr).trans (h.gen lane r hr)
  uni u hu := (k.uni u hu).trans (h.uni u hu)
  preds lane q hq := (k.preds lane q hq).trans (h.preds lane q hq)
  stack lane := (k.stack lane).trans (h.stack lane)
  flags := k.flags.trans h.flags
  live := k.live.trans h.live
  harness := k.harness.trans h.harness
  icnt := k.icnt.trans h.icnt

theorem keepsButResults_writeG {r : Nat} (hr : r = 255 ∨ r ∈ usedRegs w.dst d) (lane : Nat) (v : W32) (x : Team) :
    KeepsButResults w d x (writeG lane r v x) where
  gen lane' k hk := by
    rw [readG_writeG, if_neg]
    rintro ⟨_, rfl, h255⟩
    exact hr.elim h255 hk
  uni u _ := by rw [readU, writeG_uregs]; rfl
  preds lane' q _ := readP_writeG ..
  stack lane' := (thread_writeG_keeps ..).2
  flags := writeG_flags ..
  live := by unfold writeG; split <;> rfl
  harness := by unfold writeG; split <;> rfl
  icnt := by unfold writeG; split <;> rfl

theorem keepsButResults_writeU {r : Nat} (hr : 256 + r ∈ usedRegs w.dst d) (v : W32) (x : Team) : KeepsButResults w d x (writeU r v x) where
  gen _ _ _ := rfl
  uni u hu := by
    rw [readU_writeU, if_neg]
    rintro rfl
    exact hu hr
  preds _ _ _ := rfl
  stack _ := rfl
  flags := rfl
  live := rfl
  harness := rfl
  icnt := rfl

/-- Results of the registers that the destination names. -/
theorem laneResults_keeps (f : Nat → Nat) (c : Ctx) : KeepsButResults w d c.t (laneResults d.n w f c) :=
  writeLanes_induct (P := KeepsButResults w d c.t) (fun _ _ _ u hr h => h.trans (keepsButResults_writeG hr _ _ u))
    (fun _ _ u hr h => h.trans (keepsButResults_writeU hr _ u)) _ (.ring c.t.ring)

theorem thread_writeP (lane p : Nat) (v : Bool) (t : Team) (lane' : Nat) : thread (writeP lane p v t) lane' =
    if lane' = lane ∧ p ≠ 7 then { thread t lane with preds :=
      if v then (thread t lane).preds ||| BitVec.ofNat 7 (2 ^ p) else (thread t lane).preds &&& ~~~(BitVec.ofNat 7 (2 ^ p)) } else thread t lane' := by
  unfold writeP
  split
  · next hp => exact (if_neg fun h => h.2 hp).symm
  · next hp =>
    by_cases hl : lane' = lane
    · rw [if_pos ⟨hl, hp⟩, hl]
      exact tget_tput_self ..
    · rw [if_neg fun h => hl h.1]
      exact tget_tput_other _ _ _ _ _ hl

/-- A write of a predicate keeps the registers and the call stack of every thread. -/
theorem thread_writeP_keeps (lane p : Nat) (v : Bool) (t : Team) (lane' : Nat) :
    (thread (writeP lane p v t) lane').regs = (thread t lane').regs ∧ (thread (writeP lane p v t) lane').stack = (thread t lane').stack := by
  rw [thread_writeP]
  split
  · next h => rw [h.1]; exact ⟨rfl, rfl⟩
  · exact ⟨rfl, rfl⟩

/-- The other predicates stay. -/
theorem readP_writeP_other {p q : Nat} (h : q ≠ p) (lane : Nat) (v : Bool) (t : Team) (lane' : Nat) :
    readP (writeP lane p v t) lane' q = readP t lane' q := by
  have hbit : q < 7 → (BitVec.ofNat 7 (2 ^ p)).getLsbD q = false := fun hq => by
    rw [BitVec.getLsbD_ofNat, Nat.testBit_two_pow_of_ne (Ne.symm h), Bool.and_false]
  rw [readP, thread_writeP]
  split
  · next hl =>
    rw [hl.1, readP]
    by_cases hq : q < 7
    · cases v with
      | false => simp only [Bool.false_eq_true, if_false, BitVec.getLsbD_and, BitVec.getLsbD_not, hbit hq, hq, decide_true, Bool.not_false, Bool.and_true]
      | true => simp only [if_true, BitVec.getLsbD_or, hbit hq, Bool.or_false]
    · simp only [BitVec.getLsbD_of_ge _ _ (Nat.not_lt.mp hq)]
  · rfl

theorem keepsButResults_writeP (hp : w.pen = true) (lane : Nat) (v : Bool) (x : Team) :
    KeepsButResults w d x (writeP lane w.pdst.toNat v x) where
  gen lane' r _ := by rw [readG, (thread_writeP_keeps ..).1]; rfl
  uni u _ := by unfold writeP; split <;> rfl
  preds lane' q hq := readP_writeP_other (hq.resolve_left (by simp [hp])) ..
  stack lane' := (thread_writeP_keeps ..).2
  flags := by unfold writeP; split <;> rfl
  live := by unfold writeP; split <;> rfl
  harness := by unfold writeP; split <;> rfl
  icnt := by unfold writeP; split <;> rfl

theorem lanePreds_keeps (hp : w.pen = true) (p : Nat → Bool) (c : Ctx) : KeepsButResults w d c.t (lanePreds w p c) :=
  List.foldlRecOn (motive := KeepsButResults w d c.t) _ _ (.ring c.t.ring) fun u h l _ => h.trans (keepsButResults_writeP hp l (p l) u)

end

end Sys2Proof.Machine
end

section
/-! PROOFS. What an instruction that changes its team alone leaves of the rest of the state (R75, R101). -/

namespace Sys2Proof.Machine

/-! ## Other cores, blocks and teams -/

section
variable {core slot team : Nat} (f : Team → Team) (s : State)

theorem getCore_setCore_other {n m : Nat} (h : m ≠ n) (c : Core) (s : State) : getCore (setCore n c s) m = getCore s m :=
  tget_tput_other _ _ _ _ _ h

/-- A change of a block leaves every other block of its core. -/
theorem getBlock_setBlock_other {n : Nat} (h : n ≠ slot) (b : Block) : getBlock (setBlock core slot b s) core n = getBlock s core n := by
  rw [setBlock, getBlock_setCore, tfind_tput_other _ _ _ _ h]
  rfl

@[simp] theorem getBlock_setBlock (core slot : Nat) (b : Block) (s : State) : getBlock (setBlock core slot b s) core slot = some b := by
  rw [setBlock, getBlock_setCore, tfind_tput_self]

theorem getCore_modTeam_other {n : Nat} (h : n ≠ core) : getCore (modTeam core slot team f s) n = getCore s n := by
  unfold modTeam modBlock
  split
  · exact getCore_setCore_other h ..
  · rfl

theorem getBlock_modTeam_other {n : Nat} (h : n ≠ slot) : getBlock (modTeam core slot team f s) core n = getBlock s core n := by
  unfold modTeam modBlock
  split
  · exact getBlock_setBlock_other s h _
  · rfl

variable {s} in
/-- A change of a team leaves its block as it was but for the teams, and there every other team. -/
theorem getBlock_modTeam {b : Block} (hb : getBlock s core slot = some b) :
    ∃ ts, getBlock (modTeam core slot team f s) core slot = some { b with teams := ts } ∧ ∀ n, n ≠ team → tfind ts n = tfind b.teams n := by
  cases ht : tfind b.teams team with
  | some t =>
    refine ⟨tput b.teams team (f t), ?_, fun n hn => tfind_tput_other _ _ _ _ hn⟩
    rw [modTeam_eq f hb ht, getBlock_setBlock]
  | none =>
    have hsame : modTeam core slot team f s = setBlock core slot b s := by simp only [modTeam, modBlock, hb, ht]
    exact ⟨b.teams, by rw [hsame, getBlock_setBlock], fun _ _ => rfl⟩

theorem getTeam_modTeam_other {n : Nat} (h : n ≠ team) : getTeam (modTeam core slot team f s) core slot n = getTeam s core slot n := by
  cases hb : getBlock s core slot with
  | none =>
    have hsame : modTeam core slot team f s = s := by simp only [modTeam, modBlock, hb]
    rw [hsame]
  | some b =>
    obtain ⟨ts, hts, hothers⟩ := getBlock_modTeam (team := team) f hb
    simp only [getTeam, hts, hb, hothers n h]

end

section
variable {i : Issue} {w : IWord} {s : State} {c : Ctx}

/-- What a ready group's issue holds: its block and team as the state has them, the ring turned to the group that is ready, and its guarded lanes. -/
theorem ready_holds (h : ready s i w = some c) :
    getBlock s c.core c.slot = some c.b ∧ (∃ x, tfind c.b.teams c.team = some x ∧ c.t = { x with ring := turnReady x.ring }) ∧
      (∃ r, c.t.ring = c.g :: r) ∧ c.g.held = false ∧ c.t.waits = false ∧ c.on = c.g.lanes.filter (guardTrue w c.t) := by
  unfold ready at h
  split at h
  · cases h
  · split at h
    · cases h
    · next hb =>
      split at h
      · cases h
      · next x hx =>
        dsimp only at h
        split at h
        · cases h
        · next hr =>
          split at h
          · cases h
          · next hgo =>
            cases h
            simp only [Bool.or_eq_true, not_or, Bool.not_eq_true] at hgo
            exact ⟨hb, ⟨x, hx, rfl⟩, ⟨_, hr⟩, hgo.1.1, hgo.2, rfl⟩

theorem ready_getTeam (h : ready s i w = some c) :
    ∃ x, getTeam s c.core c.slot c.team = some x ∧ c.t = { x with ring := turnReady x.ring } := by
  obtain ⟨hb, ⟨x, hx, ht⟩, _⟩ := ready_holds h
  exact ⟨x, getTeam_eq_some.mpr ⟨_, hb, hx⟩, ht⟩

/-- The team that has retired an instruction stands in the state with its groups settled. -/
theorem getTeam_retires (h : ready s i w = some c) (t : Team) : getTeam (retires c t) c.core c.slot c.team = some (settleTeam t) := by
  obtain ⟨_, rfl, _⟩ := ready_spec s i w c h
  obtain ⟨x, hx, _⟩ := ready_getTeam h
  exact getTeam_modTeam settleTeam (getTeam_modTeam (fun _ => t) hx)

/-- An instruction that changes its team alone leaves every other core, block and team, and of its block all but the teams. -/
theorem retires_frame (h : ready s i w = some c) (t : Team) :
    retires c t = { s with cores := (retires c t).cores } ∧ (∀ n, n ≠ c.core → getCore (retires c t) n = getCore s n) ∧
      (∀ n, n ≠ c.slot → getBlock (retires c t) c.core n = getBlock s c.core n) ∧
      (∀ n, n ≠ c.team → getTeam (retires c t) c.core c.slot n = getTeam s c.core c.slot n) ∧
      ∃ ts, getBlock (retires c t) c.core c.slot = some { c.b with teams := ts } := by
  obtain ⟨_, rfl, _⟩ := ready_spec s i w c h
  obtain ⟨hb, _⟩ := ready_holds h
  refine ⟨?_, fun n hn => ?_, fun n hn => ?_, fun n hn => ?_, ?_⟩
  · obtain ⟨_, hput⟩ := modTeam_cases c.core c.slot c.team (fun _ => t) c.s
    obtain ⟨_, hset⟩ := modTeam_cases c.core c.slot c.team settleTeam (c.put t)
    rw [retires, hset, Ctx.put, hput]
  · exact (getCore_modTeam_other _ _ hn).trans (getCore_modTeam_other _ _ hn)
  · exact (getBlock_modTeam_other _ _ hn).trans (getBlock_modTeam_other _ _ hn)
  · exact (getTeam_modTeam_other _ _ hn).trans (getTeam_modTeam_other _ _ hn)
  · obtain ⟨_, hput, _⟩ := getBlock_modTeam (fun _ => t) hb
    obtain ⟨ts, hset, _⟩ := getBlock_modTeam settleTeam hput
    exact ⟨ts, hset⟩

theorem settleTeam_ring (t : Team) : ∃ r, settleTeam t = { t with ring := r } := ⟨_, rfl⟩

end

end Sys2Proof.Machine
end

section
/-! PROOFS. The INT family (R101, R103): what each of its instructions leaves. -/

namespace Sys2Proof.Machine

variable {i : Issue} {w : IWord} {s : State} {c : Ctx}

/-- An operation of one form puts each lane's result, cut to the operation's width, in DST. -/
theorem intOp_answers {form : Form} (f : Ctx → Nat → Nat) (h : Issues i w (fun _ => form) s c) :
    answer s (intOp i w form f s) = .next (retires c (laneResults (intN w) w (fun l => f (past w c) l % 2 ^ intW w) (past w c))) :=
  answer_issueTeam i w form _ s c h

/-- The same, by what each lane's cut result is. -/
theorem intOp_gives {form : Form} {f : Ctx → Nat → Nat} {r : Nat → Nat} (h : Issues i w (fun _ => form) s c)
    (hr : ∀ l, f (past w c) l % 2 ^ intW w = r l) :
    answer s (intOp i w form f s) = .next (retires c (laneResults (intN w) w r (past w c))) := by
  rw [intOp_answers f h, funext hr]

/-! ## Values -/

/-- A two's complement number is already cut to its width. -/
theorem ofSigned_lt (n : Nat) (v : Int) : ofSigned n v < 2 ^ n := by
  have hpos : (0 : Int) < 2 ^ n := by positivity
  have hlt : v % 2 ^ n < 2 ^ n := Int.emod_lt_of_pos v hpos
  have hcast : ((2 ^ n : Nat) : Int) = 2 ^ n := by push_cast; rfl
  rw [ofSigned]
  omega

theorem ofSigned_mod (n : Nat) (v : Int) : ofSigned n v % 2 ^ n = ofSigned n v := Nat.mod_eq_of_lt (ofSigned_lt n v)

/-- A number within the unsigned range, taken as an integer modulo the width. -/
theorem toNat_mod_two_pow {v : Int} (n : Nat) (h : 0 ≤ v) : v.toNat % 2 ^ n = (v % 2 ^ n).toNat := by
  rw [Int.toNat_emod h (by positivity)]
  congr 1

/-- A sum or difference wraps, or under `.sat` is kept within the range, and then is cut to the width. -/
theorem wrapOrSat_mod (w : IWord) (v : Int) : wrapOrSat w v % 2 ^ intW w =
    ((if !modSat w then v else if modS w then max (-(2 ^ (intW w - 1))) (min (2 ^ (intW w - 1) - 1) v) else max 0 (min (2 ^ intW w - 1) v)) %
      2 ^ intW w).toNat := by
  rw [wrapOrSat]
  cases modSat w with
  | false => exact ofSigned_mod _ v
  | true =>
    cases modS w with
    | true => exact ofSigned_mod ..
    | false => exact toNat_mod_two_pow _ (le_max_left ..)

/-! ## Arithmetic (R101) -/

/-- Settles O5: form by form, each instruction is an operation whose lane results are the stated ones. -/
theorem intArithmetic : Obligations.IntArithmetic := by
  unfold Obligations.IntArithmetic
  intro i w s c
  refine ⟨?addSub, ?two, ?muladd, ?abs⟩
  case addSub => exact fun h => ⟨intOp_gives h fun l => wrapOrSat_mod w _, intOp_gives h fun l => wrapOrSat_mod w _⟩
  case two => exact fun h => ⟨intOp_answers _ h, intOp_gives h fun l => ofSigned_mod _ _, intOp_answers _ h, intOp_answers _ h⟩
  case muladd => exact fun h => intOp_answers _ h
  case abs => exact fun h => intOp_gives h fun l => ofSigned_mod _ _

/-! ## Bits, fields and lanes (R101, R103) -/

/-- A comparison of two numbers is one of the sign of their difference with 0. -/
theorem condHolds_sign_sub (k : Nat) (x y : Int) : condHolds k (Int.sign (x - y)) =
    match k with
    | 0 => decide (x = y) | 1 => decide (x ≠ y) | 2 => decide (x < y) | 3 => decide (x ≤ y) | 4 => decide (x > y) | _ => decide (x ≥ y) := by
  have heq : Int.sign (x - y) = 0 ↔ x = y := by rw [Int.sign_eq_zero_iff_zero]; omega
  have hneg : Int.sign (x - y) < 0 ↔ x < y := by rw [Int.sign_neg_iff]; omega
  have hpos : 0 < Int.sign (x - y) ↔ y < x := by rw [Int.sign_pos_iff]; omega
  have hle : Int.sign (x - y) ≤ 0 ↔ x ≤ y := by rw [← Int.not_lt, hpos, Int.not_lt]
  have hge : 0 ≤ Int.sign (x - y) ↔ y ≤ x := by rw [← Int.not_lt, hneg, Int.not_lt]
  rw [Bool.eq_iff_iff]
  rcases k with _ | _ | _ | _ | _ | k
  · exact beq_iff_eq.trans (heq.trans decide_eq_true_iff.symm)
  · exact bne_iff_ne.trans (heq.not.trans decide_eq_true_iff.symm)
  · exact decide_eq_true_iff.trans (hneg.trans decide_eq_true_iff.symm)
  · exact decide_eq_true_iff.trans (hle.trans decide_eq_true_iff.symm)
  · exact decide_eq_true_iff.trans (hpos.trans decide_eq_true_iff.symm)
  · exact decide_eq_true_iff.trans (hge.trans decide_eq_true_iff.symm)

/-- Settles O6: form by form; positions and widths are bytes of their operands, and a comparison is one of signs. -/
theorem intBitsFieldsAndLanes : Obligations.IntBitsFieldsAndLanes := by
  unfold Obligations.IntBitsFieldsAndLanes
  refine ⟨fun i w s c => ⟨?two, ?one, ?shift, ?count⟩, fun i w s c => ⟨?fget, ?fput, ?pick, ?cmp, ?get, ?mask⟩⟩
  case two => exact fun h => ⟨intOp_answers _ h, intOp_answers _ h, intOp_answers _ h⟩
  case one => exact fun h => ⟨intOp_answers _ h, intOp_answers _ h, intOp_answers _ h⟩
  case shift => exact fun h => ⟨intOp_answers _ h, intOp_answers _ h, intOp_answers _ h⟩
  case count => exact fun h => ⟨answer_issueTeam i w _ _ s c h, answer_issueTeam i w _ _ s c h⟩
  case fget => exact fun h => intOp_gives h fun l => by simp only [bitsOf, pow_zero, Nat.div_one]; rfl
  case fput => exact fun h => intOp_gives h fun l => by simp only [bitsOf, pow_zero, Nat.div_one]; rfl
  case pick => exact fun h => intOp_answers _ h
  case cmp =>
    intro h
    refine (answer_issueTeam i w _ _ s c h).trans ?_
    simp only [lanePreds, intCompare, condHolds_sign_sub]
    rfl
  case get =>
    intro h
    refine intOp_gives h fun l => ?_
    simp only [fromLane, List.contains_iff_mem]
    rfl
  case mask => exact fun h => answer_issueTeam i w _ _ s c h

/-! ## What an INT instruction leaves alone (R75, R100, R101) -/

/-- What the statement on the frame says of an instruction whose destination is d. -/
def LeavesTheRest (i : Issue) (w : IWord) (d : OpUse) (c : Ctx) (s t : State) : Prop :=
  t = { s with cores := t.cores } ∧
  (∀ core, core ≠ i.core.val → getCore t core = getCore s core) ∧
  (∀ slot, slot ≠ i.slot.val → getBlock t i.core.val slot = getBlock s i.core.val slot) ∧
  (∀ team, team ≠ i.team.val → getTeam t i.core.val i.slot.val team = getTeam s i.core.val i.slot.val team) ∧
  ∃ x y b', getTeam s i.core.val i.slot.val i.team.val = some x ∧ getTeam t i.core.val i.slot.val i.team.val = some y ∧
    getBlock t i.core.val i.slot.val = some b' ∧ b' = { c.b with teams := b'.teams } ∧
    (∀ lane r, r ∉ usedRegs w.dst d → readG y lane r = readG x lane r) ∧
    (∀ u, 256 + u ∉ usedRegs w.dst d → readU y u = readU x u) ∧
    (∀ lane q, w.pen = false ∨ q ≠ w.pdst.toNat → readP y lane q = readP x lane q) ∧
    (∀ lane, (thread y lane).stack = (thread x lane).stack) ∧ y.flags = x.flags ∧ y.live = x.live ∧ y.harness = x.harness ∧ y.icnt = x.icnt

/-- An instruction that retires leaves the rest alone where the team that its meaning gives does: the ring apart, which moves past the word and settles. -/
theorem retires_leavesTheRest {d : OpUse} (h : ready s i w = some c) {t : Team} (hk : KeepsButResults w d (past w c).t t) :
    LeavesTheRest i w d c s (retires c t) := by
  obtain ⟨_, _, hcore, hslot, hteam⟩ := ready_spec s i w c h
  obtain ⟨hcores, hother, hblocks, hteams, ts, hblock⟩ := retires_frame h t
  obtain ⟨x, hx, hturn⟩ := ready_getTeam h
  obtain ⟨r, hset⟩ := settleTeam_ring t
  obtain ⟨r', hadvance⟩ := advance_ring w c.t
  have hbefore : KeepsButResults w d x (past w c).t := by
    rw [past, hadvance, hturn]
    exact .ring r'
  have hall : KeepsButResults w d x (settleTeam t) := by
    rw [hset]
    exact (hbefore.trans hk).trans (.ring r)
  unfold LeavesTheRest
  rw [← hcore, ← hslot, ← hteam]
  exact ⟨hcores, hother, hblocks, hteams, x, settleTeam t, _, hx, getTeam_retires h t, hblock, rfl, hall.gen, hall.uni, hall.preds, hall.stack, hall.flags,
    hall.live, hall.harness, hall.icnt⟩

/-- An instruction and its form, of which the statement on the frame holds. -/
def Framed (e : (Issue → IWord → Instr) × (IWord → Form)) : Prop :=
  ∀ (i : Issue) (w : IWord) (s t : State) (c : Ctx), Issues i w (fun _ => e.2 w) s c → exec (e.1 i w) s = .next t → LeavesTheRest i w (e.2 w).dst c s t

/-- An instruction that puts results of its destination's registers there. -/
theorem framed_of_results {k : Issue → IWord → Instr} {form : IWord → Form} (f : IWord → Ctx → Nat → Nat)
    (h : ∀ i w s, exec (k i w) s = answer s (issueTeam i w (form w) (fun c => laneResults (form w).dst.n w (f w c) c) s)) : Framed (k, form) := by
  intro i w s t c hi ht
  dsimp only at hi ht
  rw [h, answer_issueTeam i w _ _ s c hi] at ht
  cases ht
  exact retires_leavesTheRest hi.2.1 (laneResults_keeps ..)

/-- A comparison's form requires PEN. -/
theorem legal_cmpForm_pen {regs : Nat} (h : legal regs (cmpForm w) w = true) : w.pen = true := by
  simp only [legal, Bool.and_eq_true] at h
  exact (Bool.and_eq_true_iff.mp h.2).1

theorem framed_intCmp : Framed (.intCmp, cmpForm) := by
  intro i w s t c hi ht
  have hpen : w.pen = true := legal_cmpForm_pen hi.2.2.1
  have hcmp : exec (.intCmp i w) s = _ := answer_issueTeam i w _ (fun c => lanePreds w (fun l => intCompare w (intA w c l) (intB w c l)) c) s c hi
  cases hcmp.symm.trans ht
  exact retires_leavesTheRest hi.2.1 (lanePreds_keeps hpen ..)

/-- Settles O7: each instruction changes its team alone, and there DST, or for cmp PDST. -/
theorem intFrame : Obligations.IntFrame := by
  unfold Obligations.IntFrame
  suffices hall : ∀ e ∈ _, Framed e from hall
  simp only [List.forall_mem_cons]
  refine ⟨?_, ?_, ?_, ?_, ?_, ?_, ?_, ?_, ?_, ?_, ?_, ?_, ?_, ?_, ?_, ?_, ?_, ?_, framed_intCmp, by simp⟩
  all_goals exact framed_of_results _ fun _ _ _ => rfl

end Sys2Proof.Machine
end

section
/-! PROOFS. The CVT family (R104 to R107): what its instructions leave, and the integers that floats become. -/

namespace Sys2Proof.Machine

variable {i : Issue} {w : IWord} {s : State} {c : Ctx}

/-! ## Instructions that may use SR (R61, R105) -/

theorem retiresSr_inputs (sr : Bool) (c : Ctx) (t : Team) : (retiresSr sr c t).pending = c.s.pending ∧ (retiresSr sr c t).pins = c.s.pins :=
  ⟨(modTeam_pending ..).trans (put_pending ..), (modTeam_pins ..).trans (put_pins ..)⟩

/-- An instruction that changes its team alone and may use SR. -/
theorem answer_issueSr {form : Form} (sr : Bool) (f : Ctx → Team) (h : Issues i w (fun _ => form) s c) :
    answer s (issueWith i w (fun _ => form) sr (fun c => c.put (f c)) s) = .next (retiresSr sr c (f (past w c))) := by
  obtain ⟨_, hs, _⟩ := ready_spec s i w c h.2.1
  obtain ⟨hq, hp⟩ := retiresSr_inputs sr c (f (past w c))
  rw [answer_issueWith i w _ sr _ s c h]
  exact congrArg _ (leaves_self _ _ (hs ▸ hq) (hs ▸ hp))

/-! ## Blocks (R107) -/

theorem blkTeam_none (h : c.on = []) : blkTeam w c = c.t := by
  unfold blkTeam
  rw [h]

theorem blkTeam_first {first : Nat} {rest : List Nat} (h : c.on = first :: rest) : blkTeam w c =
    writeU (scaleReg w) (BitVec.ofNat 32 (blkConvert w c first).1) (writeFlags [(blkConvert w c first).2.2]
      (writeLanes 1 w.dst (c.on.map fun l => (l, ((blkConvert w c first).2.1[l]?).getD 0)) c.t)) := by
  unfold blkTeam
  rw [h]

/-- Settles O13: each conversion changes its team alone, as its form has it. -/
theorem conversions : Obligations.Conversions := by
  unfold Obligations.Conversions
  intro i w s c
  refine ⟨?cvt, ?f2i, ?i2f, ?blk⟩
  case cvt => exact fun h => answer_issueSr (usesSr w) (fun c => flaggedResults (cvtDstRegs w) w (cvtLane w c) c) h
  case f2i => exact fun h => answer_issueTeam i w _ _ s c h
  case i2f => exact fun h => answer_issueTeam i w _ _ s c h
  case blk =>
    intro h
    have hblk : exec (.cvtBlk i w) s = _ := answer_issueSr (usesSr w) (blkTeam w) h
    exact ⟨fun hon => hblk.trans (by rw [blkTeam_none (c := past w c) hon]; rfl), fun first rest hon => hblk.trans (by rw [blkTeam_first (c := past w c) hon]; rfl)⟩

/-! ## Floats to integers (R105) -/

/-- The least and the greatest integer of n bits. -/
def intLeast (signed : Bool) (n : Nat) : Int := if signed then -(2 ^ (n - 1)) else 0
def intGreatest (signed : Bool) (n : Nat) : Int := if signed then 2 ^ (n - 1) - 1 else 2 ^ n - 1

theorem intLeast_le_intGreatest (signed : Bool) (n : Nat) : intLeast signed n ≤ intGreatest signed n := by
  have hpos (k : Nat) : (0 : Int) < 2 ^ k := by positivity
  cases signed with
  | true => have := hpos (n - 1); simp only [intLeast, intGreatest, if_true]; omega
  | false => have := hpos n; simp only [intLeast, intGreatest, Bool.false_eq_true, if_false]; omega

theorem cast_two_pow_sub_one (k : Nat) : ((2 ^ k - 1 : Nat) : Int) = 2 ^ k - 1 := by
  rw [Nat.cast_sub Nat.one_le_two_pow]
  push_cast
  rfl

section
variable {f : Fmt} {mode : RMode} {signed : Bool} {n a : Nat}

/-- A float becomes the integer that it rounds to, kept between the bounds. -/
theorem fToInt_eq : fToInt f mode signed n a =
    match f.decode a with
    | .nan _ => (0, flagNv)
    | .inf neg => (ofSigned n (if neg then intLeast signed n else intGreatest signed n), flagNv)
    | .fin neg m e =>
      let v : Int := (if neg then -1 else 1) * ((roundAt mode neg m e 0 false).1 : Int)
      if v < intLeast signed n then (ofSigned n (intLeast signed n), flagNv)
      else if intGreatest signed n < v then (ofSigned n (intGreatest signed n), flagNv) else (ofSigned n v, noFlags) := by
  have hlo : (if signed then -((2 ^ (n - 1) : Nat) : Int) else 0) = intLeast signed n := by push_cast; rfl
  have hhi : (if signed then ((2 ^ (n - 1) - 1 : Nat) : Int) else ((2 ^ n - 1 : Nat) : Int)) = intGreatest signed n := by
    rw [cast_two_pow_sub_one, cast_two_pow_sub_one]
    rfl
  unfold fToInt
  dsimp only
  rw [hlo, hhi]
  cases f.decode a with
  | nan q => rfl
  | inf neg => rfl
  | fin neg m e => cases neg <;> simp only [if_true, Bool.false_eq_true, if_false, neg_one_mul, one_mul]

end

/-- Settles O14: what a float rounds to lies between the bounds, below both, or above both. -/
theorem floatToIntegerSaturates : Obligations.FloatToIntegerSaturates := by
  unfold Obligations.FloatToIntegerSaturates
  intro k f _ mode signed n a _
  refine ⟨fun q hd => ?nan, fun neg hd => ?inf, fun neg m e hd => ⟨fun hlo hhi => ?within, fun hlow => ?below, fun hhigh => ?above⟩⟩
  all_goals rw [fToInt_eq, hd]
  case inf => rfl
  case within => exact (if_neg (Int.not_lt.mpr hlo)).trans (if_neg (Int.not_lt.mpr hhi))
  case below => exact if_pos hlow
  case above => exact (if_neg (Int.not_lt.mpr ((intLeast_le_intGreatest signed n).trans (Int.le_of_lt hhigh)))).trans (if_pos hhigh)

end Sys2Proof.Machine
end

section
/-! PROOFS. The CTL family (R108 to R110, R129, R140): branches and their faults, ends, joins, barriers, dozes and traps. -/

namespace Sys2Proof.Machine

variable {i : Issue} {w : IWord} {s : State} {c : Ctx}

@[simp] theorem past_on : (past w c).on = c.on := rfl

/-! ## What an issued instruction answers, by what its meaning gives -/

section
variable {form : Form} {body : Ctx → State}

theorem answer_issue_leaves {u : State} (h : Issues i w (fun _ => form) s c) (hu : body (past w c) = u) :
    answer s (issue i w form body s) = .next (leaves s (retired c u)) := by
  rw [issue, answer_issueWith i w _ false body s c h, hu]
  rfl

/-- The meaning changes the team alone. -/
theorem answer_issue_put {t : Team} (h : Issues i w (fun _ => form) s c) (hu : body (past w c) = (past w c).put t) :
    answer s (issue i w form body s) = .next (retires c t) := by
  obtain ⟨_, hs, _⟩ := ready_spec s i w c h.2.1
  exact answer_issue_keeps h hu (hs ▸ put_pending ..) (hs ▸ put_pins ..)

/-- The meaning raises a job fault. -/
theorem answer_issue_fault {code : Nat} (h : Issues i w (fun _ => form) s c) (hu : body (past w c) = (past w c).fault code) :
    answer s (issue i w form body s) = .next (leaves s (retired c (finish (jobFault c.unit code 0 s)))) := by
  obtain ⟨_, hs, _⟩ := ready_spec s i w c h.2.1
  refine (answer_issue_leaves h hu).trans ?_
  rw [← hs]
  rfl

end

/-! ## Branches (R108, R110, R129) -/

theorem branchOr_whole {taken : List (Nat × W64)} {t : Team} (h : splits c taken = false) : branchOr c taken t = c.put (t.branch taken) := by
  unfold branchOr
  rw [h]
  rfl

theorem branchOr_splits {taken : List (Nat × W64)} {t : Team} (h : splits c taken = true) : branchOr c taken t = c.fault harnessSplit := if_pos h

/-- Settles O15: each branch first meets its own fault, then the harness region, and else moves its threads. -/
theorem branches : Obligations.Branches := by
  unfold Obligations.Branches
  refine ⟨fun i w s c => ⟨?jmp, ?jmpi, ?call, ?ret⟩, fun i w s c => ⟨?jmpSplit, ?jmpiMisaligned, ?callDeep, ?retEmpty⟩⟩
  case jmp => exact fun h hw => answer_issue_put h (branchOr_whole hw)
  case jmpi =>
    intro h hw hal
    refine answer_issue_put h ((if_neg ?_).trans (branchOr_whole hw))
    simpa [jmpiTargets] using hal
  case call =>
    intro h hw hroom
    refine answer_issue_put h ((if_neg ?_).trans (branchOr_whole hw))
    simpa using hroom
  case ret =>
    intro h hw hsome
    refine answer_issue_put h ((if_neg ?_).trans (branchOr_whole hw))
    simpa using hsome
  case jmpSplit => exact fun h hw => answer_issue_fault h (branchOr_splits hw)
  case jmpiMisaligned =>
    intro h hbad
    refine answer_issue_fault h (if_pos ?_)
    simpa [jmpiTargets] using hbad
  case callDeep =>
    intro h hdeep
    refine answer_issue_fault h (if_pos ?_)
    simpa using hdeep
  case retEmpty =>
    intro h hempty
    refine answer_issue_fault h (if_pos ?_)
    simpa using hempty

/-! ## Ends (R108, R127) -/

theorem releaseAll_ring (p : TGroup → Bool) (t : Team) : ∃ r, t.releaseAll p = { t with ring := r } := ⟨_, rfl⟩

theorem checkJoins_ring (t : Team) : ∃ r, checkJoins t = { t with ring := r } := ⟨_, rfl⟩

theorem endLanes_live (c : Ctx) : (endLanes c).live = c.t.live &&& ~~~laneMask c.on := by
  unfold endLanes
  dsimp only
  split
  · rfl
  · split <;> rfl

/-- Where a team's joins are judged, its live threads stay. -/
theorem getTeam_joinsOver {core slot team : Nat} {t : Team} (h : getTeam s core slot team = some t) :
    ∃ y, getTeam (joinsOver core slot team s) core slot team = some y ∧ y.live = t.live := by
  unfold joinsOver
  split
  · exact ⟨t, h, rfl⟩
  · exact ⟨checkJoins t, getTeam_modTeam checkJoins h, rfl⟩

theorem joinsOver_inputs (core slot team : Nat) (s : State) :
    (joinsOver core slot team s).pending = s.pending ∧ (joinsOver core slot team s).pins = s.pins := by
  unfold joinsOver
  split
  · exact ⟨rfl, rfl⟩
  · exact ⟨modTeam_pending .., modTeam_pins ..⟩

/-- What follows an end of threads, by the threads that are left. -/
theorem afterEnd_endLanes (h : ready s i w = some c) :
    afterEnd (past w c) (c.put (endLanes (past w c))) =
      if c.t.live &&& ~~~laneMask c.on = 0 then
        finish (exitBlock c.core c.slot (closeEnded c.core c.slot c.team (joinsOver c.core c.slot c.team (c.put (endLanes (past w c))))))
      else joinsOver c.core c.slot c.team (c.put (endLanes (past w c))) := by
  obtain ⟨_, rfl, _⟩ := ready_spec s i w c h
  obtain ⟨x, hx, _⟩ := ready_getTeam h
  have hput : getTeam (c.put (endLanes (past w c))) c.core c.slot c.team = some (endLanes (past w c)) := getTeam_modTeam _ hx
  obtain ⟨y, hy, hlive⟩ := getTeam_joinsOver hput
  have hleft : y.live = c.t.live &&& ~~~laneMask c.on := by rw [hlive, endLanes_live, past_live]; rfl
  unfold afterEnd
  simp only [past_core, past_slot, past_team, hy, hleft]

/-! ## Joins (R109, R140) -/

/-- A change of a team leaves its core's matrix instructions. -/
theorem mmaStores_put (t : Team) : mmaStores (c.put t) c.core c.slot c.team = mmaStores c.s c.core c.slot c.team := by
  obtain ⟨bs, hcore⟩ := getCore_modTeam c.s c.core c.slot c.team fun _ => t
  unfold mmaStores Ctx.put
  rw [hcore]

/-- Settles O17: ends by the threads that they leave, joins by the matrix instructions still at work, and the other waits as they are set. -/
theorem endsAndWaits : Obligations.EndsAndWaits := by
  unfold Obligations.EndsAndWaits
  intro i w s c
  refine ⟨fun h => ⟨?nop, fun hleft => ?someLive, fun hnone => ?noneLive⟩, fun h hbusy => ?joinHeld, fun h hidle => ?joinJudged, ?barrier,
    fun h hon => ?doze, fun h hon => ?trap⟩
  case nop => exact answer_issueTeam i w _ _ s c h
  case someLive =>
    obtain ⟨hq, hp⟩ := joinsOver_inputs c.core c.slot c.team (c.put (endLanes (past w c)))
    obtain ⟨_, hs, _⟩ := ready_spec s i w c h.2.1
    refine answer_issue_keeps h ((afterEnd_endLanes h.2.1).trans (if_neg hleft)) (hq.trans ?_) (hp.trans ?_)
    · rw [put_pending, hs]
    · rw [put_pins, hs]
  case noneLive => exact answer_issue_leaves h ((afterEnd_endLanes h.2.1).trans (if_pos hnone))
  case joinHeld =>
    obtain ⟨_, rfl, _⟩ := ready_spec s i w c h.2.1
    exact answer_issue_put h (if_pos ((mmaStores_put _).trans hbusy))
  case joinJudged =>
    obtain ⟨_, rfl, _⟩ := ready_spec s i w c h.2.1
    refine answer_issue_keeps h (if_neg ?_) ((modTeam_pending ..).trans (put_pending ..)) ((modTeam_pins ..).trans (put_pins ..))
    exact Bool.not_eq_true _ |>.mpr ((mmaStores_put _).trans hidle)
  case barrier => exact fun h => answer_issue_put h rfl
  case doze => exact answer_issue_put h (congrArg _ (if_neg (by simpa using hon)))
  case trap =>
    obtain ⟨_, rfl, _⟩ := ready_spec s i w c h.2.1
    exact answer_issue_leaves h (if_neg (by simpa using hon))

end Sys2Proof.Machine
end

section
/-! PROOFS. Groups of a team (R83, R84): where threads stand, that merges and turns of the ring move none, and the obligation on jmp. -/

namespace Sys2Proof.Machine

/-! ## Sets of lanes -/

theorem getLsbD_laneMask (ls : List Nat) (l : Nat) : (laneMask ls).getLsbD l = decide (l < 32 ∧ l ∈ ls) := by
  have hbits : ∀ m : Nat, (ls.foldl (fun m l => m ||| 2 ^ l) m).testBit l = (m.testBit l || decide (l ∈ ls)) := by
    induction ls with
    | nil => simp
    | cons k ks ih =>
      intro m
      rw [List.foldl_cons, ih, Nat.testBit_or, Nat.testBit_two_pow, Bool.or_assoc]
      simp only [List.mem_cons, Bool.decide_or, eq_comm]
  rw [laneMask, BitVec.getLsbD_ofNat, hbits, Nat.zero_testBit, Bool.false_or, Bool.decide_and]

theorem mem_lanes {g : TGroup} {l : Nat} : l ∈ g.lanes ↔ g.mask.getLsbD l = true := by
  have hbit : bitOf g.mask.toNat l = g.mask.getLsbD l := by
    rw [bitOf, BitVec.getLsbD, Nat.testBit_eq_decide_div_mod_eq]
    rfl
  rw [TGroup.lanes, bitList, List.mem_filter, List.mem_range, hbit]
  exact ⟨fun h => h.2, fun h => ⟨BitVec.lt_of_getLsbD h, h⟩⟩

theorem and_eq_zero_iff {x y : W32} : x &&& y = 0 ↔ ∀ l, x.getLsbD l = true → y.getLsbD l = false := by
  constructor
  · intro h l hx
    have := congrArg (fun z : W32 => z.getLsbD l) h
    simpa [hx] using this
  · intro h
    apply BitVec.eq_of_getLsbD_eq
    intro l _
    cases hx : x.getLsbD l with
    | false => simp [hx]
    | true => simp [hx, h l hx]

/-! ## Where the threads of a ring stand -/

/-- What a group's place in a ring comes to: its threads, their PC, and its birth. -/
def TGroup.place (g : TGroup) : W32 × W64 × Nat := (g.mask, g.pc, g.born)

/-- A thread stands at a PC: a group of the ring has it there. -/
def StandsAt (ring : List TGroup) (l : Nat) (p : W64) : Prop := ∃ g ∈ ring, g.mask.getLsbD l = true ∧ g.pc = p

/-- The groups of a ring share no thread, and their births are distinct. -/
def RingApart (ring : List TGroup) : Prop := (ring.Pairwise fun g h => g.mask &&& h.mask = 0) ∧ (ring.map TGroup.born).Nodup

/-- Two rings of the same places, in whatever order. -/
def SamePlaces (r q : List TGroup) : Prop := (r.map TGroup.place).Perm (q.map TGroup.place)

section
variable {r q : List TGroup} {l : Nat} {p : W64}

theorem standsAt_cons {g : TGroup} : StandsAt (g :: r) l p ↔ (g.mask.getLsbD l = true ∧ g.pc = p) ∨ StandsAt r l p := by
  simp only [StandsAt, List.mem_cons, exists_eq_or_imp]

theorem standsAt_append : StandsAt (r ++ q) l p ↔ StandsAt r l p ∨ StandsAt q l p := by
  simp only [StandsAt, List.mem_append, or_and_right, exists_or]

theorem standsAt_iff_places : StandsAt r l p ↔ ∃ x ∈ r.map TGroup.place, x.1.getLsbD l = true ∧ x.2.1 = p := by
  simp only [StandsAt, List.mem_map, exists_exists_and_eq_and]
  rfl

theorem ringApart_iff_places : RingApart r ↔
    (r.map TGroup.place).Pairwise (fun x y => x.1 &&& y.1 = 0) ∧ ((r.map TGroup.place).map fun x => x.2.2).Nodup := by
  rw [RingApart, List.pairwise_map, List.map_map]
  rfl

theorem SamePlaces.standsAt (h : SamePlaces r q) : StandsAt r l p ↔ StandsAt q l p := by
  simp only [standsAt_iff_places, h.mem_iff]

theorem SamePlaces.ringApart (h : SamePlaces r q) : RingApart r ↔ RingApart q := by
  rw [ringApart_iff_places, ringApart_iff_places, h.pairwise_iff fun hxy => (BitVec.and_comm ..).trans hxy, (h.map _).nodup_iff]

theorem samePlaces_of_perm (h : r.Perm q) : SamePlaces r q := h.map _

/-- In a ring whose groups share no thread a thread stands at one PC, and the ring's first group that has it says where. -/
theorem pcOf_eq_some {t : Team} (h : RingApart t.ring) : pcOf t l = some p ↔ StandsAt t.ring l p := by
  rw [pcOf, Option.map_eq_some_iff]
  constructor
  · rintro ⟨g, hg, rfl⟩
    exact ⟨g, List.mem_of_find?_eq_some hg, by simpa using List.find?_some hg, rfl⟩
  · rintro ⟨g, hg, hl, rfl⟩
    refine ⟨g, ?_, rfl⟩
    rw [List.find?_eq_some_iff_append]
    obtain ⟨as, bs, heq⟩ := List.append_of_mem hg
    refine ⟨hl, as, bs, heq, fun a ha => ?_⟩
    have hdisj := (List.pairwise_append.mp (heq ▸ h.1)).2.2 a ha g List.mem_cons_self
    cases hal : a.mask.getLsbD l with
    | false => rfl
    | true => exact absurd hl (by simp [and_eq_zero_iff.mp hdisj l hal])

/-- Threads that stand alike in two rings have the same PCs. -/
theorem pcOf_congr {t u : Team} (ht : RingApart t.ring) (hu : RingApart u.ring) (h : ∀ p, StandsAt t.ring l p ↔ StandsAt u.ring l p) :
    pcOf t l = pcOf u l := by
  apply Option.ext
  intro p
  exact (pcOf_eq_some ht).trans ((h p).trans (pcOf_eq_some hu).symm)

end

/-! ## Merges (R83) -/

/-- Ring q is ring r with two groups at one PC merged. -/
def Merges (r q : List TGroup) : Prop := ∃ (g h k : TGroup) (rest : List TGroup), SamePlaces r (g :: h :: rest) ∧ SamePlaces q (k :: rest) ∧
  h.pc = g.pc ∧ k.pc = g.pc ∧ k.mask = g.mask ||| h.mask ∧ (k.born = g.born ∨ k.born = h.born)

section
variable {r q : List TGroup}

theorem Merges.standsAt (m : Merges r q) {l : Nat} {p : W64} : StandsAt q l p ↔ StandsAt r l p := by
  obtain ⟨g, h, k, rest, hr, hq, hpc, hk, hmask, _⟩ := m
  rw [hr.standsAt, hq.standsAt, standsAt_cons, standsAt_cons, standsAt_cons, hmask, hk, hpc, BitVec.getLsbD_or, Bool.or_eq_true]
  tauto

theorem Merges.ringApart (m : Merges r q) (ha : RingApart r) : RingApart q := by
  obtain ⟨g, h, k, rest, hr, hq, _, _, hmask, hborn⟩ := m
  obtain ⟨hdisj, hnodup⟩ := hr.ringApart.mp ha
  obtain ⟨hg, hh, hrest⟩ : (∀ x ∈ h :: rest, g.mask &&& x.mask = 0) ∧ (∀ x ∈ rest, h.mask &&& x.mask = 0) ∧
      rest.Pairwise (fun g h => g.mask &&& h.mask = 0) := by
    obtain ⟨h1, h2⟩ := List.pairwise_cons.mp hdisj
    obtain ⟨h3, h4⟩ := List.pairwise_cons.mp h2
    exact ⟨h1, h3, h4⟩
  obtain ⟨hgb, hhb, hb⟩ : g.born ∉ (h :: rest).map TGroup.born ∧ h.born ∉ rest.map TGroup.born ∧ (rest.map TGroup.born).Nodup := by
    obtain ⟨h1, h2⟩ := List.nodup_cons.mp hnodup
    obtain ⟨h3, h4⟩ := List.nodup_cons.mp h2
    exact ⟨h1, h3, h4⟩
  refine hq.ringApart.mpr ⟨List.pairwise_cons.mpr ⟨fun x hx => ?_, hrest⟩, List.nodup_cons.mpr ⟨?_, hb⟩⟩
  · rw [hmask, BitVec.and_comm, BitVec.and_or_distrib_left, BitVec.and_comm, hg x (List.mem_cons_of_mem _ hx), BitVec.and_comm, hh x hx]
    rfl
  · rcases hborn with hk | hk
    · rw [hk]; exact fun hmem => hgb (List.mem_cons_of_mem _ hmem)
    · rw [hk]; exact hhb

/-- In a ring of distinct births a group is alone of its birth. -/
theorem split_of_born (hn : (r.map TGroup.born).Nodup) {h : TGroup} (hh : h ∈ r) :
    ∃ as bs, r = as ++ h :: bs ∧ (∀ x ∈ as, x.born ≠ h.born) ∧ ∀ x ∈ bs, x.born ≠ h.born := by
  obtain ⟨as, bs, rfl⟩ := List.append_of_mem hh
  rw [List.map_append, List.map_cons, List.nodup_append, List.nodup_cons] at hn
  obtain ⟨_, ⟨hbs, _⟩, has⟩ := hn
  exact ⟨as, bs, rfl, fun x hx => has _ (List.mem_map_of_mem hx) _ List.mem_cons_self,
    fun x hx heq => hbs (heq ▸ List.mem_map_of_mem hx)⟩

theorem mergeOnce_merges : ∀ (r : List TGroup) (cur : Bool) {q : List TGroup}, (r.map TGroup.born).Nodup → mergeOnce cur r = some q → Merges r q := by
  intro r
  induction r with
  | nil => intro cur q _ h; cases h
  | cons g r ih =>
    intro cur q hn h
    obtain ⟨_, hn'⟩ := List.nodup_cons.mp hn
    unfold mergeOnce at h
    split at h
    · next k hk =>
      have hfind : r.find? (fun h => !h.held && h.pc == g.pc) = some k := by
        split at hk
        · cases hk
        · exact hk
      have hpc : k.pc = g.pc := by
        have := List.find?_some hfind
        simp only [Bool.and_eq_true, beq_iff_eq] at this
        exact this.2
      obtain ⟨as, bs, rfl, has, hbs⟩ := split_of_born hn' (List.mem_of_find?_eq_some hfind)
      have hring : SamePlaces (g :: (as ++ k :: bs)) (g :: k :: (as ++ bs)) := samePlaces_of_perm (List.perm_middle.cons g)
      have hfilter : (as ++ k :: bs).filter (fun x => x.born != k.born) = as ++ bs := by
        rw [List.filter_append, List.filter_cons_of_neg (by simp), List.filter_eq_self.mpr fun x hx => by simpa using has x hx,
          List.filter_eq_self.mpr fun x hx => by simpa using hbs x hx]
      dsimp only at h
      split at h
      · cases h
        rw [hfilter]
        exact ⟨g, k, _, as ++ bs, hring, .refl _, hpc, rfl, rfl, .inl rfl⟩
      · split at h
        · cases h
          rw [List.takeWhile_append_of_pos fun x hx => by simpa using has x hx, List.dropWhile_append_of_pos fun x hx => by simpa using has x hx,
            List.takeWhile_cons_of_neg (by simp), List.dropWhile_cons_of_neg (by simp), List.append_nil]
          exact ⟨g, k, _, as ++ bs, hring, samePlaces_of_perm (List.perm_append_comm.cons _), hpc, hpc, rfl, .inr rfl⟩
        · cases h
          have hmap : (as ++ k :: bs).map (fun x => if x.born == k.born then { k with mask := g.mask ||| k.mask } else x) =
              as ++ { k with mask := g.mask ||| k.mask } :: bs := by
            rw [List.map_append, List.map_cons, List.map_congr_left fun x hx => if_neg (by simpa using has x hx),
              List.map_congr_left (l := bs) fun x hx => if_neg (by simpa using hbs x hx), List.map_id', List.map_id', if_pos (by simp)]
          rw [hmap]
          exact ⟨g, k, _, as ++ bs, hring, samePlaces_of_perm List.perm_middle, hpc, hpc, rfl, .inr rfl⟩
    · next hk =>
      obtain ⟨q', hq', rfl⟩ := Option.map_eq_some_iff.mp h
      obtain ⟨a, b, k, rest, hr, hq, hrest⟩ := ih false hn' hq'
      refine ⟨a, b, k, g :: rest, ?_, ?_, hrest⟩
      · exact ((hr.cons g.place).trans (.swap ..)).trans ((List.Perm.swap ..).cons _)
      · exact (hq.cons g.place).trans (.swap ..)

/-- Rings in which the threads stand alike, both of groups that share no thread. -/
def StandsAlike (r q : List TGroup) : Prop := RingApart q ∧ ∀ l p, StandsAt q l p ↔ StandsAt r l p

theorem mergeRing_standsAlike (n : Nat) (h : RingApart r) : StandsAlike r (mergeRing n r) := by
  induction n generalizing r with
  | zero => exact ⟨h, fun _ _ => .rfl⟩
  | succ n ih =>
    unfold mergeRing
    split
    · next q hq =>
      have hm := mergeOnce_merges r true h.2 hq
      obtain ⟨hapart, hstands⟩ := ih (hm.ringApart h)
      exact ⟨hapart, fun l p => (hstands l p).trans hm.standsAt⟩
    · exact ⟨h, fun _ _ => .rfl⟩

/-! ## Turns of the ring (R84) -/

theorem turnReady_samePlaces (r : List TGroup) : SamePlaces (turnReady r) r := by
  unfold turnReady
  split
  · exact .refl _
  · next g r =>
    split
    · exact .refl _
    · split
      · exact .refl _
      · next k after hdrop =>
        have hsplit : (g :: r).takeWhile TGroup.held ++ k :: after = g :: r := by rw [← hdrop, List.takeWhile_append_dropWhile]
        have hperm : (k :: (after ++ (g :: r).takeWhile TGroup.held)).Perm (g :: r) := by
          refine .trans ?_ (.of_eq hsplit)
          exact (List.perm_append_comm.cons k).trans List.perm_middle.symm
        exact hperm.map TGroup.place

/-- A team whose groups settle after an instruction: every thread stands where it stood. -/
theorem settleTeam_standsAlike {t : Team} (h : RingApart t.ring) : StandsAlike t.ring (settleTeam t).ring := by
  obtain ⟨hapart, hstands⟩ := mergeRing_standsAlike t.ring.length h
  have hturn := turnReady_samePlaces (mergeRing t.ring.length t.ring)
  exact ⟨hturn.ringApart.mpr hapart, fun l p => hturn.standsAt.trans (hstands l p)⟩

end

/-! ## Branches to one PC (R84, R108) -/

/-- The PCs that a branch of some threads to one PC names. -/
theorem foldl_pcs_single (target : W64) (on : List Nat) (l : List W64) (hl : l = [] ∨ l = [target]) :
    ((on.map fun k => (k, target)).map Prod.snd).foldl (fun l p => if l.contains p then l else l ++ [p]) l = if on = [] then l else [target] := by
  induction on generalizing l with
  | nil => rfl
  | cons k ks ih =>
    have hstep : (if l.contains target then l else l ++ [target]) = [target] := by
      rcases hl with rfl | rfl <;> simp
    rw [List.map_cons, List.map_cons, List.foldl_cons]
    dsimp only
    rw [hstep, ih _ (.inr rfl)]
    simp

section
variable {t : Team} {g : TGroup} {r : List TGroup} {on : List Nat} {target : W64}

/-- The lanes of the group that do not branch. -/
theorem filter_not_taken (on : List Nat) (target : W64) (ls : List Nat) :
    ls.filter (fun l => !(on.map fun k => (k, target)).any fun x => x.1 == l) = ls.filter fun l => decide (l ∉ on) := by
  refine List.filter_congr fun l _ => ?_
  simp only [List.any_map, Function.comp_def, List.any_beq', decide_not, ← List.contains_eq_mem]

/-- The lanes that branch to the one PC. -/
theorem filter_taken (on : List Nat) (target : W64) :
    ((on.map fun k => (k, target)).filter fun x => x.2 == target).map Prod.fst = on := by
  rw [List.filter_eq_self.mpr fun x hx => ?_]
  · rw [List.map_map]; exact List.map_id _
  · obtain ⟨k, _, rfl⟩ := List.mem_map.mp hx
    simp

/-- Where the branching threads leave none of the group behind, the group goes with them; else they form a group of their own. -/
theorem branch_single (hr : t.ring = g :: r) : (t.branch (on.map fun k => (k, target))).ring =
    if on = [] then { g with mask := laneMask g.lanes } :: r
    else if g.lanes.filter (fun l => decide (l ∉ on)) = [] then { g with mask := laneMask on, pc := target } :: r
    else { g with mask := laneMask (g.lanes.filter fun l => decide (l ∉ on)) } ::
      { mask := laneMask on, pc := target, wait := none, left := 16, born := t.born } :: r := by
  unfold Team.branch
  rw [hr]
  dsimp only
  rw [foldl_pcs_single target on [] (.inl rfl), filter_not_taken]
  by_cases hon : on = []
  · subst hon
    simp
  · rw [if_neg hon, if_neg hon]
    cases hrest : g.lanes.filter (fun l => decide (l ∉ on)) with
    | nil =>
      rw [if_pos rfl]
      simp only [filter_taken, List.zipIdx_nil, List.map_nil, List.nil_append]
    | cons x xs =>
      rw [if_neg (by simp)]
      simp only [filter_taken, List.zipIdx_cons, List.zipIdx_nil, List.map_cons, List.map_nil, Nat.add_zero, List.cons_append, List.nil_append]

/-- Groups that take the place of group g: they share its threads out, and no other group has their births. -/
theorem ringApart_replace {news : List TGroup} (h : RingApart (g :: r)) (hnews : RingApart news)
    (hmask : ∀ x ∈ news, ∀ l, x.mask.getLsbD l = true → g.mask.getLsbD l = true) (hborn : ∀ x ∈ news, ∀ y ∈ r, x.born ≠ y.born) :
    RingApart (news ++ r) := by
  obtain ⟨hg, hrest⟩ := List.pairwise_cons.mp h.1
  refine ⟨List.pairwise_append.mpr ⟨hnews.1, hrest, fun x hx y hy => ?_⟩, ?_⟩
  · exact and_eq_zero_iff.mpr fun l hl => and_eq_zero_iff.mp (hg y hy) l (hmask x hx l hl)
  · rw [List.map_append, List.nodup_append]
    refine ⟨hnews.2, (List.nodup_cons.mp h.2).2, ?_⟩
    rintro _ hbx _ hby
    obtain ⟨x, hx, rfl⟩ := List.mem_map.mp hbx
    obtain ⟨y, hy, rfl⟩ := List.mem_map.mp hby
    exact hborn x hx y hy

/-- The threads of the other groups stand where they stood. -/
theorem standsAt_replace {news : List TGroup} (hmask : ∀ x ∈ news, ∀ l, x.mask.getLsbD l = true → g.mask.getLsbD l = true) {l : Nat} (hl : l ∉ g.lanes)
    (p : W64) : StandsAt (news ++ r) l p ↔ StandsAt (g :: r) l p := by
  have hnews : ¬ StandsAt news l p := fun ⟨x, hx, hbit, _⟩ => hl (mem_lanes.mpr (hmask x hx l hbit))
  have hg : ¬ (g.mask.getLsbD l = true ∧ g.pc = p) := fun h => hl (mem_lanes.mpr h.1)
  rw [standsAt_append, standsAt_cons]
  simp only [hnews, hg, false_or]

theorem getLsbD_laneMask_iff {ls : List Nat} (hls : ∀ l ∈ ls, l ∈ g.lanes) {l : Nat} : (laneMask ls).getLsbD l = true ↔ l ∈ ls := by
  rw [getLsbD_laneMask, decide_eq_true_iff]
  exact ⟨fun h => h.2, fun h => ⟨BitVec.lt_of_getLsbD (mem_lanes.mp (hls l h)), h⟩⟩

/-- What stands in the place of the current group after a branch of some of its threads to one PC. -/
structure BranchedTo (g : TGroup) (born : Nat) (on : List Nat) (target : W64) (news : List TGroup) : Prop where
  apart : RingApart news
  mask : ∀ x ∈ news, ∀ l, x.mask.getLsbD l = true → g.mask.getLsbD l = true
  born : ∀ x ∈ news, x.born = g.born ∨ x.born = born
  stands : ∀ l ∈ g.lanes, StandsAt news l (if l ∈ on then target else g.pc)

theorem ringApart_single (x : TGroup) : RingApart [x] := ⟨List.pairwise_singleton .., List.nodup_singleton _⟩

theorem branch_branchedTo (hr : t.ring = g :: r) (hborn : g.born < t.born) (hon : ∀ l ∈ on, l ∈ g.lanes) :
    ∃ news, (t.branch (on.map fun k => (k, target))).ring = news ++ r ∧ BranchedTo g t.born on target news := by
  have hrest : ∀ l ∈ g.lanes.filter (fun l => decide (l ∉ on)), l ∈ g.lanes := fun l hl => List.mem_of_mem_filter hl
  have inLanes : ∀ {l}, l ∈ g.lanes → g.mask.getLsbD l = true := mem_lanes.mp
  rw [branch_single hr]
  split
  · next hnone =>
    refine ⟨[_], rfl, ringApart_single _, ?_, ?_, fun l hl => ⟨_, List.mem_cons_self, ?_, ?_⟩⟩
    · simpa using fun l hl => inLanes ((getLsbD_laneMask_iff fun _ h => h).mp hl)
    · simp
    · exact (getLsbD_laneMask_iff fun _ h => h).mpr hl
    · simp [hnone]
  · split
    · next hall =>
      have hevery : ∀ l ∈ g.lanes, l ∈ on := by simpa using hall
      refine ⟨[_], rfl, ringApart_single _, ?_, ?_, fun l hl => ⟨_, List.mem_cons_self, ?_, ?_⟩⟩
      · simpa using fun l hl => inLanes (hon l ((getLsbD_laneMask_iff hon).mp hl))
      · simp
      · exact (getLsbD_laneMask_iff hon).mpr (hevery l hl)
      · simp [hevery l hl]
    · refine ⟨[_, _], rfl, ⟨?_, ?_⟩, ?_, ?_, fun l hl => ?_⟩
      · refine List.pairwise_pair.mpr (and_eq_zero_iff.mpr fun l hl => ?_)
        have hnot : l ∉ on := by simpa using (List.mem_filter.mp ((getLsbD_laneMask_iff hrest).mp hl)).2
        exact Bool.eq_false_iff.mpr fun h => hnot ((getLsbD_laneMask_iff hon).mp h)
      · simpa using Nat.ne_of_lt hborn
      · simp only [List.mem_cons, List.not_mem_nil, or_false, forall_eq_or_imp, forall_eq]
        exact ⟨fun l hl => inLanes (hrest l ((getLsbD_laneMask_iff hrest).mp hl)), fun l hl => inLanes (hon l ((getLsbD_laneMask_iff hon).mp hl))⟩
      · simp
      · rw [standsAt_cons, standsAt_cons, getLsbD_laneMask_iff hrest, getLsbD_laneMask_iff hon]
        by_cases h : l ∈ on <;> simp [h, hl]

end

/-! ## The jump -/

section
variable {i : Issue} {w : IWord} {s : State} {c : Ctx}

theorem groupsApart_ringApart {t : Team} (h : groupsApart t) : RingApart t.ring := ⟨h.1, h.2.1⟩

/-- A team whose harness region is closed is split by no branch. -/
theorem splits_closed (h : c.t.harness = none) (taken : List (Nat × W64)) : splits (past w c) taken = false := by
  unfold splits
  rw [past_harness, h]
  rfl

/-- The issuing group has moved past the word, and the others stand as they stood. -/
theorem past_ring_eq {r : List TGroup} (h : c.t.ring = c.g :: r) : ∃ left, (past w c).t.ring = { c.g with pc := c.g.pc + 16, left := left } :: r := by
  unfold past advance Team.modHead
  rw [h]
  exact ⟨_, rfl⟩

/-- Settles O16: the branch shares the group's threads out between its target and the next PC, and the groups that then merge or take their turn move none. -/
theorem jumpMovesTheThreadsWhoseGuardIsTrue : Obligations.JumpMovesTheThreadsWhoseGuardIsTrue := by
  unfold Obligations.JumpMovesTheThreadsWhoseGuardIsTrue
  intro i w s c h hapart hclosed
  obtain ⟨_, _, hcore, hslot, hteam⟩ := ready_spec s i w c h.2.1
  obtain ⟨_, _, ⟨r, hring⟩, _, _, hon⟩ := ready_holds h.2.1
  obtain ⟨left, hpast⟩ := past_ring_eq (w := w) hring
  have hbirth : (past w c).t.born = c.t.born := by
    obtain ⟨_, hadvance⟩ := advance_ring w c.t
    rw [past, hadvance]
  have hall : RingApart (c.g :: r) := hring ▸ groupsApart_ringApart hapart
  have hborn : ∀ x ∈ c.g :: r, x.born < c.t.born := fun x hx => hapart.2.2 x (hring ▸ hx)
  obtain ⟨news, hnews, hto⟩ := branch_branchedTo (on := c.on) (target := branchTarget w c) hpast (hbirth ▸ hborn c.g List.mem_cons_self)
    (fun l hl => List.mem_of_mem_filter (hon ▸ hl))
  have hafter : RingApart (news ++ r) := by
    refine ringApart_replace hall hto.apart hto.mask fun x hx y hy => ?_
    rcases hto.born x hx with hx' | hx'
    · rw [hx']; exact fun heq => (List.nodup_cons.mp hall.2).1 (List.mem_map.mpr ⟨y, hy, heq.symm⟩)
    · rw [hx', hbirth]; exact Nat.ne_of_gt (hborn y (List.mem_cons_of_mem _ hy))
  obtain ⟨hsettled, hstands⟩ := settleTeam_standsAlike (t := (past w c).t.branch (c.on.map fun l => (l, branchTarget w c))) (hnews ▸ hafter)
  rw [hnews] at hstands
  refine ⟨_, _, answer_issue_put h (branchOr_whole (splits_closed hclosed _)), hcore ▸ hslot ▸ hteam ▸ getTeam_retires h.2.1 _, fun l hl => ?_, fun l hl => ?_⟩
  · refine (pcOf_eq_some hsettled).mpr ((hstands l _).mpr (standsAt_append.mpr (.inl ?_)))
    have hguard : l ∈ c.on ↔ guardTrue w c.t l = true := by rw [hon, List.mem_filter]; exact and_iff_right hl
    have hto := hto.stands l hl
    simp only [hguard] at hto
    exact hto
  · refine pcOf_congr hsettled (groupsApart_ringApart hapart) fun p => (hstands l p).trans ?_
    rw [hring]
    exact standsAt_replace (g := c.g) hto.mask hl p

end

end Sys2Proof.Machine
end

section
/-! PROOFS. The MEM and CPY families (R93, R114 to R121): what an instruction puts in flight, and the faults of its lanes and of a copy. -/

namespace Sys2Proof.Machine

variable {i : Issue} {w : IWord} {s : State} {c : Ctx}

/-! ## Accesses (R93, R114 to R117, R121) -/

theorem put_accs (t : Team) : (c.put t).accs = c.s.accs ∧ (c.put t).copies = c.s.copies ∧ (c.put t).nextAcc = c.s.nextAcc := by
  obtain ⟨_, h⟩ := modTeam_cases c.core c.slot c.team (fun _ => t) c.s
  rw [Ctx.put, h]
  exact ⟨rfl, rfl, rfl⟩

/-- The state in which an access has been put in flight. -/
def inFlight (kind : MemKind) (w : IWord) (c : Ctx) : State :=
  { c.put c.t with accs := c.s.accs ++ [newAccess kind w c], nextAcc := c.s.nextAcc + 1 }

theorem startAccess_eq (kind : MemKind) (w : IWord) (c : Ctx) : startAccess kind w c =
    if ownLocal (newAccess kind w c) c then accRsp true c.s.nextAcc (localReq c.s.nextAcc (inFlight kind w c)) else inFlight kind w c := by
  obtain ⟨haccs, _, hnext⟩ := put_accs (c := c) c.t
  have hs : ({ c.put c.t with accs := (c.put c.t).accs ++ [newAccess kind w c], nextAcc := (c.put c.t).nextAcc + 1 } : State) = inFlight kind w c := by
    rw [haccs, hnext]
    rfl
  rw [← hs]
  rfl

/-- What a MEM instruction does where no lane breaks a rule. -/
theorem memAccess_legal {kind : MemKind} (h : Issues i w (fun _ => memForm kind w) s c) (hok : ∀ l ∈ c.on, laneFault w (past w c) l = none) :
    memAccess kind i w s = retired c (if c.on = [] then c.put (past w c).t else startAccess kind w (past w c)) := by
  have hnone : (past w c).on.findSome? (laneFault w (past w c)) = none := List.findSome?_eq_none_iff.mpr hok
  rw [memAccess, issue, issueWith_issues i w _ false _ s c h, hnone]
  simp only [List.isEmpty_iff, past_on]
  rfl

/-- The lowest lane that breaks a rule raises its fault. -/
theorem answer_memAccess_fault {kind : MemKind} {l code : Nat} {before after : List Nat} (h : Issues i w (fun _ => memForm kind w) s c)
    (hon : c.on = before ++ l :: after) (hbefore : ∀ k ∈ before, laneFault w (past w c) k = none) (hl : laneFault w (past w c) l = some code) :
    answer s (memAccess kind i w s) = .next (leaves s (retired c (finish (jobFault c.unit code 0 s)))) := by
  have hfirst : (past w c).on.findSome? (laneFault w (past w c)) = some code := by
    rw [past_on, hon, List.findSome?_append, List.findSome?_eq_none_iff.mpr hbefore, List.findSome?_cons, hl]
    rfl
  refine answer_issue_fault h ?_
  rw [hfirst]

theorem laneFault_range {l : Nat} (hs : memSpace w = 0) (hb : localBad c.b false (memAddr w c l) (memBytes w) = true) :
    laneFault w c l = some localRange := by
  simp [laneFault, hs, hb]

theorem laneFault_misaligned {l : Nat} (hb : memSpace w ≠ 0 ∨ localBad c.b false (memAddr w c l) (memBytes w) = false)
    (ha : memAddr w c l % memBytes w ≠ 0) : laneFault w c l = some misaligned := by
  rcases hb with hb | hb <;> simp [laneFault, hb, ha]

/-- The address and data of each lane of an access. -/
theorem newAccess_lanes (kind : MemKind) (w : IWord) (c : Ctx) : (newAccess kind w c).lanes.map (fun l => (l.lane, l.addr, l.data)) =
    c.on.map fun l => (l, memAddr w c l, readData c.t (memBytes w) l w.srcB w.imm) := by
  rw [newAccess, List.map_map]
  rfl

/-- A MEM instruction by its kind. -/
def IsMemory (e : (Issue → IWord → Instr) × MemKind) : Prop := ∀ i w s, exec (e.1 i w) s = answer s (memAccess e.2 i w s)

theorem memory_instructions : ∀ e ∈ ([(.ld, .ld), (.st, .st), (.atom, .atom), (.memRed, .red)] : List ((Issue → IWord → Instr) × MemKind)), IsMemory e := by
  simp only [List.forall_mem_cons]
  exact ⟨fun _ _ _ => rfl, fun _ _ _ => rfl, fun _ _ _ => rfl, fun _ _ _ => rfl, by simp⟩

/-- Where the state that a MEM instruction leaves keeps queue and pins, it is the answer. -/
theorem answer_memAccess {kind : MemKind} {u : State} (h : Issues i w (fun _ => memForm kind w) s c) (hu : memAccess kind i w s = retired c u)
    (hq : u.pending = s.pending) (hp : u.pins = s.pins) : answer s (memAccess kind i w s) = .next (retired c u) := by
  rw [hu]
  exact answer_keeps s _ (atWork_power s (ready_spec s i w c h.2.1).1) ((modTeam_pending ..).trans hq) ((modTeam_pins ..).trans hp)

/-- Settles O19: with no guard true nothing starts, an access of no own local store is put in flight, and the lowest lane that breaks a rule faults. -/
theorem memoryInstructions : Obligations.MemoryInstructions := by
  unfold Obligations.MemoryInstructions
  refine ⟨fun e he i w s c h => ?legal, fun e he i w s c l before after h => ?faulty⟩
  all_goals have hexec := memory_instructions e he i w s
  all_goals obtain ⟨_, rfl, _⟩ := ready_spec s i w c h.2.1
  case legal =>
    refine ⟨fun hon => ?none, fun hon hok hown => ?away, newAccess_lanes ..⟩
    case none =>
      have hu := memAccess_legal h (by simp [hon])
      rw [if_pos hon] at hu
      exact hexec.trans (answer_memAccess h hu (put_pending ..) (put_pins ..))
    case away =>
      have hu := memAccess_legal h hok
      rw [if_neg hon, startAccess_eq, hown] at hu
      exact hexec.trans (answer_memAccess h hu (put_pending ..) (put_pins ..))
  case faulty =>
    intro p raises hon hbefore
    have hraise {code : Nat} (hl : laneFault w p l = some code) : exec (e.1 i w) c.s = raises code :=
      hexec.trans (answer_memAccess_fault h hon hbefore hl)
    exact ⟨fun hs hb => hraise (laneFault_range hs hb), fun _ hb ha => hraise (laneFault_misaligned (.inr hb) ha),
      fun hs ha => hraise (laneFault_misaligned (.inl hs) ha)⟩

/-! ## Copies (R118, R119) -/

theorem startCopy_ok {rows : Bool} (h : copyFault c.b (newCopy rows w c) = none) :
    startCopy rows w c = { c.put c.t with copies := c.s.copies ++ [newCopy rows w c], nextAcc := c.s.nextAcc + 1 } := by
  obtain ⟨_, hcopies, hnext⟩ := put_accs (c := c) c.t
  unfold startCopy
  dsimp only
  rw [h, hcopies, hnext]

theorem startCopy_bad {rows : Bool} {code : Nat} (h : copyFault c.b (newCopy rows w c) = some code) : startCopy rows w c = c.fault code := by
  unfold startCopy
  dsimp only
  rw [h]

/-- A copy that breaks no rule keeps those of R119 on its lengths and alignments. -/
theorem copyFault_none {b : Block} {x : CopyRun} (h : copyFault b x = none) :
    x.rowLen ≠ 0 ∧ x.rows ≠ 0 ∧ x.rowLen % 16 = 0 ∧ x.total ≤ 480 * 1024 ∧ x.saddr % 16 = 0 ∧ x.daddr % 16 = 0 := by
  unfold copyFault at h
  split at h
  · cases h
  · next hlen =>
    split at h
    · cases h
    · split at h
      · cases h
      · next halign =>
        simp only [Bool.or_eq_true, decide_eq_true_eq, bne_iff_ne, not_or, not_not, Nat.not_lt] at hlen halign
        exact ⟨hlen.1.1.1, hlen.1.1.2, hlen.1.2, hlen.2, halign.1, halign.2⟩

/-- A copy instruction by whether it copies rows. -/
def IsCopy (e : (Issue → IWord → Instr) × Bool) : Prop := ∀ i w s, exec (e.1 i w) s = answer s (copyOp e.2 i w s)

theorem copy_instructions : ∀ e ∈ ([(.cp, false), (.cpRows, true)] : List ((Issue → IWord → Instr) × Bool)), IsCopy e := by
  simp only [List.forall_mem_cons]
  exact ⟨fun _ _ _ => rfl, fun _ _ _ => rfl, by simp⟩

/-- Settles O22: a copy starts where it breaks no rule of R119, and else raises the fault of the rule. -/
theorem copyInstructions : Obligations.CopyInstructions := by
  unfold Obligations.CopyInstructions
  intro e he i w s c h
  have hexec := copy_instructions e he i w s
  obtain ⟨_, rfl, _⟩ := ready_spec s i w c h.2.1
  have hguard : c.on ≠ [] → ¬ (past w c).on.isEmpty = true := fun hon => by simpa using hon
  refine ⟨fun hon => ?none, fun hon hok => ?starts, fun code hon hbad => ?faults, copyFault_none⟩
  case none => exact hexec.trans (answer_issue_put h (if_pos (by simp [hon])))
  case starts =>
    exact hexec.trans (answer_issue_keeps h ((if_neg (hguard hon)).trans (startCopy_ok hok)) (put_pending ..) (put_pins ..))
  case faults => exact hexec.trans (answer_issue_fault h ((if_neg (hguard hon)).trans (startCopy_bad hbad)))

end Sys2Proof.Machine
end

section
/-! PROOFS. Accesses to the block's own local store (R92, R94, R151): one behind an access that takes the same way and has not arrived goes on its way too, and
the obligations that leave such an access out. -/

namespace Sys2Proof.Machine

variable {i : Issue} {w : IWord} {s : State} {c : Ctx}

/-! ## An access behind another one -/

/-- The newest access is found by its number. -/
theorem findAcc_inFlight {kind : MemKind} (hids : ∀ b ∈ c.s.accs, b.id < c.s.nextAcc) :
    findAcc (inFlight kind w c) c.s.nextAcc = some (newAccess kind w c) := by
  have hnone : (c.s.accs.find? fun a => a.id == c.s.nextAcc && !a.performed && !a.adding && !a.lost) = none :=
    List.find?_eq_none.mpr fun b hb => by simp [Nat.ne_of_lt (hids b hb)]
  rw [findAcc, inFlight, List.find?_append, hnone]
  simp [newAccess]

theorem localReq_behind {id : Nat} {a : Access} (hf : findAcc s id = some a) (hb : reqBehind s a = true) : localReq id s = s := by
  unfold localReq
  rw [hf]
  exact if_pos (by rw [hb, Bool.or_true])

/-- No reply is due of an access that has not been performed. -/
theorem accRsp_inFlight {kind : MemKind} (space0 : Bool) (hids : ∀ b ∈ c.s.accs, b.id < c.s.nextAcc) :
    accRsp space0 c.s.nextAcc (inFlight kind w c) = inFlight kind w c := by
  have hnone : (inFlight kind w c).accs.find? (fun a => a.id == c.s.nextAcc && a.performed && !a.lost && (a.space == 0) == space0) = none := by
    refine List.find?_eq_none.mpr fun b hb => ?_
    rcases List.mem_append.mp hb with hold | hnew
    · simp [Nat.ne_of_lt (hids b hold)]
    · rw [List.mem_singleton.mp hnew]
      simp [newAccess]
  unfold accRsp
  rw [hnone]

/-- A legal access to the own local store that another one is before on its way is put in flight, and no more. -/
theorem startAccess_behind {kind : MemKind} (hids : ∀ b ∈ c.s.accs, b.id < c.s.nextAcc)
    (hb : reqBehind (inFlight kind w c) (newAccess kind w c) = true) : startAccess kind w c = inFlight kind w c := by
  rw [startAccess_eq, localReq_behind (findAcc_inFlight hids) hb, accRsp_inFlight true hids, ite_self]

/-! ## A state in which an access of another team has not arrived -/

/-- A team of 32 threads at PC 0. -/
def idleTeam : Team :=
  { sched := 0, uregs := [], flags := noFlags, icnt := 0, live := 0xFFFFFFFF, threads := [],
    ring := [{ mask := 0xFFFFFFFF, pc := 0, wait := none, left := 16, born := 0 }], harness := none, born := 1 }

/-- A block of two such teams with 64 KiB of local store, alone in its string. -/
def twoTeams : Block :=
  { pad := 0, tag := 0, src := .launch 0, block := 0, member := 0, string := [(0, 0)], shape := 0x00101F00, bound := 0, seed := 0, plotIdx := 0, loc := [],
    teams := [(0, idleTeam), (1, idleTeam)], nteams := 2, ac := 0, exited := false }

/-- A load of team 1 from the block's local store that waited and has not arrived. -/
def earlierLoad : Access :=
  { id := 0, core := 0, slot := 0, team := 1, pc := 0, kind := .ld, space := 0, bytes := 4,
    lanes := [{ lane := 0, addr := 0, data := 0, cmp := 0, got := 0 }], dst := 0, aop := 0, signed := false, ro := false, last := false, hint := 0, pad := 0,
    tag := 0, epoch := 0, compact := false, performed := false, adding := false, level := none, block := 0, stage := 0xFF, nokeep := false }

/-- The device after reset with that block at slot 0 of core 0 and that load in flight. -/
def crossed : State :=
  { State.reset with cores := [(0, { getCore State.reset 0 with blocks := [(0, twoTeams)] })], accs := [earlierLoad], nextAcc := 1 }

/-- An issue of team 0. -/
def firstTeam : Issue := { core := 0, slot := 0, team := 0, sram := .clean }

/-- A word of 4 bytes of LOCAL at byte 256, with these fields for DST and SRCB. -/
def localWord (dst b : BitVec 9) : IWord :=
  { rsv := 0, yield := false, ext := 8, imm := 256, pen := false, pdst := 0, mod := 0, fmt := 0, srcC := 0, srcB := b, srcA := 2, dst := dst, gneg := false,
    gpred := 7 }

/-- What the statements ask of an access to the own local store, and that another one is before it. -/
def Crossed (kind : MemKind) (w : IWord) (s : State) (c : Ctx) : Prop :=
  let p := past w c
  let a := newAccess kind w p
  let u : State := { c.put p.t with accs := s.accs ++ [a], nextAcc := s.nextAcc + 1 }
  c.on ≠ [] ∧ (∀ l ∈ c.on, laneFault w p l = none) ∧ ownLocal a p = true ∧ blockedBy u c.core c.slot c.team a.id a.compact (accSpans u a) = false ∧
  copiesBefore u c.core c.slot c.team a.id a.compact (accSpans u a) = [] ∧ reqBehind u a = true


/-- An issue of a computed context meets a condition that is computed of it. -/
theorem exists_issues {form : Form} {P : Ctx → Prop} [DecidablePred P] (hs : i.sram = .clean) (h : (ready s i w).any (fun c =>
    legal (shapeRegs c.b.shape) form w && !waitsOperand s c.core c.slot c.team c.g.lanes (formRegs form w) && decide (P c)) = true) :
    ∃ c, Issues i w (fun _ => form) s c ∧ P c := by
  cases hc : ready s i w with
  | none =>
    rw [hc] at h
    cases h
  | some c =>
    rw [hc, Option.any_some] at h
    simp only [Bool.and_eq_true, Bool.not_eq_true', decide_eq_true_eq] at h
    obtain ⟨⟨hlegal, hfree⟩, hP⟩ := h
    exact ⟨c, ⟨hs, hc, hlegal, hfree⟩, hP⟩

theorem crossed_store : ∃ c, Issues firstTeam (localWord 0 4) (fun _ => memForm .st (localWord 0 4)) crossed c ∧ Crossed .st (localWord 0 4) crossed c := by
  unfold Crossed
  exact exists_issues rfl (by decide)

theorem crossed_load : ∃ c, Issues firstTeam (localWord 4 0) (fun _ => memForm .ld (localWord 4 0)) crossed c ∧ Crossed .ld (localWord 4 0) crossed c := by
  unfold Crossed
  exact exists_issues rfl (by decide)

theorem crossed_ids : ∀ b ∈ crossed.accs, b.id < crossed.nextAcc := by decide

/-! ## The obligations -/

theorem retired_accs (c : Ctx) (u : State) : (retired c u).accs = u.accs := by
  obtain ⟨_, h⟩ := modTeam_cases c.core c.slot c.team settleTeam u
  rw [retired, h]

/-- A crossed access stays in flight: the answer holds one access more than the state before it. -/
theorem crossed_stays {kind : MemKind} {k : Issue → IWord → Instr} (hexec : ∀ i w s, exec (k i w) s = answer s (memAccess kind i w s))
    (h : Issues i w (fun _ => memForm kind w) s c) (hids : ∀ b ∈ s.accs, b.id < s.nextAcc) (hx : Crossed kind w s c) :
    ∃ t, exec (k i w) s = .next t ∧ t.accs.length = s.accs.length + 1 := by
  obtain ⟨_, rfl, _⟩ := ready_spec s i w c h.2.1
  obtain ⟨hon, hok, _, _, _, hbehind⟩ := hx
  have hu := memAccess_legal h hok
  rw [if_neg hon, startAccess_behind (c := past w c) hids hbehind] at hu
  refine ⟨_, (hexec i w c.s).trans (answer_memAccess h hu (put_pending ..) (put_pins ..)), ?_⟩
  rw [retired_accs, inFlight, List.length_append]
  rfl

/-- What an access that is performed at issue leaves holds no access more. -/
theorem not_performed {kind : MemKind} {k : Issue → IWord → Instr} (hexec : ∀ i w s, exec (k i w) s = answer s (memAccess kind i w s))
    (h : Issues i w (fun _ => memForm kind w) s c) (hids : ∀ b ∈ s.accs, b.id < s.nextAcc) (hx : Crossed kind w s c) {u : State}
    (hu : u.accs = s.accs) : exec (k i w) s ≠ .next (retired c u) := by
  obtain ⟨t, ht, hlen⟩ := crossed_stays hexec h hids hx
  intro hsaid
  cases ht.symm.trans hsaid
  rw [retired_accs, hu] at hlen
  omega

theorem modLocal_accs (core slot : Nat) (f : Mem → Mem) (s : State) : (modLocal core slot f s).accs = s.accs := by
  obtain ⟨_, h⟩ := modBlock_cases core slot (fun b => { b with loc := f b.loc }) s
  rw [modLocal, h]

/-- Refutes O20: behind a load of another team that waited and has not arrived at the same core, the store is not performed at issue but goes on its way (R151). -/
theorem not_ownLocalStore : ¬ Obligations.OwnLocalStore := by
  unfold Obligations.OwnLocalStore
  intro h
  obtain ⟨c, hi, hx⟩ := crossed_store
  obtain ⟨_, hs, _⟩ := ready_spec _ _ _ _ hi.2.1
  obtain ⟨hon, hok, hown, hfree, hcopies, _⟩ := id hx
  refine not_performed (k := .st) (fun _ _ _ => rfl) hi crossed_ids hx ?_ (h firstTeam (localWord 0 4) crossed c hi hon hok hown crossed_ids hfree hcopies)
  exact (modLocal_accs ..).trans ((put_accs _).1.trans (congrArg State.accs hs))

/-- Refutes O21: so it is with a load behind that load. -/
theorem not_ownLocalLoad : ¬ Obligations.OwnLocalLoad := by
  unfold Obligations.OwnLocalLoad
  intro h
  obtain ⟨c, hi, hx⟩ := crossed_load
  obtain ⟨_, hs, _⟩ := ready_spec _ _ _ _ hi.2.1
  obtain ⟨hon, hok, hown, hfree, hcopies, _⟩ := id hx
  refine not_performed (k := .ld) (fun _ _ _ => rfl) hi crossed_ids hx ?_ (h firstTeam (localWord 4 0) crossed c hi hon hok hown crossed_ids hfree hcopies)
  exact (put_accs _).1.trans (congrArg State.accs hs)

end Sys2Proof.Machine
end

section
/-! PROOFS. Refused words (R98, R99): whichever instruction a word spells, one that breaks a rule of its form raises ILLEGAL_INSTR. -/

namespace Sys2Proof.Machine

variable {i : Issue} {w : IWord} {s : State} {c : Ctx}

/-- What a job fault of an issue answers. -/
theorem answer_fault (h : ready s i w = some c) (code : Nat) : answer s (c.fault code) = .next (leaves s (finish (jobFault c.unit code 0 s))) := by
  obtain ⟨hwork, rfl, _⟩ := ready_spec s i w c h
  exact answer_leaves _ _ (atWork_power _ hwork)

/-- A word that breaks a rule of its form is not performed. -/
theorem issueWith_refused {form : Ctx → Form} (sr : Bool) (body : Ctx → State) (h : ready s i w = some c)
    (hbad : legal (shapeRegs c.b.shape) (form c) w = false) : issueWith i w form sr body s = c.fault illegalInstr := by
  unfold issueWith
  simp only [h, hbad, Bool.not_false, if_true]

/-- An instruction and its form: a word that breaks a rule of the form raises ILLEGAL_INSTR and does nothing else. -/
def RefusesIllegal (e : (Issue → IWord → Instr) × (IWord → Form)) : Prop :=
  ∀ (i : Issue) (w : IWord) (s : State) (c : Ctx), ready s i w = some c → legal (shapeRegs c.b.shape) (e.2 w) w = false →
    exec (e.1 i w) s = .next (leaves s (finish (jobFault c.unit illegalInstr 0 s)))

/-- Every instruction whose meaning is an issue of its form does. -/
theorem RefusesIllegal.ofIssueWith {k : Issue → IWord → Instr} {form : IWord → Form} (sr : IWord → Bool) (body : IWord → Ctx → State)
    (h : ∀ i w s, exec (k i w) s = answer s (issueWith i w (fun _ => form w) (sr w) (body w) s)) : RefusesIllegal (k, form) := by
  intro i w s c hready hbad
  calc exec (k i w) s = answer s (issueWith i w (fun _ => form w) (sr w) (body w) s) := h i w s
    _ = answer s (c.fault illegalInstr) := congrArg (answer s) (issueWith_refused (sr w) (body w) hready hbad)
    _ = _ := answer_fault hready illegalInstr

theorem RefusesIllegal.ofIssue {k : Issue → IWord → Instr} {form : IWord → Form} (body : IWord → Ctx → State)
    (h : ∀ i w s, exec (k i w) s = answer s (issue i w (form w) (body w) s)) : RefusesIllegal (k, form) :=
  RefusesIllegal.ofIssueWith (fun _ => false) body h

theorem RefusesIllegal.ofTeam {k : Issue → IWord → Instr} {form : IWord → Form} (f : IWord → Ctx → Team)
    (h : ∀ i w s, exec (k i w) s = answer s (issueTeam i w (form w) (f w) s)) : RefusesIllegal (k, form) :=
  RefusesIllegal.ofIssue (fun w c => c.put (f w c)) h

theorem illegalWord_refused {x : BitVec 128} (h : ready s i (wordFields x) = some c) (hbad : refusedWord x c = true) :
    illegalWord i x s = c.fault illegalInstr := by
  unfold illegalWord
  rw [h]
  exact if_pos hbad

/-- Settles O32: each instruction is an issue of its form, and a refused word is judged as it is issued. -/
theorem refusedWordsRaiseIllegalInstr : Obligations.RefusedWordsRaiseIllegalInstr := by
  unfold Obligations.RefusedWordsRaiseIllegalInstr
  intro i w s c hready
  refine ⟨fun e he => ?instructions, fun x hx hbad => ?words⟩
  case instructions =>
    suffices hall : ∀ e ∈ _, RefusesIllegal e from hall e he i w s c hready
    simp only [List.forall_mem_cons]
    exact ⟨.ofTeam _ fun _ _ _ => rfl, .ofTeam _ fun _ _ _ => rfl, .ofTeam _ fun _ _ _ => rfl, .ofTeam _ fun _ _ _ => rfl,
      .ofTeam _ fun _ _ _ => rfl, .ofTeam _ fun _ _ _ => rfl, .ofTeam _ fun _ _ _ => rfl, .ofTeam _ fun _ _ _ => rfl,
      .ofTeam _ fun _ _ _ => rfl, .ofTeam _ fun _ _ _ => rfl, .ofTeam _ fun _ _ _ => rfl, .ofIssueWith _ _ fun _ _ _ => rfl,
      .ofTeam _ fun _ _ _ => rfl, .ofIssueWith _ _ fun _ _ _ => rfl, .ofTeam _ fun _ _ _ => rfl, .ofTeam _ fun _ _ _ => rfl,
      .ofIssue _ fun _ _ _ => rfl, .ofIssue _ fun _ _ _ => rfl, .ofIssue _ fun _ _ _ => rfl, .ofIssue _ fun _ _ _ => rfl,
      .ofIssue _ fun _ _ _ => rfl, .ofIssue _ fun _ _ _ => rfl, .ofIssue _ fun _ _ _ => rfl, .ofIssue _ fun _ _ _ => rfl,
      .ofIssue _ fun _ _ _ => rfl, .ofTeam _ fun _ _ _ => rfl, .ofTeam _ fun _ _ _ => rfl, .ofTeam _ fun _ _ _ => rfl,
      .ofTeam _ fun _ _ _ => rfl, .ofIssue _ fun _ _ _ => rfl, .ofIssue _ fun _ _ _ => rfl, .ofTeam _ fun _ _ _ => rfl, by simp⟩
  case words =>
    have hexec : exec (.illegalInstr i x) s = answer s (illegalWord i x s) := rfl
    exact hexec.trans ((congrArg (answer s) (illegalWord_refused hx hbad)).trans (answer_fault hx illegalInstr))

end Sys2Proof.Machine
end

section
/-! PROOFS. The start of a compute restart (R121, R367, R403, R469): what entries and lost work leave of the cores, and that every block of a paddock ends. -/

namespace Sys2Proof.Machine

/-! ## Fault entries keep cores and paddocks (R462 to R464, R486, R544) -/

/-- The cores and the paddocks of t are those of s. -/
structure KeepsWork (s t : State) : Prop where
  cores : t.cores = s.cores
  pads : t.pads = s.pads

section
variable {s t u : State}

theorem KeepsWork.refl (s : State) : KeepsWork s s := ⟨rfl, rfl⟩

/-- A change of neither cores nor paddocks comes before. -/
theorem KeepsWork.after (h : KeepsWork t u) (hc : t.cores = s.cores) (hp : t.pads = s.pads) : KeepsWork s u := ⟨h.cores.trans hc, h.pads.trans hp⟩

theorem KeepsWork.trans (h : KeepsWork s t) (k : KeepsWork t u) : KeepsWork s u := ⟨k.cores.trans h.cores, k.pads.trans h.pads⟩

end

section
variable (s : State)

theorem sendMsix_keepsWork (h : Fin 2) (fn v : Nat) : KeepsWork s (sendMsix h fn v s) := by
  obtain ⟨_, e⟩ := sendMsix_eq h fn v s
  rw [e]
  exact ⟨rfl, rfl⟩

theorem fqWrite_keepsWork (q : Fin 2) (e : FaultEntry) : KeepsWork s (fqWrite q e s) := (sendMsix_keepsWork ..).after rfl rfl

theorem fqMark_keepsWork (q : Fin 2) : KeepsWork s (fqMark q s) := by
  unfold fqMark
  dsimp only
  split
  · exact (fqWrite_keepsWork ..).trans ⟨rfl, rfl⟩
  · exact .refl s

theorem fqDeliver_keepsWork (q : Fin 2) (e : FaultEntry) : KeepsWork s (fqDeliver q e s) := by
  unfold fqDeliver
  dsimp only
  split
  · refine (fqMark_keepsWork s q).trans ?_
    split
    · exact fqWrite_keepsWork ..
    · exact ⟨rfl, rfl⟩
  · exact .refl s

theorem holdEntry_keepsWork (e : FaultEntry) : KeepsWork s (holdEntry e s) := by
  unfold holdEntry
  split <;> exact ⟨rfl, rfl⟩

theorem writeEntry_keepsWork (e : FaultEntry) : KeepsWork s (writeEntry e s) := by
  unfold writeEntry
  dsimp only
  split
  · exact (holdEntry_keepsWork ..).after rfl rfl
  · exact ((fqDeliver_keepsWork ..).trans (fqDeliver_keepsWork ..)).after rfl rfl

theorem raiseErr_keepsWork (e : Err) : KeepsWork s (raiseErr e s) := by
  unfold raiseErr
  split
  · exact (writeEntry_keepsWork ..).trans ⟨rfl, rfl⟩
  · split
    · exact ⟨rfl, rfl⟩
    · exact (writeEntry_keepsWork ..).trans ⟨rfl, rfl⟩

theorem closeRecord_keepsWork (u : Byte) (i : Nat) : KeepsWork s (closeRecord u i s) := by
  unfold closeRecord
  split
  · exact .refl s
  · split
    · dsimp only
      split
      · exact (writeEntry_keepsWork ..).after rfl rfl
      · exact ⟨rfl, rfl⟩
    · exact .refl s

theorem report_keepsWork (e : Err) : KeepsWork s (report e s) := by
  unfold report handled handledN
  split
  · exact raiseErr_keepsWork s e
  · exact (raiseErr_keepsWork s e).trans ((closeRecord_keepsWork ..).after rfl rfl)

theorem restartDone_keepsWork : KeepsWork s (restartDone s) := by
  unfold restartDone
  split
  · exact .refl s
  · split
    · exact ⟨rfl, rfl⟩
    · exact (report_keepsWork ..).after rfl rfl

end

/-! ## Lost commands and work keep the cores (R171, R367, R403, R478) -/

section
variable (s : State)

/-- What every step of a fold keeps of the cores, the fold keeps. -/
theorem foldl_cores {α : Type} (f : State → α → State) (h : ∀ s x, (f s x).cores = s.cores) (l : List α) : (l.foldl f s).cores = s.cores :=
  List.foldlRecOn (motive := fun t : State => t.cores = s.cores) l f rfl fun t ht x _ => (h t x).trans ht

theorem writeStatus_cores (seq code : Nat) (res : List Byte) : (writeStatus seq code res s).cores = s.cores := by
  unfold writeStatus
  split
  · rfl
  · next c _ =>
    obtain ⟨_, _, _, e⟩ := ringStatus_eq c.hdr.ring.val c.hdr.tag c.body.opcode code res c.hdr.irq true (dropCmd seq s)
    rw [e]
    rfl

theorem statusOpt_cores (cmd : Option Nat) (code : Nat) (res : List Byte) : (statusOpt cmd code res s).cores = s.cores := by
  cases cmd with
  | none => rfl
  | some seq => exact writeStatus_cores ..

theorem loseCmds_cores (p : Cmd → Bool) : (loseCmds p s).cores = s.cores := foldl_cores _ _ (fun _ _ => writeStatus_cores ..) _

theorem modPad_cores (p : Nat) (f : Pad → Pad) : (modPad p f s).cores = s.cores := by
  unfold modPad
  split <;> rfl

theorem countLost_cores (p n : Nat) : (countLost p n s).cores = s.cores := modPad_cores ..

theorem loseUnbegun_cores (p : Cmd → Bool) : (loseUnbegun p s).cores = s.cores := foldl_cores _ _ (fun _ _ => countLost_cores ..) _

theorem loseLaunches_cores (p : Nat) : (loseLaunches p s).cores = s.cores := by
  unfold loseLaunches
  split
  · rfl
  · exact (countLost_cores ..).trans ((modPad_cores ..).trans (foldl_cores _ _ (fun _ _ => statusOpt_cores ..) _))

theorem unloadPipe_cores (p : Nat) (carry : Bool) : (unloadPipe p carry s).cores = s.cores := by
  unfold unloadPipe
  split
  · rfl
  · split
    · rfl
    · next pl _ =>
      have hmoves (u : State) : (pl.moves.foldl (fun t m => statusOpt m.cmd lostCode [] t) u).cores = u.cores :=
        foldl_cores _ _ (fun _ _ => statusOpt_cores ..) _
      have hunloaded := (hmoves _).trans (modPad_cores (localsGone p (fun _ => true) s) p fun d => { d with pipe := none })
      dsimp only
      split
      · exact hunloaded
      · split
        · split
          · exact (modPad_cores ..).trans hunloaded
          · exact (countLost_cores ..).trans hunloaded
        · split
          · exact hunloaded
          · exact (statusOpt_cores ..).trans hunloaded

theorem foldl_dropRun_cores {α : Type} (r : α → GranRun) (l : List α) : (l.foldl (fun t e => dropRun (r e) t) s).cores = s.cores :=
  foldl_cores s (fun t e => dropRun (r e) t) (fun _ _ => rfl) l

theorem freeServing_cores (p : Nat) (seqs : List Seq) : (freeServing p seqs s).cores = s.cores := by
  unfold freeServing
  split
  · rfl
  · dsimp only
    refine (modPad_cores ..).trans ((foldl_dropRun_cores ..).trans ((foldl_dropRun_cores ..).trans ?_))
    split <;> rfl

theorem dropServing_cores (p : Nat) (carry : Bool) : (dropServing p carry s).cores = s.cores := by
  unfold dropServing
  split
  · rfl
  · dsimp only
    split
    · exact modPad_cores ..
    · exact (countLost_cores ..).trans ((modPad_cores ..).trans (freeServing_cores ..))

theorem clearMixer_cores (p : Nat) : (clearMixer p s).cores = s.cores := by
  unfold clearMixer
  split
  · rfl
  · split
    · rfl
    · dsimp only
      refine (foldl_dropRun_cores ..).trans ((foldl_dropRun_cores ..).trans ?_)
      split <;> rfl

theorem loseCarry_cores (p : Nat) : (loseCarry p s).cores = s.cores := by
  unfold loseCarry
  split
  · rfl
  · split
    · rfl
    · exact (clearMixer_cores ..).trans ((countLost_cores ..).trans (modPad_cores ..))

theorem cutMark_cores : (cutMark s).cores = s.cores := by
  unfold cutMark
  split
  · rfl
  · exact statusOpt_cores ..

end

/-! ## Every block ends (R121, R469) -/

theorem mem_dropBlocks {p : Block → Bool} {c : Core} {b : Nat × Block} : b ∈ (dropBlocks p c).blocks ↔ b ∈ c.blocks ∧ p b.2 = false := by
  unfold dropBlocks
  dsimp only
  split
  · next hnone =>
    have hno : c.blocks.filter (fun b => p b.2) = [] := List.map_eq_nil_iff.mp (List.isEmpty_iff.mp hnone)
    exact ⟨fun h => ⟨h, by simpa using List.filter_eq_nil_iff.mp hno b h⟩, fun h => h.1⟩
  · simp only [List.mem_filter, Bool.not_eq_true']

/-- What the blocks that a paddock's stop leaves were, and whose they are not. -/
theorem stopCompute_blocks {p : Nat} {s : State} {k : Nat × Core} (hk : k ∈ (stopCompute p s).cores) {b : Nat × Block} (hb : b ∈ k.2.blocks) :
    b.2.pad ≠ p ∧ ∃ k' ∈ s.cores, b ∈ k'.2.blocks := by
  have hcores : (stopCompute p s).cores = s.cores.map fun c => (c.1, dropBlocks (fun b => b.pad == p) c.2) := rfl
  obtain ⟨k', hk', rfl⟩ := List.mem_map.mp (hcores ▸ hk)
  obtain ⟨hold, hpad⟩ := mem_dropBlocks.mp hb
  exact ⟨by simpa using hpad, k', hk', hold⟩

/-- Stops of some paddocks leave no block of any of them. -/
theorem foldl_stopCompute_blocks (ps : List Nat) {s : State} {k : Nat × Core} (hk : k ∈ (ps.foldl (fun t p => stopCompute p t) s).cores)
    {b : Nat × Block} (hb : b ∈ k.2.blocks) : b.2.pad ∉ ps ∧ ∃ k' ∈ s.cores, b ∈ k'.2.blocks := by
  induction ps generalizing s with
  | nil => exact ⟨List.not_mem_nil, k, hk, hb⟩
  | cons p ps ih =>
    obtain ⟨hps, k', hk', hb'⟩ := ih hk
    obtain ⟨hp, hold⟩ := stopCompute_blocks hk' hb'
    exact ⟨by simp [hp, hps], hold⟩

theorem beginRestart_cores (s : State) : (beginRestart s).cores = ((s.pads.map Prod.fst).foldl (fun t p => stopCompute p t) s).cores := by
  unfold beginRestart
  refine (cutMark_cores _).trans ((foldl_cores _ _ (fun t p => ?_) _).trans ((loseCmds_cores ..).trans (loseUnbegun_cores ..)))
  split
  · split
    · rfl
    · exact loseCarry_cores ..
  · exact (dropServing_cores ..).trans ((unloadPipe_cores ..).trans (loseLaunches_cores ..))

/-- The first job fault of a restart leaves no block of a paddock. -/
theorem firstFault_blocks {u : JobUnit} {code : Nat} {imm : W32} {s : State} {p : Nat} (hp : p ∈ s.pads.map Prod.fst) {k : Nat × Core}
    (hk : k ∈ (firstFault u code imm s).cores) {b : Nat × Block} (hb : b ∈ k.2.blocks) : b.2.pad ≠ p := by
  have hpads := ((restartDone_keepsWork s).trans (raiseErr_keepsWork _ (jobErr u code imm ((restartDone s).snaps.restarts + 1)))).pads
  unfold firstFault at hk
  rw [beginRestart_cores] at hk
  rintro rfl
  exact (foldl_stopCompute_blocks _ hk hb).1 (by rw [bump_pads]; exact hpads ▸ hp)

/-- Without a restart that runs, a job fault is the first of one. -/
theorem jobFault_first {u : JobUnit} {code : Nat} {imm : W32} {s : State} (h : restarting s = false) : jobFault u code imm s = firstFault u code imm s := by
  unfold restarting at h
  unfold jobFault
  split
  · rfl
  · next r hr =>
    rw [hr] at h
    exact if_pos (by simpa using h)

/-- Settles O33: the fault's entries keep the paddocks, their stops end every block, and what then is lost keeps the cores. -/
theorem jobFaultEndsEveryBlock : Obligations.JobFaultEndsEveryBlock := by
  unfold Obligations.JobFaultEndsEveryBlock
  intro u code imm s h p hp k hk b hb
  rw [jobFault_first h] at hk
  exact firstFault_blocks hp hk hb

end Sys2Proof.Machine
end

section
/-! PROOFS. Events of a team (R84, R109, R110, R126, R138 to R140). -/

namespace Sys2Proof.Machine

/-- A change of a team that is there depends on nothing but what it makes of that team. -/
theorem modTeam_congr {s : State} {core slot team : Nat} {t : Team} {f g : Team → Team} (h : getTeam s core slot team = some t) (hfg : f t = g t) :
    modTeam core slot team f s = modTeam core slot team g s := by
  obtain ⟨b, hb, ht⟩ := getTeam_eq_some.mp h
  rw [modTeam_eq f hb ht, modTeam_eq g hb ht, hfg]

/-- Groups changed where a condition holds, the condition written as a Bool or as a proposition. -/
theorem mapWhere_eq_map {α : Type} {p : α → Bool} {q : α → Prop} [DecidablePred q] (f : α → α) (h : ∀ x, p x = true ↔ q x) (l : List α) :
    mapWhere p f l = l.map fun x => if q x then f x else x := by
  simp only [mapWhere, h]

theorem dozing_iff (lane : Nat) (g : TGroup) : dozing lane g = true ↔ g.wait = some .doze ∧ g.mask.getLsbD lane = true := by
  rw [dozing, Bool.and_eq_true, beq_iff_eq]

theorem atBarrier_iff (n : Fin 16) (g : TGroup) : atBarrier n g = true ↔ g.wait = some (.barrier n) := by
  unfold atBarrier
  split
  · next m hm => rw [hm, beq_iff_eq, Option.some.injEq, GWait.barrier.injEq]
  · next hm => exact ⟨nofun, fun hg => absurd hg (hm n)⟩

/-- The scheduler passes from a group that is not held to the next, where that is ready. -/
theorem turnNext_ready {h : TGroup} (g : TGroup) (r : List TGroup) (hh : h.wait = none) : turnNext (g :: h :: r) = { h with left := 16 } :: (r ++ [g]) := by
  simp [turnNext, turnReady, TGroup.held, hh]

/-- Every team of a block has arrived at a barrier. -/
theorem teamArrived_iff (n : Fin 16) (t : Team) : teamArrived n t = true ↔ t.live = 0 ∨ ∀ g ∈ t.ring, g.wait = some (.barrier n) := by
  simp only [teamArrived, Bool.or_eq_true, beq_iff_eq, List.all_eq_true, atBarrier_iff]

theorem quantumOver_turns {i : Issue} {s : State} {t : Team} {g h : TGroup} {r : List TGroup} (hs : atWork s = true)
    (ht : getTeam s i.core.val i.slot.val i.team.val = some t) (hr : t.ring = g :: h :: r) (hg : g.wait = none) (hl : g.left = 0) (hh : h.wait = none) :
    quantumOver i s = modTeam i.core.val i.slot.val i.team.val (fun _ => { t with ring := { h with left := 16 } :: (r ++ [g]) }) s := by
  have hready : turnReady t.ring = g :: h :: r := by simp [hr, turnReady, TGroup.held, hg]
  rw [quantumOver, if_pos hs]
  refine modTeam_congr ht ?_
  simp only [hready, hl, TGroup.held, hg, turnNext_ready g r hh]
  rfl

theorem barrierOver_opens {core slot : Nat} {n : Fin 16} {s : State} {b : Block} (hs : atWork s = true) (hb : getBlock s core slot = some b)
    (hall : ∀ e ∈ b.teams, e.2.live = 0 ∨ ∀ g ∈ e.2.ring, g.wait = some (.barrier n))
    (hmma : ∀ e ∈ (getCore s core).mmaQ, e.slot = slot → e.own = true → e.store = false) :
    barrierOver core slot n s = setBlock core slot { b with teams := b.teams.map fun t => (t.1, t.2.releaseAll (atBarrier n)) } s := by
  have harrived : b.teams.all (fun t => teamArrived n t.2) = true := List.all_eq_true.mpr fun e he => (teamArrived_iff ..).mpr (hall e he)
  have hidle : ((getCore s core).mmaQ.any fun e => e.own && e.store && e.slot == slot) = false := by
    refine List.any_eq_false.mpr fun e he => ?_
    simp only [Bool.and_eq_true, beq_iff_eq]
    rintro ⟨⟨hown, hstore⟩, hslot⟩
    exact Bool.false_ne_true ((hmma e he hslot hown).symm.trans hstore)
  unfold barrierOver
  rw [hb]
  exact if_pos (by rw [harrived, hidle, hs]; rfl)

/-- What an event answers where work goes on. -/
theorem answer_atWork {s t u : State} (hs : atWork s = true) (h : t = u) : answer s t = .next (leaves s u) := h ▸ answer_leaves s t (atWork_power s hs)

/-- Settles O34: each event finds what its premises say of the ring, the barrier or the queue, and does what the model's event does there. -/
theorem teamEvents : Obligations.TeamEvents := by
  unfold Obligations.TeamEvents
  refine ⟨?quantum, ?doze, ?barrier, ?grant, ?mma⟩
  case quantum => exact fun i s t g h r hs ht hr hg hl hh => answer_atWork hs (quantumOver_turns hs ht hr hg hl hh)
  case doze =>
    refine fun i lane s t hs ht => answer_atWork hs ?_
    rw [dozeOver, if_pos hs]
    exact modTeam_congr ht (by rw [Team.releaseAll, mapWhere_eq_map _ (dozing_iff lane.val)])
  case barrier =>
    refine fun core slot n s b hs hb hall hmma => answer_atWork hs ((barrierOver_opens hs hb hall hmma).trans ?_)
    simp only [Team.releaseAll, mapWhere_eq_map _ (atBarrier_iff n)]
  case grant =>
    refine fun core s slot team n r hs hq hn => answer_atWork hs ((if_pos hs).trans ?_)
    rw [harnessGrant, hq]
    exact if_pos hn
  case mma =>
    refine fun core s e r hs hq => ⟨fun ho => answer_atWork hs ((if_pos hs).trans ?_), fun ho => answer_atWork hs ((if_pos hs).trans ?_)⟩
    · simp only [mmaDone, hq, ho, if_true]
    · simp only [mmaDone, hq, ho]
      rfl

end Sys2Proof.Machine
end

section
/-! PROOFS. Replies of accesses and bytes of copies (R114, R118, R119, R225). -/

namespace Sys2Proof.Machine

theorem accRsp_returns {space0 : Bool} {id : Nat} {s : State} {a : Access}
    (hf : (s.accs.find? fun x => x.id == id && x.performed && !x.lost && (x.space == 0) == space0) = some a) (hb : rspBehind s a = false) :
    accRsp space0 id s = returnAcc a s := by
  unfold accRsp
  rw [hf]
  exact if_neg (by rw [hb]; exact Bool.false_ne_true)

/-! ## Copies -/

theorem putCopy_find {id : Nat} {s : State} {c d : CopyRun} (hf : (s.copies.find? fun x => x.id == id) = some c) (hd : d.id = c.id) :
    ((putCopy d s).copies.find? fun x => x.id == id) = some d := by
  have hc : c.id = id := by simpa using List.find?_some hf
  have hid : ((fun x : CopyRun => x.id == id) ∘ fun b => if b.id == d.id then d else b) = fun x => x.id == id := by
    funext x
    by_cases hx : x.id = id <;> simp [hx, hd, hc]
  rw [putCopy, List.find?_map, hid, hf]
  simp [hd]

section
variable {s : State} {id n : Nat} {c : CopyRun} (hf : (s.copies.find? fun x => x.id == id) = some c)
include hf

/-- A copy whose source has been read so far reads nothing more. -/
theorem readCopy_read {upto : Nat} (fuel : Nat) (h : upto ≤ c.read) : readCopy fuel id upto s = (s, false) := by
  cases fuel with
  | zero => rfl
  | succ k => rw [readCopy, hf]; exact if_pos h

/-- A copy whose bytes have landed so far lands nothing more. -/
theorem landCopy_landed {upto : Nat} (fuel : Nat) (h : upto ≤ c.done) : landCopy fuel id upto s = s := by
  cases fuel with
  | zero => rfl
  | succ k => rw [landCopy, hf]; exact if_pos h

end

/-- What lands of a copy to LOCAL in one piece. -/
def landedLocal (b : Block) (c : CopyRun) (n : Nat) (s : State) : State :=
  let p := localPlace b c.core c.slot (c.dstAt c.done)
  putCopy { c with done := c.done + n } (modLocal p.1 p.2.1 (fun m => mwrites m p.2.2 (mreads c.buf c.done n)) s)

theorem modLocal_copies (core slot : Nat) (f : Mem → Mem) (s : State) : (modLocal core slot f s).copies = s.copies := by
  obtain ⟨_, h⟩ := modBlock_cases core slot (fun b => { b with loc := f b.loc }) s
  rw [modLocal, h]

/-- A write to LOCAL is held by nothing and meets no refusal. -/
theorem engineWrite_local {s : State} {b : Block} {core slot : Nat} (g : Eng) (hb : getBlock s core slot = some b) (addr : Nat) (bs : List Byte)
    (psn : List Nat) : engineWrite g 0 core slot addr bs psn s =
      (modLocal (localPlace b core slot addr).1 (localPlace b core slot addr).2.1 (fun m => mwrites m (localPlace b core slot addr).2.2 bs) s, false, false) := by
  unfold engineWrite
  rw [if_pos rfl, hb]

section
variable {s : State} {id n : Nat} {c : CopyRun} {b : Block} (hf : (s.copies.find? fun x => x.id == id) = some c) (hd : c.dspace = 0)
  (hb : getBlock s c.core c.slot = some b) (hn : 0 < n) (hn' : n ≤ 1024) (hg : n ≤ grantBytes s c.pad [1, 2]) (hrow : c.done % c.rowLen + n ≤ c.rowLen)
include hf

theorem landedLocal_find : ((landedLocal b c n s).copies.find? fun x => x.id == id) = some { c with done := c.done + n } :=
  putCopy_find (c := c) (by rw [modLocal_copies]; exact hf) rfl

include hd hb hn hn' hg hrow

/-- Bytes to LOCAL within a row, a piece and the tokens at hand land in one piece. -/
theorem landCopy_local (fuel : Nat) : landCopy (fuel + 1) id (c.done + n) s = landedLocal b c n s := by
  have hpiece : min (min (c.done + n - c.done) (c.rowLen - c.done % c.rowLen)) (min 1024 (grantBytes s c.pad [1, 2])) = n := by omega
  have hgoes : ¬ c.done + n ≤ c.done := by omega
  have hstays : landCopy fuel id (c.done + n) (landedLocal b c n s) = landedLocal b c n s := landCopy_landed (landedLocal_find hf) fuel le_rfl
  have hspace : c.dspace.val = 0 := congrArg Fin.val hd
  rw [landCopy, hf]
  dsimp only
  rw [if_neg hgoes, hpiece]
  simpa [hspace, engineWrite_local c.eng hb, countRefusal, landedLocal] using hstays

theorem copyPart_local {found : EccResult} (hread : c.read = c.total) (hbefore : copiesBefore s c.core c.slot c.team c.id c.compact (copySpans s c) = [])
    (hmore : c.done + n < c.total) : copyPart id n found s = addOpt c.pad c.handle n (landedLocal b c n s) := by
  have hupto : min (c.done + n) c.total = c.done + n := by omega
  have hdone : ¬ c.read < c.total := by omega
  have hmoved : c.done + n ≠ c.done := by omega
  have hread' := readCopy_read hf (c.rows + n / 1024 + 2) (upto := c.done + n) (by omega)
  have hland := landCopy_local hf hd hb hn hn' hg hrow (c.rows + n / 1024 + 1)
  unfold copyPart
  rw [hf]
  simp only [hdone, decide_false, Bool.false_and, Bool.false_eq_true, if_false, hbefore, readCopies, List.foldl_nil, hupto, hread', hland,
    landedLocal_find hf, hmoved, Nat.add_sub_cancel_left]
  exact if_neg hmore.ne

end

/-- Settles O36: a reply finds its access performed and nothing before it; bytes of a copy land in one piece. -/
theorem repliesAndCopiesLand : Obligations.RepliesAndCopiesLand := by
  unfold Obligations.RepliesAndCopiesLand
  refine ⟨fun s id a hs hid hp hb => ?reply, fun s id n ecc c b hs hf hread hbefore hd hb hn hn' hg hrow hmore => ?copy⟩
  case reply =>
    subst hid
    exact ⟨fun hf => answer_atWork hs ((if_pos hs).trans (accRsp_returns hf hb)), fun hf => answer_atWork hs ((if_pos hs).trans (accRsp_returns hf hb))⟩
  case copy =>
    have hlands : copyLands id n ecc s = copyPart id n ecc s := by
      unfold copyLands
      rw [hf]
      exact if_neg (by simp [hread])
    refine answer_atWork hs ((if_pos hs).trans ?_)
    rw [hlands, copyPart_local hf hd hb hn hn' hg hrow hread hbefore hmore]
    rfl

end Sys2Proof.Machine
end

section
/-! PROOFS. Accesses in flight as they are performed (R92, R94, R114, R156, R162, R241). -/

namespace Sys2Proof.Machine

variable {s : State} {id : Nat} {a : Access} {l : LaneAcc}

theorem findAcc_some (hf : findAcc s id = some a) : a ∈ s.accs ∧ a.id = id ∧ a.performed = false ∧ a.adding = false ∧ a.lost = false := by
  have h := List.find?_some hf
  simp only [Bool.and_eq_true, beq_iff_eq, Bool.not_eq_true'] at h
  obtain ⟨⟨⟨hid, hp⟩, ha⟩, hl⟩ := h
  exact ⟨List.mem_of_find?_eq_some hf, hid, hp, ha, hl⟩

section
variable (hblocked : blockedBy s a.core a.slot a.team a.id a.compact (accSpans s a) = false)
  (hbefore : copiesBefore s a.core a.slot a.team a.id a.compact (accSpans s a) = [])
include hblocked hbefore

/-- Nothing of its team holds the access back. -/
theorem unsent_free : unsent s a = false := by
  rw [unsent, hblocked, hbefore]
  rfl

variable (hf : findAcc s id = some a)
include hf

/-- A LOCAL access that nothing holds back is performed at its local stores. -/
theorem localArrives_performs (hspace : a.space = 0) (hbehind : reqBehind s a = false) :
    localArrives id .clean s = afterPerform a (localLanes a s).2 (localLanes a s).1 := by
  have hreq : localReq id s = afterPerform a (localLanes a s).2 (localLanes a s).1 := by
    unfold localReq
    rw [hf]
    simp [hspace, hblocked, hbefore, hbehind, readCopies]
  unfold localArrives
  rw [hf]
  simpa [hspace, unsent_free hblocked hbefore, hbehind, coreEcc] using hreq

/-- An access to commons that leaves its core, that nothing outranks and nothing holds at its slice, and that meets no poison is performed. -/
theorem loftReq_performs {u v : State} {c : Access} {found : EccResult} (hspace : a.space = 1) (hleave : leaveCore a s = (u, some c))
    (hrank : (c.level.any fun l => outranked u l (accArbiters u c)) = false) (hhold : lanesHold c u = (v, false)) (hecc : accEcc c found v = v)
    (hclean : lanesPoison v c = .clean) : loftReq id found s = performAcc c v := by
  unfold loftReq
  rw [hf]
  simp [hspace, hblocked, hbefore, readCopies, hleave, hrank, hhold, hecc, hclean]

/-- A dropped request leaves its access lost. -/
theorem lostPkt_loses (hspace : a.space = 1) (hlost : a.lost = false) (r : Nat) : lostPkt true id r s =
    bump (1024 + coreDie r) 1 { s with accs := s.accs.map fun b => if b.id = id then { b with lost := true } else b } := by
  obtain ⟨hmem, hid, hperf, hadd, _⟩ := findAcc_some hf
  have hmine : (s.accs.any fun a => a.id == id && !a.lost && !a.adding && a.performed != true && (!true || !unsent s a) &&
      (a.space != 0 || (localCores s a).any (· != a.core))) = true :=
    List.any_eq_true.mpr ⟨a, hmem, by simp [hid, hlost, hadd, hperf, unsent_free hblocked hbefore, hspace]⟩
  rw [lostPkt, if_pos hmine, mapWhere_eq_map (fun a : Access => { a with lost := true }) fun b => beq_iff_eq (a := b.id)]

end

/-! ## One lane -/

theorem teamFlags_none (a : Access) (s : State) : teamFlags a noFlags s = s := if_pos rfl

section
variable {b : Block} {got v : Nat} {f : Flags} (hl : a.lanes = [l]) (hb : getBlock s a.core a.slot = some b)
include hl hb

/-- The access of one lane reads at the local store of its address. -/
theorem localLanes_reads (h : laneOp a l (leNat (readLocal s (localPlace b a.core a.slot l.addr).1 (localPlace b a.core a.slot l.addr).2.1
    (localPlace b a.core a.slot l.addr).2.2 a.bytes)) = (none, got, f)) : localLanes a s = (teamFlags a f s, [{ l with got := got }]) := by
  simp only [localLanes, hl, List.foldl_cons, List.foldl_nil, hb, List.nil_append, h]

/-- The access of one lane writes at the local store of its address. -/
theorem localLanes_writes (h : laneOp a l (leNat (readLocal s (localPlace b a.core a.slot l.addr).1 (localPlace b a.core a.slot l.addr).2.1
    (localPlace b a.core a.slot l.addr).2.2 a.bytes)) = (some v, got, f)) :
    localLanes a s = (teamFlags a f (modLocal (localPlace b a.core a.slot l.addr).1 (localPlace b a.core a.slot l.addr).2.1
      (fun m => mwrites m (localPlace b a.core a.slot l.addr).2.2 (leBytes a.bytes v)) s), [{ l with got := got }]) := by
  simp only [localLanes, hl, List.foldl_cons, List.foldl_nil, hb, List.nil_append, h]

end

/-- What one lane does at a memory, by the kind of its access. -/
theorem laneOp_ld (hkind : a.kind = .ld) (old : Nat) : laneOp a l old = (none, old, noFlags) := by rw [laneOp, hkind]

theorem laneOp_st (hkind : a.kind = .st) (old : Nat) : laneOp a l old = (some l.data, 0, noFlags) := by rw [laneOp, hkind]

theorem laneOp_red (hkind : a.kind = .red) (old : Nat) : laneOp a l old =
    (some (atomicOp a.aop.toNat a.signed a.bytes old l.data l.cmp).1, 0, (atomicOp a.aop.toNat a.signed a.bytes old l.data l.cmp).2) := by rw [laneOp, hkind]

theorem laneOp_atom (hkind : a.kind = .atom) (old : Nat) : laneOp a l old =
    (some (atomicOp a.aop.toNat a.signed a.bytes old l.data l.cmp).1, old, (atomicOp a.aop.toNat a.signed a.bytes old l.data l.cmp).2) := by
  rw [laneOp, hkind]

/-- After a load or an atomic its reply is to come; after a store or a reduction the access is over. -/
theorem afterPerform_replies (hkind : a.kind = .ld ∨ a.kind = .atom) (lanes : List LaneAcc) :
    afterPerform a lanes s = performed { a with lanes := lanes } s := by
  rcases hkind with h | h <;> rw [afterPerform, h]

theorem afterPerform_ends (hkind : a.kind = .st ∨ a.kind = .red) (lanes : List LaneAcc) : afterPerform a lanes s = dropAccess a.id s := by
  rcases hkind with h | h <;> rw [afterPerform, h]

theorem commonsLane_st (hkind : a.kind = .st) : commonsLane a l s = (commonsWrite a.pad l.addr (leBytes a.bytes l.data) s, { l with got := 0 }) := by
  simp only [commonsLane, hkind, laneOp_st hkind, teamFlags_none, Option.getD_some]

theorem commonsLane_ld (hkind : a.kind = .ld) (hro : a.ro = false) :
    commonsLane a l s = ((commonsRead a.pad (some (Fin.ofNat 1024 a.core)) l.addr a.bytes s).1,
      { l with got := leNat (commonsRead a.pad (some (Fin.ofNat 1024 a.core)) l.addr a.bytes s).2.1 }) := by
  simp only [commonsLane, hkind, Access.eng, hro]
  rfl

theorem accEcc_clean (hspace : a.space = 1) : accEcc a .clean s = s := by
  unfold accEcc
  split
  · rfl
  · rw [if_pos hspace]
    split
    · rfl
    · unfold commonsEcc
      split <;> rfl

theorem accEcc_store (hspace : a.space = 1) (hkind : a.kind = .st) (found : EccResult) : accEcc a found s = s := by
  unfold accEcc
  split
  · rfl
  · rw [if_pos hspace, hkind]

theorem lanesPoison_store (hkind : a.kind = .st) : lanesPoison s a = .clean := by
  rw [lanesPoison, hkind]

/-- An access of one lane to commons meets no poison that its bytes have not. -/
theorem lanesPoison_clean (hspace : a.space = 1) (hl : a.lanes = [l]) (hp : commonsPoison s a.pad l.addr a.bytes = false) : lanesPoison s a = .clean := by
  have hnone : ((lanesOut s a).any fun l => commonsPoison s a.pad l.addr a.bytes) = false := by
    refine List.any_eq_false.mpr fun m hm => ?_
    have hml : m ∈ a.lanes := List.mem_of_mem_filter hm
    rw [hl, List.mem_singleton] at hml
    rw [hml, hp]
    exact Bool.false_ne_true
  unfold lanesPoison
  split
  · rfl
  · rw [if_pos hspace, hnone]
    rfl

theorem performAcc_one (hspace : a.space = 1) (hl : a.lanes = [l]) : performAcc a s = afterPerform a [(commonsLane a l s).2] (commonsLane a l s).1 := by
  rw [performAcc, if_pos hspace]
  simp only [hl, List.foldl_cons, List.foldl_nil, List.nil_append]

/-- A store of one lane to commons is over once it has been performed. -/
theorem performAcc_st (hspace : a.space = 1) (hl : a.lanes = [l]) (hkind : a.kind = .st) :
    performAcc a s = dropAccess a.id (commonsWrite a.pad l.addr (leBytes a.bytes l.data) s) := by
  rw [performAcc_one hspace hl, commonsLane_st hkind, afterPerform_ends (.inl hkind)]

/-- A load of one lane from commons waits for its reply with what it read. -/
theorem performAcc_ld (hspace : a.space = 1) (hl : a.lanes = [l]) (hkind : a.kind = .ld) (hro : a.ro = false) :
    performAcc a s = performed { a with lanes := [{ l with got := leNat (commonsRead a.pad (some (Fin.ofNat 1024 a.core)) l.addr a.bytes s).2.1 }] }
      (commonsRead a.pad (some (Fin.ofNat 1024 a.core)) l.addr a.bytes s).1 := by
  rw [performAcc_one hspace hl, commonsLane_ld hkind hro, afterPerform_replies (.inl hkind)]

/-- What the arrival of an access answers, by what it makes of the state. -/
theorem exec_localReq (hs : atWork s = true) {u : State} (h : localArrives id .clean s = u) :
    exec (.localReq ⟨id, .clean, none⟩) s = .next (leaves s (finish u)) := answer_ifWork s (localArrives id .clean) hs |>.trans (by rw [h])

theorem exec_loftReq (hs : atWork s = true) {ecc : EccResult} {u : State} (h : loftReq id ecc s = u) :
    exec (.loftReq ⟨id, none⟩ ecc) s = .next (leaves s (finish u)) := answer_ifWork s (loftReq id ecc) hs |>.trans (by rw [h])

/-- Settles O35: an access that nothing holds back is performed, by its kind, at the memory of its space. -/
theorem accessesArePerformed : Obligations.AccessesArePerformed := by
  unfold Obligations.AccessesArePerformed
  intro s id a l b hs hf hl hb hblocked hbefore
  refine ⟨fun hspace hbehind => ?own, fun u v x hspace hro hleave hrank hhold => ⟨fun hkind ecc => ?store, fun hkind hclean => ?load⟩,
    fun r ecc hspace hlost => ?lost⟩
  case own =>
    have hperf := localArrives_performs hblocked hbefore hf hspace hbehind
    refine ⟨fun hkind => exec_localReq hs (hperf.trans ?_), fun hkind => exec_localReq hs (hperf.trans ?_),
      fun hkind => exec_localReq hs (hperf.trans ?_), fun hkind => exec_localReq hs (hperf.trans ?_)⟩
    · rw [localLanes_reads hl hb (laneOp_ld hkind _), afterPerform_replies (.inl hkind), teamFlags_none]
    · rw [localLanes_writes hl hb (laneOp_st hkind _), afterPerform_ends (.inl hkind), teamFlags_none]
    · rw [localLanes_writes hl hb (laneOp_red hkind _), afterPerform_ends (.inr hkind)]
    · rw [localLanes_writes hl hb (laneOp_atom hkind _), afterPerform_replies (.inr hkind)]
  case store =>
    exact exec_loftReq hs ((loftReq_performs hblocked hbefore hf hspace hleave hrank hhold (accEcc_store hspace hkind ecc)
      (lanesPoison_store hkind)).trans (performAcc_st (a := { a with level := some x }) hspace hl hkind))
  case load =>
    have hpoison : lanesPoison v { a with level := some x } = .clean := lanesPoison_clean hspace hl hclean
    exact exec_loftReq hs ((loftReq_performs hblocked hbefore hf hspace hleave hrank hhold (accEcc_clean hspace) hpoison).trans
      (performAcc_ld (a := { a with level := some x }) hspace hl hkind hro))
  case lost => exact answer_atWork hs ((if_pos hs).trans (lostPkt_loses hblocked hbefore hf hspace hlost r.val))

end Sys2Proof.Machine
end

section
/-! PROOFS. Blocks, invocations and moves (R79, R91, R122, R174, R184, R195). -/

namespace Sys2Proof.Machine

variable {s : State}

/-- Where work goes on the module is in GALLOP or in TROT. -/
theorem atWork_state (hs : atWork s = true) : (s.pwr.state == .gallop || s.pwr.state == .trot) = true := (Bool.and_eq_true_iff.mp hs).2

/-- A core that has no block of a stage to start takes the next block of the paddock's launch. -/
theorem blockStart_launch {pad n : Nat} {d : Pad} {l : Launch} {t : State} (hs : atWork s = true) (hd : getPad s pad = some d) (hr : restarting s = false)
    (hst : s.pwr.stalled.contains pad = false) (hstage : startStageBlock pad n { s with pwr := { s.pwr with state := .gallop } } = none)
    (hl : d.launches = [l]) (hlaunch : startLaunchBlock pad n l { s with pwr := { s.pwr with state := .gallop } } = some t) : blockStart pad n s = t := by
  have hgo : ¬ (restarting s || s.pwr.stalled.contains pad || !(s.pwr.state == .gallop || s.pwr.state == .trot)) = true := by
    rw [hr, hst, atWork_state hs]
    exact Bool.false_ne_true
  unfold blockStart
  rw [hd]
  simp only [if_neg hgo, hstage, hl, List.findSome?_cons, hlaunch]

/-- A count that passes the bound of a block by 1 is over it: the count has 64 bits, the bound 32. -/
theorem overBound_past (b : Block) : Block.overBound { b with ac := BitVec.ofNat 64 (b.bound.toNat + 1) } = true := by
  have hbound := b.bound.isLt
  refine decide_eq_true ?_
  rw [BitVec.toNat_ofNat, Nat.mod_eq_of_lt (by omega)]
  exact Nat.lt_succ_self _

/-- The unit that WATCHDOG names: the block, with a team and a PC that are left open (log 2). -/
def watchdogUnit (core : Nat) (b : Block) (s : State) : JobUnit :=
  { utype := 1, uindex := core, pad := b.pad, block := b.block, team := Config.freeChoice s.free % 16,
    stage := match b.src with | .stage k _ => k | .launch _ => 0xFF, pc := BitVec.ofNat 64 (16 * Config.freeChoice (s.free + 1)) }

theorem watchdog_raises {core slot : Nat} {b : Block} (hb : getBlock s core slot = some b) (he : b.exited = false) :
    watchdog core slot s = jobFault (watchdogUnit core b s) watchdogFault 0
      { setBlock core slot { b with ac := BitVec.ofNat 64 (b.bound.toNat + 1) } s with free := s.free + 2 } := by
  have hgo : ¬ (b.exited || !Block.overBound { b with ac := BitVec.ofNat 64 (b.bound.toNat + 1) }) = true := by
    rw [overBound_past b, he]
    exact Bool.false_ne_true
  unfold watchdog
  rw [hb]
  exact if_neg hgo

/-- An invocation that runs and whose blocks have all exited ends. -/
theorem invocationEnd_ends {pad k : Nat} {pl : Pipe} {x : StageRt} (hp : getPipe s pad = some pl) (hx : stageRt pl k = some x) (hr : x.running = true)
    (ho : invocationOver s pad x = true) :
    let locals := x.cfg.cores.zipIdx.foldl (fun t c => tput t c.2 (stageLocal s pad k c.1)) x.locals
    let others (s : State) (n : Nat) : Tbl Block := (getCore s n).blocks.filter fun b => !(b.2.pad == pad && b.2.src == .stage k x.inv)
    let u := x.cfg.cores.foldl (fun s n => setCore n { getCore s n with blocks := others s n } s) s
    let u := modStage pad k (fun x => { x with inv := x.inv + 1, running := false, locals := locals.filter fun e => !e.2.isEmpty }) u
    let u := x.cfg.cores.foldl (fun s n => retireIfFree n s) (pl.paths.foldl (fun s p => commitPath pad pl k x.inv p s) u)
    invocationEnd pad k s = releaseStages pad (endPipe pad u) := by
  have hgo : ¬ (!x.running || !invocationOver s pad x) = true := by
    rw [hr, ho]
    exact Bool.false_ne_true
  unfold invocationEnd
  simp only [hp, hx]
  exact if_neg hgo

/-- A move whose replays have landed ends once its stage has passed the invocation that it restarted. -/
theorem moveReplaysLanded_ends {pad k : Nat} {pl : Pipe} {m : MoveRt} {x : StageRt} (hp : getPipe s pad = some pl)
    (hm : (pl.moves.find? fun m => m.took && m.stage == k) = some m) (hx : stageRt pl k = some x) (hreplay : ∀ q ∈ s.mesh.pkts, q.replay = false)
    (hinv : m.inv < x.inv) : moveReplaysLanded pad k s =
      statusOpt m.cmd done [] (modPipe pad (fun p => { p with moves := p.moves.filter fun y => y != m }) s) := by
  have hlanded : ∀ paths : List Byte, (s.mesh.pkts.any fun q => q.pad == pad && q.replay && paths.contains q.path) = false := fun paths =>
    List.any_eq_false.mpr fun q hq => by simp [hreplay q hq]
  unfold moveReplaysLanded
  simp only [hp, hm, hx]
  refine if_neg ?_
  rw [hlanded, decide_eq_true hinv]
  exact Bool.false_ne_true

/-- Settles O40: each event finds what its premises say of the paddock, the block, the invocation or the move, and does what the model's event does there. -/
theorem blockEvents : Obligations.BlockEvents := by
  unfold Obligations.BlockEvents
  refine ⟨?start, ?watchdog, ?ends, ?moved⟩
  case start =>
    intro s t pad core d l hs hd hr hst hstage hl hlaunch
    exact (answer_ifWork s (blockStart pad.val core.val) hs).trans (by rw [blockStart_launch hs hd hr hst hstage hl hlaunch])
  case watchdog =>
    intro s core slot b hs hb he
    exact ⟨watchdogUnit core.val b s, rfl, rfl, rfl, (answer_ifWork s (watchdog core.val slot.val) hs).trans (by rw [watchdog_raises hb he])⟩
  case ends =>
    intro s pad stage pl x hs hp hx hr ho
    exact (answer_ifWork s (fun s => commitSteps pad.val (invocationEnd pad.val stage.val s)) hs).trans (by rw [invocationEnd_ends hp hx hr ho])
  case moved =>
    intro s pad stage pl m x hs hp hm hx hreplay hinv
    exact (answer_ifWork s (moveReplaysLanded pad.val stage.val) hs).trans (by rw [moveReplaysLanded_ends hp hm hx hreplay hinv])

end Sys2Proof.Machine
end

section
/-! PROOFS. The SYS family (R111 to R113, R253): what of O18 holds of every module, and what it says of the ac that elapse. -/

namespace Sys2Proof.Machine

variable {i : Issue} {w : IWord} {s : State} {c : Ctx}

@[simp] theorem past_flags : (past w c).t.flags = c.t.flags := by
  obtain ⟨r, hr⟩ := advance_ring w c.t
  rw [past, hr]

/-- A read of a special register other than CLOCK changes its team alone. -/
theorem exec_sreg_fixed (h : Issues i w (fun _ => sregForm w) s c) (hk : w.imm.toNat < 11) :
    exec (.sreg i w) s = .next (retires c (laneResults 1 w (sregOf (past w c) w.imm.toNat) (past w c))) := by
  have hseen : clockSeen w.imm.toNat (past w c) = past w c := if_neg (by omega)
  exact answer_issue_put h (by rw [hseen])

theorem invalCaches_inputs (core : Nat) (const desc : Bool) (u : State) :
    (invalCaches core const desc u).pending = u.pending ∧ (invalCaches core const desc u).pins = u.pins := by
  unfold invalCaches
  dsimp only
  split <;> exact ⟨rfl, rfl⟩

/-- A core's caches after a drop: those named are empty, the others as they were. -/
theorem getCore_invalCaches (core : Nat) (const desc : Bool) (u : State) : getCore (invalCaches core const desc u) core =
    { getCore u core with constant := if const then [] else (getCore u core).constant, desc := if desc then [] else (getCore u core).desc } := by
  unfold invalCaches
  dsimp only
  split <;> exact getCore_setCore ..

theorem exec_inval (const desc : Bool) (h : Issues i w (fun _ => bareForm) s c) (hon : c.on ≠ []) :
    answer s (issue i w bareForm (inval const desc) s) = .next (retired c (invalCaches c.core const desc (c.put (past w c).t))) := by
  obtain ⟨_, hs, _⟩ := ready_spec s i w c h.2.1
  have hbody : inval const desc (past w c) = invalCaches c.core const desc (c.put (past w c).t) := if_neg (by simpa using hon)
  obtain ⟨hq, hp⟩ := invalCaches_inputs c.core const desc (c.put (past w c).t)
  exact answer_issue_keeps h hbody (hq.trans (hs ▸ put_pending ..)) (hp.trans (hs ▸ put_pins ..))

/-- The lanes in which an issued instruction acts are listed once. -/
theorem on_nodup (h : ready s i w = some c) : c.on.Nodup := by
  obtain ⟨_, _, _, _, _, hon⟩ := ready_holds h
  rw [hon]
  exact (List.nodup_range.filter _).filter _

theorem opd_gen_lt {f : BitVec 9} {r : Nat} (h : opd f = .gen r) : r < 256 := by
  unfold opd at h
  split at h
  · next hf => cases h; exact hf
  · split at h <;> [cases h; (split at h <;> cases h)]

/-! ## CLOCK (R112) -/

/-- The state in which a read of CLOCK has moved the known count of its block on. -/
def counts (c : Ctx) : State := useFree (modBlock c.core c.slot (Block.counted (Config.elapsedAc c.s.free).toNat) c.s)

theorem counts_inputs (c : Ctx) : (counts c).pending = c.s.pending ∧ (counts c).pins = c.s.pins ∧ (counts c).free = c.s.free + 1 := by
  obtain ⟨_, h⟩ := modBlock_cases c.core c.slot (Block.counted (Config.elapsedAc c.s.free).toNat) c.s
  rw [counts, h]
  exact ⟨rfl, rfl, rfl⟩

theorem getBlock_counts {b : Block} (hb : getBlock c.s c.core c.slot = some b) :
    getBlock (counts c) c.core c.slot = some (b.counted (Config.elapsedAc c.s.free).toNat) := by
  have hmod : modBlock c.core c.slot (Block.counted (Config.elapsedAc c.s.free).toNat) c.s =
      setBlock c.core c.slot (b.counted (Config.elapsedAc c.s.free).toNat) c.s := by simp only [modBlock, hb]
  rw [counts, hmod]
  exact getBlock_setBlock ..

/-- A read of CLOCK: the block's known count moves on within its bound, and each lane reads what the model's clock gives. -/
theorem exec_sreg_clock (h : Issues i w (fun _ => sregForm w) s c) (hk : 11 ≤ w.imm.toNat) :
    ∃ t y, exec (.sreg i w) s = .next t ∧ t.free = s.free + 1 ∧ getTeam t i.core.val i.slot.val i.team.val = some y ∧
      (getBlock t i.core.val i.slot.val).map (fun b => b.ac) = some (c.b.counted (Config.elapsedAc s.free).toNat).ac ∧
      ∀ l ∈ c.on, ∀ r, opd w.dst = .gen r → r ≠ 255 → readG y l r = BitVec.ofNat 32 (sregOf (past w c) w.imm.toNat l) := by
  obtain ⟨_, rfl, hcore, hslot, hteam⟩ := ready_spec s i w c h.2.1
  obtain ⟨hb, ⟨x, hx, _⟩, _, _, _, hon⟩ := ready_holds h.2.1
  obtain ⟨hq, hp, hfree⟩ := counts_inputs c
  rw [← hcore, ← hslot, ← hteam]
  let T := laneResults 1 w (sregOf (past w c) w.imm.toNat) (past w c)
  have hexec : exec (.sreg i w) c.s = .next (retired c (modTeam c.core c.slot c.team (fun _ => T) (counts c))) :=
    answer_issue_keeps h (by simp only [clockSeen, if_pos hk]; rfl) ((modTeam_pending ..).trans hq) ((modTeam_pins ..).trans hp)
  have hblock := getBlock_counts hb
  have hthere : getTeam (counts c) c.core c.slot c.team = some x := getTeam_eq_some.mpr ⟨_, hblock, hx⟩
  obtain ⟨ts, hts, _⟩ := getBlock_modTeam (team := c.team) (fun _ => T) hblock
  obtain ⟨us, hus, _⟩ := getBlock_modTeam (team := c.team) settleTeam hts
  refine ⟨_, _, hexec, ?free, getTeam_modTeam settleTeam (getTeam_modTeam (fun _ => T) hthere), ?count, fun l hl r hr h255 => ?reads⟩
  case free =>
    obtain ⟨_, h₁⟩ := modTeam_cases c.core c.slot c.team settleTeam (modTeam c.core c.slot c.team (fun _ => T) (counts c))
    obtain ⟨_, h₂⟩ := modTeam_cases c.core c.slot c.team (fun _ => T) (counts c)
    rw [retired, h₁, h₂]
    exact hfree
  case count => rw [retired, hus, Option.map_some]
  case reads =>
    have hreads := readG_writeLanes_listed hr h255 (n := 1) (vals := c.on.map fun l => (l, sregOf (past w c) w.imm.toNat l))
      (by have := opd_gen_lt hr; omega) (by rw [List.map_map]; exact (List.map_id _).symm ▸ on_nodup h.2.1) (List.mem_map_of_mem hl) r (past w c).t
    rw [if_pos ⟨le_rfl, Nat.lt_succ_self r⟩, Nat.sub_self, Nat.mul_zero, Nat.pow_zero, Nat.div_one] at hreads
    exact hreads

/-! ## What O18 turns on -/

/-- Whether a group is ready does not depend on the free values. -/
theorem ready_free (n : Nat) : ready { s with free := n } i w = (ready s i w).map fun c => { c with s := { s with free := n } } := by
  have hwork : atWork { s with free := n } = atWork s := rfl
  have hblock : getBlock { s with free := n } i.core.val i.slot.val = getBlock s i.core.val i.slot.val := rfl
  unfold ready
  rw [hwork, hblock]
  split
  · rfl
  · split
    · rfl
    · split
      · rfl
      · dsimp only
        split
        · rfl
        · split <;> rfl

theorem issues_free {form : Form} (h : Issues i w (fun _ => form) s c) (n : Nat) :
    Issues i w (fun _ => form) { s with free := n } { c with s := { s with free := n } } := by
  obtain ⟨hs, hr, hl, hw⟩ := h
  exact ⟨hs, by rw [ready_free, hr]; rfl, hl, hw⟩

/-- The device after reset with a block of ac 0 and bound 0 at slot 0 of core 0. -/
def begun : State := { State.reset with cores := [(0, { getCore State.reset 0 with blocks := [(0, twoTeams)] })] }

/-- sreg of a special register to g4 of every lane. -/
def sregWord (k : W32) : IWord :=
  { rsv := 0, yield := false, ext := 0, imm := k, pen := false, pdst := 0, mod := 0, fmt := 0, srcC := 0, srcB := 0, srcA := 0, dst := 4, gneg := false,
    gpred := 7 }

/-- The context of that issue: a block of ac 0 and bound 0 outside every confidential paddock, and lane 0 among the lanes that act. -/
def Begun (c : Ctx) : Prop := c.b.ac = 0 ∧ c.b.bound = 0 ∧ 0 ∈ c.on ∧ isConf begun c.b.pad = false

theorem begun_low : ∃ c, Issues firstTeam (sregWord 11) (fun _ => sregForm (sregWord 11)) begun c ∧ Begun c := by
  unfold Begun
  exact exists_issues rfl (by decide)

theorem begun_high : ∃ c, Issues firstTeam (sregWord 12) (fun _ => sregForm (sregWord 12)) begun c ∧ Begun c := by
  unfold Begun
  exact exists_issues rfl (by decide)

/-- What O18 says of CLOCK. -/
def ClockWithinBound : Prop :=
  ∀ (i : Issue) (w : IWord) (s : State) (c : Ctx), Issues i w (fun _ => sregForm w) s c → w.imm = 11 ∨ w.imm = 12 →
    let v := (c.b.counted (Config.elapsedAc s.free).toNat).ac.toNat
    let x := if isConf s c.b.pad then v / 65536 * 65536 else v
    ∃ t y, exec (.sreg i w) s = .next t ∧ t.free = s.free + 1 ∧ getTeam t i.core.val i.slot.val i.team.val = some y ∧
      (getBlock t i.core.val i.slot.val).map (fun b => b.ac) = some (c.b.counted (Config.elapsedAc s.free).toNat).ac ∧
      ∀ l ∈ c.on, ∀ r, opd w.dst = .gen r → r ≠ 255 → readG y l r = BitVec.ofNat 32 (if w.imm = 11 then x else x / 2 ^ 32)

theorem imm_clock (hk : w.imm = 11 ∨ w.imm = 12) : (w.imm = 11 ∧ w.imm.toNat = 11) ∨ (w.imm ≠ 11 ∧ w.imm.toNat = 12) := by
  rcases hk with h | h <;> rw [h] <;> decide

/-- What the model reads of CLOCK, by the half that a word names. -/
theorem sregOf_clock (hk : w.imm = 11 ∨ w.imm = 12) (l : Nat) :
    BitVec.ofNat 32 (sregOf c w.imm.toNat l) = BitVec.ofNat 32 (if w.imm = 11 then (clockOf c).toNat else (clockOf c).toNat / 2 ^ 32) := by
  rcases imm_clock hk with ⟨h, hn⟩ | ⟨h, hn⟩
  · rw [if_pos h, hn]
    exact BitVec.eq_of_toNat_eq (by simp [sregOf])
  · rw [if_neg h, hn]
    rfl

/-- Where no ac elapse, the known count of a block stands. -/
theorem counted_zero (b : Block) : (b.counted 0).ac = b.ac := by
  have hac : max b.ac.toNat (min (b.ac.toNat + 0) b.bound.toNat) = b.ac.toNat := by omega
  rw [Block.counted, hac, BitVec.ofNat_toNat, BitVec.setWidth_eq]

theorem clockOf_open (h : isConf c.s c.b.pad = false) : clockOf c = c.b.ac + Config.elapsedAc c.s.free := by
  rw [clockOf, h]
  rfl

theorem clockOf_still (h : Config.elapsedAc c.s.free = 0) :
    (clockOf c).toNat = if isConf c.s c.b.pad then c.b.ac.toNat / 65536 * 65536 else c.b.ac.toNat := by
  have hsum : c.b.ac + Config.elapsedAc c.s.free = c.b.ac := by rw [h]; exact add_zero _
  have hac := c.b.ac.isLt
  unfold clockOf
  rw [hsum]
  split
  · rw [BitVec.toNat_ofNat, Nat.mod_eq_of_lt (by omega)]
  · rfl

/-- Where no ac elapse, the model's clock is what O18 says of it. -/
theorem clockWithinBound_still (h : ∀ n, Config.elapsedAc n = 0) : ClockWithinBound := by
  intro i w s c hi hk
  have hseen : 11 ≤ w.imm.toNat := by rcases imm_clock hk with ⟨_, hn⟩ | ⟨_, hn⟩ <;> omega
  obtain ⟨_, hs, _⟩ := ready_spec s i w c hi.2.1
  obtain ⟨t, y, hexec, hfree, hteam, hac, hread⟩ := exec_sreg_clock hi hseen
  refine ⟨t, y, hexec, hfree, hteam, hac, fun l hl r hr h255 => (hread l hl r hr h255).trans ((sregOf_clock hk l).trans ?_)⟩
  have hclock := clockOf_still (c := past w c) (h _)
  rw [past_s, past_b, hs] at hclock
  have hcount : (c.b.counted (Config.elapsedAc s.free).toNat).ac = c.b.ac := by rw [h]; exact counted_zero c.b
  rw [hclock, hcount]

/-- A block of bound 0 that has just begun: what O18 says of its clock is 0, what the model reads is the elapsed ac. -/
theorem elapsed_half (h : ClockWithinBound) {k : W32} (hk : k = 11 ∨ k = 12)
    (hc : ∃ c, Issues firstTeam (sregWord k) (fun _ => sregForm (sregWord k)) begun c ∧ Begun c) (n : Nat) :
    BitVec.ofNat 32 (if k = 11 then (Config.elapsedAc n).toNat else (Config.elapsedAc n).toNat / 2 ^ 32) = 0 := by
  obtain ⟨c, hi, hac, hbound, hon, hconf⟩ := hc
  have hin := issues_free hi n
  have hseen : 11 ≤ (sregWord k).imm.toNat := by rcases imm_clock (w := sregWord k) hk with ⟨_, hn⟩ | ⟨_, hn⟩ <;> omega
  obtain ⟨t, y, hexec, _, hteam, _, hsaid⟩ := h _ _ _ _ hin hk
  obtain ⟨t', y', hexec', _, hteam', _, hread⟩ := exec_sreg_clock hin hseen
  obtain rfl : t = t' := Host.Outcome.next.inj (hexec.symm.trans hexec')
  obtain rfl : y = y' := Option.some.inj (hteam.symm.trans hteam')
  have hclock : clockOf (past (sregWord k) { c with s := { begun with free := n } }) = Config.elapsedAc n := by
    rw [clockOf_open hconf, past_b, hac]
    exact zero_add _
  have hzero : (c.b.counted (Config.elapsedAc n).toNat).ac.toNat = 0 := by
    rw [Block.counted, hac, hbound]
    simp
  have hmodel := (hread 0 hon 4 rfl (by decide)).trans (sregOf_clock (w := sregWord k) hk 0)
  rw [hclock] at hmodel
  refine hmodel.symm.trans ((hsaid 0 hon 4 rfl (by decide)).trans ?_)
  simp [hzero]

/-- O18 cannot be settled: it holds of the modules whose blocks see no ac elapse between two reads of CLOCK, and of no others, and what elapses is a constant
of which nothing is known (log 10). The bound up to which a count is known is not a bound on what CLOCK reads. -/
theorem systemInstructions_iff : Obligations.SystemInstructions ↔ ∀ n, Config.elapsedAc n = 0 := by
  unfold Obligations.SystemInstructions
  refine ⟨fun h n => ?elapsed, fun h => ⟨fun i w s c => ⟨fun hi => ⟨fun f hf => ?fixed, fun hk => ?stage⟩, fun hi => ?flagsRd, fun hi hon => ?flagsClr,
    fun hi hon => ?inval, fun u core => ?caches⟩, clockWithinBound_still h⟩⟩
  case elapsed =>
    have hlow : (Config.elapsedAc n).toNat % 2 ^ 32 = 0 := congrArg BitVec.toNat (elapsed_half h.2 (.inl rfl) begun_low n)
    have hhigh : (Config.elapsedAc n).toNat / 2 ^ 32 % 2 ^ 32 = 0 := congrArg BitVec.toNat (elapsed_half h.2 (.inr rfl) begun_high n)
    have hlt := (Config.elapsedAc n).isLt
    have hzero : (Config.elapsedAc n).toNat = 0 := by omega
    exact BitVec.eq_of_toNat_eq hzero
  case fixed =>
    obtain ⟨_, rfl, hcore, _, hteam⟩ := ready_spec s i w c hi.2.1
    have hresult : w.imm.toNat < 11 ∧ sregOf (past w c) w.imm.toNat = f := by
      rcases hf with ⟨hk, rfl⟩ | ⟨hk, rfl⟩ | ⟨hk, rfl⟩ | ⟨hk, rfl⟩ | ⟨hk, rfl⟩ | ⟨hk, rfl⟩ | ⟨hk, rfl⟩ | ⟨hk, rfl⟩ | ⟨hk, rfl⟩ | ⟨hk, rfl⟩ <;>
        rw [hk] <;> refine ⟨by decide, funext fun l => ?_⟩ <;> simp [sregOf, hcore, hteam]
    obtain ⟨hk, rfl⟩ := hresult
    exact exec_sreg_fixed hi hk
  case stage =>
    have hk' : w.imm.toNat = 8 := by rw [hk]; rfl
    have hexec := exec_sreg_fixed hi (by omega)
    rw [hk'] at hexec
    exact hexec
  case flagsRd =>
    refine (answer_issueTeam i w flagsRdForm _ s c hi).trans ?_
    rw [past_flags]
    rfl
  case flagsClr =>
    refine (answer_issueTeam i w (ctlForm true true) _ s c hi).trans ?_
    rw [ifAny, if_neg (by simpa using hon), past_flags]
    rfl
  case inval => exact ⟨exec_inval true false hi hon, exec_inval false true hi hon⟩
  case caches => simp only [getCore_invalCaches]; exact ⟨rfl, rfl, rfl, rfl⟩

end Sys2Proof.Machine
end
